-- ==== Sys2Proof/Word.lean ====
section
/-!
DEFINITION. Sys2Proof/Word.lean: the words of the machine (00 R8: little-endian, bit 0 least significant)
and their plainest arithmetic.
-/
namespace Sys2Proof

/-- One byte of memory. -/
abbrev Byte := BitVec 8

/-- A 64-bit word: a cursor, an integer register half, a control register (04 R100, R111). -/
abbrev Word := BitVec 64

/-- The 128 bits of a register or of a memory quad, without the tag (04 R100). -/
abbrev Quad := BitVec 128

/-- A register number c0 to c31 (02 R46). -/
abbrev RegNo := BitVec 5

end Sys2Proof
end

