-- ==== Sys2Proof/Config.lean ====
section
/-!
DEFINITION. Sys2Proof/Config.lean: what an implementation fixes and the free values. A free value is an opaque
constant applied to the counter `free` of the state (or to what it depends on): no proof sees what it is.
-/
namespace Sys2Proof.Config

/-- A choice the spec leaves between listed outcomes ("exactly one of", 00 R11): true takes the first. -/
opaque pick : Nat → Bool

/-- The set of an L1 part, among `sets`, that a line falls in: the index is not given (08 R249) (log 14, DESIGN CHOICE). -/
opaque l1Set : Nat → Nat → Nat

/-- The set of a slice's data part, among `sets`, that a line falls in: the index is not given (08 R226, R249). -/
opaque sliceSet : Nat → Nat → Nat

/-- The ticket number a slice chooses for an invalidate-all record (08 R237). -/
opaque ticket : Nat → BitVec 16

/-- A byte read from another module's memory by an engine: its contents are outside this module (18 R460). -/
opaque peerByte : Nat → BitVec 8

/-- The status with which another module answers a message or an agent command (18 R460). -/
opaque peerStatus : Nat → BitVec 64

/-- A word of a measurement, digest or signature (19 R466, R467): the hash values are not given. -/
opaque digestWord : Nat → BitVec 64

/-- Whether an image of this number verifies under the fused key (19 R466). -/
opaque imageVerifies : Nat → Bool

/-- The version field of an image of this number (19 R466). -/
opaque imageVersion : Nat → Nat

/-- What `cgetbase`, `cgettop` and `cgetlen` give for an untagged operand whose rebuilt bound is no number from 0 to
2^65 − 1: the spec states no result there (04 R107, R122). -/
opaque boundOf : Nat → BitVec 128 → BitVec 128

/-- A value the spec leaves unstated, taken at the state's counter of free values. -/
opaque value : Nat → BitVec 64

end Sys2Proof.Config
end

