-- ==== Sys2Proof/Syntax.lean ====
section
/-!
DEFINITION. Sys2Proof/Syntax.lean: the instructions and events of the module, one constructor for each row of
the opcode table (02 R56 to R62 for the 241 program instructions, 95_what_each_step_holds.md for the 91 events).
Register operands keep the field names d, a, b, c of 02 R46.
-/
namespace Sys2Proof

/-- The integer width modifier m of 02 R57: 64 bits, 32 bits sign-extended, 32 bits zero-extended. -/
inductive Width where | d | w | wz
  deriving DecidableEq, Repr

/-- The scalar floating-point formats, format codes 0 to 3 of 02 R52. -/
inductive FFmt where | f64 | f32 | bf16 | f16
  deriving DecidableEq, Repr

/-- The number formats, codes 0 to 10 of 02 R52. -/
inductive Fmt where | f64 | f32 | bf16 | f16 | k8 | i8 | i32 | i64 | i8z | i32z | i64z
  deriving DecidableEq, Repr

/-- The six scopes of 01 R29. -/
inductive Scope where | core | clu | die | mod | dom | sys
  deriving DecidableEq, Repr

/-- The residency hints of 02 R53: default, streaming, sticky, bypass. -/
inductive Hint where | none | s | k | b
  deriving DecidableEq, Repr

/-- The rounding field of `fcvt` (02 R60): the thread's mode, or one of the six modes. -/
inductive Rnd where | thread | rne | rna | rtz | rup | rdn | sr
  deriving DecidableEq, Repr

/-- The control registers in the order of their codes 0 to 11 (02 R60). -/
inductive KReg where
  | tid | lcore | seed | hyp | fpcsr | faultrec | ctx | auth | prio | wake | carve | cycle
  deriving DecidableEq, Repr

/-- The widths of `amo`, `cas`, `lres` and `scond` (02 R62). -/
inductive AWidth where | w | d | q
  deriving DecidableEq, Repr

/-- The scope and `.rel` bit every command carries (02 R54). -/
structure Cx where
  scope : Scope
  rel : Bool
  deriving DecidableEq, Repr

/-- The scope, acq and rel fields of an atomic (02 R62). -/
structure Ord3 where
  scope : Scope
  acq : Bool
  rel : Bool
  deriving DecidableEq, Repr

/-- What a reply to a load or atomic brings (07 R192): the result the server left in the request, or, when the
server is the host or another module, the data or the fault cause that came from there. -/
inductive ExtReply where
  | served
  | data (v : Quad) (tag : Bool)
  | fault (cause : Byte)
  deriving DecidableEq, Repr

/-- The firing of a watch that reaches its thread: the `i`-th on its way in this module, or one of a watch that another module
holds (18 R460, R462). -/
inductive FireSrc where
  | mine (i : Nat)
  | peer (tid : Nat) (slot : BitVec 3) (hidden : Bool)
  deriving DecidableEq, Repr

/-- What a party of another module asks (18 R460 to R463): an access to a window or to memory, with the memory tag that a quad
brings; for `scond`, whether its reservation stands (log 105, DESIGN CHOICE); the arming or removal of a watch; an agent command with its member,
issuer, reference, data, the entries that travel with it, whether its own core has granted it, and a `twrite`'s image. -/
inductive PeerOp where
  | load (len : Nat)
  | store (bytes : List Byte) (tag : Bool)
  | atomic (kind : BitVec 4) (width : AWidth) (operand : Quad) (tag : Bool)
  | cas (width : AWidth) (expected : Quad) (expTag : Bool) (operand : Quad) (tag : Bool)
  | lres (tid : BitVec 28) (width : AWidth)
  | scond (tid : BitVec 28) (width : AWidth) (operand : Quad) (tag : Bool) (reserved : Bool)
  | watch (tid : BitVec 28) (slot : BitVec 3) (hidden : Bool)
  | unwatch (tid : BitVec 28) (slot : BitVec 3) (hidden : Bool)
  | agent (member : BitVec 4) (tid : BitVec 28) (a b : Quad) (entries : List Word) (granted : Bool) (image : List (Quad × Bool))
  deriving DecidableEq, Repr

/-- A window request to be served by its target core: one of this module's requests by number, or one that
another module sent, with the sender's domain tag and rights word (18 R460, R461). -/
inductive WinReq where
  | mine (req : Nat)
  | peer (chip : BitVec 9) (tag : BitVec 16) (addr : Word) (op : PeerOp)
  deriving DecidableEq, Repr

/-- The message that arrives at a port (11 R308): the send numbered `i` in the slots of core `core`, or a message of another
module's thread with its domain tag, target, header word, payload and the bits eos and wait of its descriptor. -/
inductive MsgSrc where
  | slot (core : Nat) (i : Nat)
  | peer (chip : BitVec 9) (tag : BitVec 16) (tid : BitVec 28) (core : Nat) (port : Nat) (word : Word) (payload : List Byte)
      (eos wait : Bool)
  deriving DecidableEq, Repr

/-- What hardware zeroing clears (10 R299, 19 R472): lines of device memory, a core, a group's ring. -/
inductive ZeroTarget where
  | range (base : Nat) (lines : Nat)
  | core (core : Nat)
  | ring (group : Nat)
  deriving DecidableEq, Repr

/-- An ATS translation completion (17 R440): a host page with its permissions and size, or no translation. -/
inductive AtsResult where
  | ok (hpage : Nat) (read write execute : Bool) (lgSize : Nat)
  | none
  deriving DecidableEq, Repr

/-- A PRI page-request-group response code (17 R441). -/
inductive PriResult where | success | invalid | failure
  deriving DecidableEq, Repr

/-- A PCIe read completion (17 R443): data, or an error status. -/
inductive PcieResult where
  | data (v : Quad) | unsupported | abort | timeout | poisoned
  deriving DecidableEq, Repr

/-- An access another module sends to an offered range of this module (18 R463). -/
structure PeerReq where
  chip : BitVec 9
  tag : BitVec 16
  addr : Nat
  op : PeerOp
  deriving DecidableEq, Repr

/-- A mailbox command's frame (19 R469): the function whose mailbox it is (64: the firmware's), its command sequence, whether a
reserved argument bit is set, and the first 32 bytes of its arguments, which the journal keeps (19 R470). -/
structure Mail where
  fn : Nat
  seq : Nat
  reserved : Bool
  args : List Word
  deriving DecidableEq, Repr

/-- The items of a partition's set-up (17 R452): partition, PASID, domain tag (18 R461), translation record (09 R258), key
slots, class budgets of the request queue and of the memory port (08 R255), version lines (15 R410), HDM range as host base,
virtual base and size, mint capability, device memory given as (first byte, lines), entries of the table of 18 R463, the descriptors of its
host queues (06 R168), whether the host has enabled ATS on the function (17 R440). -/
structure PartArgs where
  part : Nat
  pasid : Nat
  domTag : Nat
  record : List Word
  keys : List Nat
  budgets : List Word
  memBudgets : List Word
  verLines : Nat
  hdm : Option (Nat × Nat × Nat)
  mint : Quad
  pages : List (Nat × Nat)
  offers : List (Nat × Word)
  queues : List Nat
  ats : Bool
  deriving DecidableEq, Repr

/-- What a boot finds and what the steward chooses (19 R466, R468): the two images by number; for the firmware's load its
partition's set-up, core, code capability with the cursor at its entry, data capability, context block, record line, the
mailbox page's virtual and device address, the clusters and cores of its authority entries; and the words of device memory that
the steward writes (the image and page tables) (log 38, DESIGN CHOICE). -/
structure BootArgs where
  stewardImg : Nat
  firmwareImg : Nat
  setup : PartArgs
  core : Nat
  code : Quad
  data : Quad
  ctx : Word
  record : Word
  mailVa : Word
  mailAt : Nat
  clusters : List Nat
  stops : List Nat
  words : List (Nat × Word)
  deriving DecidableEq, Repr

/-- What ends a low-power state (19 R471). -/
inductive WakeSrc where | launch | host | link | thermal
  deriving DecidableEq, Repr

/-- The instructions and events of the module, in the order of the opcode table. -/
inductive Instr where
  | nop  -- R128
  | yield  -- R129
  | exit  -- R130
  | trap (imm : BitVec 16)  -- R131
  | kget (d : RegNo) (k : KReg)  -- R113
  | kputFpcsr (a : RegNo)  -- R113
  | kputFaultrec (a : RegNo)  -- R113
  | kputPrio (a : RegNo)  -- R113
  | kputWake (a : RegNo)  -- R113
  | kputCarve (a : RegNo)  -- R251
  | add (d : RegNo) (w : Width) (a b : RegNo)  -- R118
  | sub (d : RegNo) (w : Width) (a b : RegNo)  -- R118
  | and (d : RegNo) (w : Width) (a b : RegNo)  -- R118
  | or (d : RegNo) (w : Width) (a b : RegNo)  -- R118
  | xor (d : RegNo) (w : Width) (a b : RegNo)  -- R118
  | sll (d : RegNo) (w : Width) (a b : RegNo)  -- R118
  | srl (d : RegNo) (w : Width) (a b : RegNo)  -- R118
  | sra (d : RegNo) (w : Width) (a b : RegNo)  -- R118
  | slt (d : RegNo) (w : Width) (a b : RegNo)  -- R118
  | sltu (d : RegNo) (w : Width) (a b : RegNo)  -- R118
  | seq (d : RegNo) (w : Width) (a b : RegNo)  -- R118
  | sne (d : RegNo) (w : Width) (a b : RegNo)  -- R118
  | min (d : RegNo) (w : Width) (a b : RegNo)  -- R118
  | max (d : RegNo) (w : Width) (a b : RegNo)  -- R118
  | minu (d : RegNo) (w : Width) (a b : RegNo)  -- R118
  | maxu (d : RegNo) (w : Width) (a b : RegNo)  -- R118
  | mul (d : RegNo) (w : Width) (a b : RegNo)  -- R118
  | mulh (d : RegNo) (w : Width) (a b : RegNo)  -- R118
  | mulhu (d : RegNo) (w : Width) (a b : RegNo)  -- R118
  | div (d : RegNo) (w : Width) (a b : RegNo)  -- R118
  | divu (d : RegNo) (w : Width) (a b : RegNo)  -- R118
  | rem (d : RegNo) (w : Width) (a b : RegNo)  -- R118
  | remu (d : RegNo) (w : Width) (a b : RegNo)  -- R118
  | andn (d : RegNo) (w : Width) (a b : RegNo)  -- R118
  | orn (d : RegNo) (w : Width) (a b : RegNo)  -- R118
  | rol (d : RegNo) (w : Width) (a b : RegNo)  -- R118
  | ror (d : RegNo) (w : Width) (a b : RegNo)  -- R118
  | clz (d : RegNo) (w : Width) (a : RegNo)  -- R118
  | ctz (d : RegNo) (w : Width) (a : RegNo)  -- R118
  | popc (d : RegNo) (w : Width) (a : RegNo)  -- R118
  | bswap (d : RegNo) (w : Width) (a : RegNo)  -- R118
  | pack (d a b : RegNo)  -- R118
  | hi (d a : RegNo)  -- R118
  | sextb (d : RegNo) (w : Width) (a : RegNo)  -- R118
  | sexth (d : RegNo) (w : Width) (a : RegNo)  -- R118
  | addi (d : RegNo) (w : Width) (a : RegNo) (imm : BitVec 17)  -- R118
  | andi (d : RegNo) (w : Width) (a : RegNo) (imm : BitVec 17)  -- R118
  | ori (d : RegNo) (w : Width) (a : RegNo) (imm : BitVec 17)  -- R118
  | xori (d : RegNo) (w : Width) (a : RegNo) (imm : BitVec 17)  -- R118
  | slli (d : RegNo) (w : Width) (a : RegNo) (imm : BitVec 17)  -- R118
  | srli (d : RegNo) (w : Width) (a : RegNo) (imm : BitVec 17)  -- R118
  | srai (d : RegNo) (w : Width) (a : RegNo) (imm : BitVec 17)  -- R118
  | slti (d : RegNo) (w : Width) (a : RegNo) (imm : BitVec 17)  -- R118
  | sltui (d : RegNo) (w : Width) (a : RegNo) (imm : BitVec 17)  -- R118
  | seqi (d : RegNo) (w : Width) (a : RegNo) (imm : BitVec 17)  -- R118
  | snei (d : RegNo) (w : Width) (a : RegNo) (imm : BitVec 17)  -- R118
  | mini (d : RegNo) (w : Width) (a : RegNo) (imm : BitVec 17)  -- R118
  | maxi (d : RegNo) (w : Width) (a : RegNo) (imm : BitVec 17)  -- R118
  | minui (d : RegNo) (w : Width) (a : RegNo) (imm : BitVec 17)  -- R118
  | maxui (d : RegNo) (w : Width) (a : RegNo) (imm : BitVec 17)  -- R118
  | muli (d : RegNo) (w : Width) (a : RegNo) (imm : BitVec 17)  -- R118
  | roli (d : RegNo) (w : Width) (a : RegNo) (imm : BitVec 17)  -- R118
  | rori (d : RegNo) (w : Width) (a : RegNo) (imm : BitVec 17)  -- R118
  | li (d : RegNo) (imm : BitVec 54)  -- R119
  | lih (d : RegNo) (imm : BitVec 10)  -- R119
  | beq (a b : RegNo) (t : BitVec 17)  -- R120
  | bne (a b : RegNo) (t : BitVec 17)  -- R120
  | blt (a b : RegNo) (t : BitVec 17)  -- R120
  | bge (a b : RegNo) (t : BitVec 17)  -- R120
  | bltu (a b : RegNo) (t : BitVec 17)  -- R120
  | bgeu (a b : RegNo) (t : BitVec 17)  -- R120
  | btag (a : RegNo) (t : BitVec 17)  -- R120
  | bntag (a : RegNo) (t : BitVec 17)  -- R120
  | jmp (t : BitVec 54)  -- R121
  | call (d : RegNo) (t : BitVec 54)  -- R121
  | jr (a : RegNo)  -- R121
  | callr (d a : RegNo)  -- R121
  | cgetaddr (d a : RegNo)  -- R122
  | cgetbase (d a : RegNo)  -- R122
  | cgettop (d a : RegNo)  -- R122
  | cgetlen (d a : RegNo)  -- R122
  | cgetperm (d a : RegNo)  -- R122
  | cgettag (d a : RegNo)  -- R122
  | csetaddr (d a b : RegNo)  -- R122
  | cinc (d a b : RegNo)  -- R122
  | csetbnd (d a b : RegNo)  -- R123
  | csetbndx (d a b : RegNo)  -- R123
  | candperm (d a b : RegNo)  -- R122
  | cseal (d a : RegNo)  -- R124
  | cunseal (d a b : RegNo)  -- R124
  | cclrtag (d a : RegNo)  -- R122
  | cmove (d a : RegNo)  -- R122
  | ctestsub (d a b : RegNo)  -- R122
  | cinci (d a : RegNo) (imm : BitVec 17)  -- R122
  | csetbndi (d a : RegNo) (imm : BitVec 17)  -- R123
  | candpermi (d a : RegNo) (imm : BitVec 14)  -- R122
  | fadd (d : RegNo) (t : FFmt) (a b : RegNo)  -- R125
  | fsub (d : RegNo) (t : FFmt) (a b : RegNo)  -- R125
  | fmul (d : RegNo) (t : FFmt) (a b : RegNo)  -- R125
  | fdiv (d : RegNo) (t : FFmt) (a b : RegNo)  -- R125
  | fsqrt (d : RegNo) (t : FFmt) (a : RegNo)  -- R125
  | fmin (d : RegNo) (t : FFmt) (a b : RegNo)  -- R125
  | fmax (d : RegNo) (t : FFmt) (a b : RegNo)  -- R125
  | fsgnj (d : RegNo) (t : FFmt) (a b : RegNo)  -- R125
  | fsgnjn (d : RegNo) (t : FFmt) (a b : RegNo)  -- R125
  | fsgnjx (d : RegNo) (t : FFmt) (a b : RegNo)  -- R125
  | feq (d : RegNo) (t : FFmt) (a b : RegNo)  -- R125
  | flt (d : RegNo) (t : FFmt) (a b : RegNo)  -- R125
  | fle (d : RegNo) (t : FFmt) (a b : RegNo)  -- R125
  | fclass (d : RegNo) (t : FFmt) (a : RegNo)  -- R125
  | fma (d : RegNo) (t : FFmt) (a b c : RegNo)  -- R126
  | fms (d : RegNo) (t : FFmt) (a b c : RegNo)  -- R126
  | fnma (d : RegNo) (t : FFmt) (a b c : RegNo)  -- R126
  | fnms (d : RegNo) (t : FFmt) (a b c : RegNo)  -- R126
  | fcvt (d : RegNo) (toF fr : Fmt) (rnd : Rnd) (a : RegNo)  -- R127
  | spawn (a b c : RegNo) (x : Cx)  -- R155
  | tstop (a b c : RegNo) (x : Cx)  -- R150
  | tstopRetire (a b c : RegNo) (x : Cx)  -- R150
  | tstart (a b c : RegNo) (x : Cx)  -- R152
  | tread (a b c : RegNo) (x : Cx)  -- R153
  | twrite (a b c : RegNo) (x : Cx)  -- R157
  | tstat (a b c : RegNo) (x : Cx)  -- R154
  | tstatCluster (a b c : RegNo) (x : Cx)  -- R154
  | agrant (a b c : RegNo) (x : Cx)  -- R158
  | arevoke (a b c : RegNo) (x : Cx)  -- R159
  | sfreplay (a b c : RegNo) (x : Cx)  -- R164
  | qpub (a b c : RegNo) (x : Cx)  -- R171
  | ldB (d a : RegNo) (off : BitVec 17) (z : Bool) (acq : Option Scope) (h : Hint)  -- R192
  | ldH (d a : RegNo) (off : BitVec 17) (z : Bool) (acq : Option Scope) (h : Hint)  -- R192
  | ldW (d a : RegNo) (off : BitVec 17) (z : Bool) (acq : Option Scope) (h : Hint)  -- R192
  | ldD (d a : RegNo) (off : BitVec 17) (acq : Option Scope) (h : Hint)  -- R192
  | ldQ (d a : RegNo) (off : BitVec 17) (acq : Option Scope) (h : Hint)  -- R192
  | stB (d a : RegNo) (off : BitVec 17) (rel : Option Scope) (h : Hint)  -- R193
  | stH (d a : RegNo) (off : BitVec 17) (rel : Option Scope) (h : Hint)  -- R193
  | stW (d a : RegNo) (off : BitVec 17) (rel : Option Scope) (h : Hint)  -- R193
  | stD (d a : RegNo) (off : BitVec 17) (rel : Option Scope) (h : Hint)  -- R193
  | stQ (d a : RegNo) (off : BitVec 17) (rel : Option Scope) (h : Hint)  -- R193
  | amoAdd (w : AWidth) (d a b : RegNo) (o : Ord3)  -- R199
  | amoAnd (w : AWidth) (d a b : RegNo) (o : Ord3)  -- R199
  | amoOr (w : AWidth) (d a b : RegNo) (o : Ord3)  -- R199
  | amoXor (w : AWidth) (d a b : RegNo) (o : Ord3)  -- R199
  | amoSmin (w : AWidth) (d a b : RegNo) (o : Ord3)  -- R199
  | amoSmax (w : AWidth) (d a b : RegNo) (o : Ord3)  -- R199
  | amoUmin (w : AWidth) (d a b : RegNo) (o : Ord3)  -- R199
  | amoUmax (w : AWidth) (d a b : RegNo) (o : Ord3)  -- R199
  | amoSwap (w : AWidth) (d a b : RegNo) (o : Ord3)  -- R199
  | amoFadd (d a b : RegNo) (o : Ord3)  -- R199
  | cas (w : AWidth) (d a b : RegNo) (o : Ord3)  -- R200
  | lres (w : AWidth) (d a : RegNo) (sc : Scope) (acq : Bool)  -- R201
  | scond (w : AWidth) (d a b : RegNo) (sc : Scope) (rel : Bool)  -- R201
  | fence (kinds : BitVec 4) (sc : Scope)  -- R204
  | fenceRs  -- R205
  | drain  -- R198
  | warm (d a : RegNo) (i : BitVec 3)  -- R207
  | wdis (i : BitVec 3)  -- R209
  | sleep  -- R210
  | waitge (a b : RegNo) (sc : Scope)  -- R211
  | ccCln (a b c : RegNo) (x : Cx)  -- R248
  | ccFls (a b c : RegNo) (x : Cx)  -- R248
  | ccInv (a b c : RegNo) (x : Cx)  -- R248
  | ccPf (h : Hint) (a b c : RegNo) (x : Cx)  -- R248
  | ccRsd (h : Hint) (a b c : RegNo) (x : Cx)  -- R248
  | dxNext (a b c : RegNo) (x : Cx)  -- R240
  | dxInvInvalidate (a b c : RegNo) (x : Cx)  -- R241
  | dxInvWake (a b c : RegNo) (x : Cx)  -- R241
  | dxDone (a b c : RegNo) (x : Cx)  -- R242
  | xinv (a b c : RegNo) (x : Cx)  -- R280
  | xprobe (a b c : RegNo) (x : Cx)  -- R281
  | pgdisc (a b c : RegNo) (x : Cx)  -- R282
  | pgmig (a b c : RegNo) (x : Cx)  -- R283
  | cp1d (h : Hint) (d a b c : RegNo) (x : Cx)  -- R288
  | cp2d (h : Hint) (d a b c : RegNo) (x : Cx)  -- R288
  | cp3d (h : Hint) (d a b c : RegNo) (x : Cx)  -- R288
  | cpGat (h : Hint) (d a b c : RegNo) (x : Cx)  -- R288
  | cpFill (h : Hint) (d a b c : RegNo) (x : Cx)  -- R288
  | cpStat (a c : RegNo) (x : Cx)  -- R294
  | cpResume (b c : RegNo) (x : Cx)  -- R295
  | cpCancel (b c : RegNo) (x : Cx)  -- R296
  | snd (d a c : RegNo) (x : Cx)  -- R308
  | rcvBind (d a b c : RegNo) (x : Cx)  -- R302
  | rcvBindUnbind (d a b c : RegNo) (x : Cx)  -- R302
  | vAdd (f : Fmt) (d a b c : RegNo) (x : Cx)  -- R323
  | vSub (f : Fmt) (d a b c : RegNo) (x : Cx)  -- R323
  | vMul (f : Fmt) (d a b c : RegNo) (x : Cx)  -- R323
  | vDiv (f : Fmt) (d a b c : RegNo) (x : Cx)  -- R323
  | vMin (f : Fmt) (d a b c : RegNo) (x : Cx)  -- R323
  | vMax (f : Fmt) (d a b c : RegNo) (x : Cx)  -- R323
  | vFma (f : Fmt) (d a b c : RegNo) (x : Cx)  -- R323
  | vAbs (f : Fmt) (d a b : RegNo) (x : Cx)  -- R323
  | vNeg (f : Fmt) (d a b : RegNo) (x : Cx)  -- R323
  | vSqrt (f : Fmt) (d a b : RegNo) (x : Cx)  -- R323
  | vAnd (f : Fmt) (d a b c : RegNo) (x : Cx)  -- R323
  | vOr (f : Fmt) (d a b c : RegNo) (x : Cx)  -- R323
  | vXor (f : Fmt) (d a b c : RegNo) (x : Cx)  -- R323
  | vShl (f : Fmt) (d a b c : RegNo) (x : Cx)  -- R323
  | vShr (f : Fmt) (d a b c : RegNo) (x : Cx)  -- R323
  | vCeq (f : Fmt) (d a b c : RegNo) (x : Cx)  -- R324
  | vClt (f : Fmt) (d a b c : RegNo) (x : Cx)  -- R324
  | vCle (f : Fmt) (d a b c : RegNo) (x : Cx)  -- R324
  | vSel (f : Fmt) (d a b c : RegNo) (x : Cx)  -- R324
  | vCvt (toF fr : Fmt) (d a b : RegNo) (x : Cx)  -- R325
  | vRsum (f : Fmt) (d a b : RegNo) (x : Cx)  -- R326
  | vRmax (f : Fmt) (d a b : RegNo) (x : Cx)  -- R326
  | vRmin (f : Fmt) (d a b : RegNo) (x : Cx)  -- R326
  | vBcast (f : Fmt) (d a b : RegNo) (x : Cx)  -- R327
  | vGat (f : Fmt) (d a b c : RegNo) (x : Cx)  -- R327
  | vSct (f : Fmt) (d a b c : RegNo) (x : Cx)  -- R327
  | vSync (c : RegNo) (x : Cx)  -- R330
  | mmaBf16 (acc ta tb : Bool) (d a b : RegNo) (x : Cx)  -- R343
  | mmaF16 (acc ta tb : Bool) (d a b : RegNo) (x : Cx)  -- R343
  | mmaK8 (acc ta tb : Bool) (d a b : RegNo) (x : Cx)  -- R343
  | mmaI8 (acc ta tb : Bool) (d a b : RegNo) (x : Cx)  -- R343
  | mmaK8Bs (acc ta tb : Bool) (d a b c : RegNo) (x : Cx)  -- R343
  | mzero (acc : Bool) (c : RegNo) (x : Cx)  -- R346
  | mld (acc : Bool) (a c : RegNo) (x : Cx)  -- R346
  | mst (acc : Bool) (a c : RegNo) (x : Cx)  -- R346
  | mrd (acc : Bool) (d a : RegNo) (x : Cx)  -- R347
  | mdrain (f : Fmt) (acc : Bool) (d a b c : RegNo) (x : Cx)  -- R349
  | dtload (d a c : RegNo) (x : Cx)  -- R350
  | mgCfg (d a b c : RegNo) (x : Cx)  -- R374
  | mgTbl (d a c : RegNo) (x : Cx)  -- R375
  | mgInjU (d a c : RegNo) (x : Cx)  -- R376
  | mgInjL (d a c : RegNo) (x : Cx)  -- R376
  | mgGo (c : RegNo) (x : Cx)  -- R377
  | mgHalt (c : RegNo) (x : Cx)  -- R377
  | mgStat (a c : RegNo) (x : Cx)  -- R378
  | mgEj (d a c : RegNo) (x : Cx)  -- R379
  | hnew (a b c : RegNo) (x : Cx)  -- R396
  | henter (a : RegNo) (x : Cx)  -- R397
  | hleave (x : Cx)  -- R398
  | hconfirm (a c : RegNo) (x : Cx)  -- R414
  | hconfirmX (a c : RegNo) (x : Cx)  -- R399
  | hrefute (a c : RegNo) (x : Cx)  -- R412
  | hstat (a b c : RegNo) (x : Cx)  -- R401
  | barExp (d c : RegNo) (x : Cx)  -- R425
  | barExpFree (d c : RegNo) (x : Cx)  -- R425
  | barArr (d c : RegNo) (x : Cx)  -- R425
  | redCfg (d a b c : RegNo) (x : Cx)  -- R430
  | redCfgFree (d a b c : RegNo) (x : Cx)  -- R430
  | redSend (d a c : RegNo) (x : Cx)  -- R431
  | redStat (d a c : RegNo) (x : Cx)  -- R435
  | moduleReset  -- R114
  | moduleBoot (x : BootArgs)  -- R466
  | linkTraining (port : Option Nat) (up : BitVec 36) (peers : List (Nat × BitVec 36))  -- R456
  | loadReply (req : Nat) (ext : ExtReply)  -- R192
  | storeAck (req : Nat)  -- R20
  | storeFaultArrival (req : Nat) (ext : ExtReply)  -- R196
  | faultRecordWrite (tid : Nat)  -- R161
  | cellWriteFailure (i : Nat)  -- R38
  | contextDisplace (core : Nat) (pos : Nat)  -- R138
  | exitComplete (tid : Nat)  -- R130
  | drainComplete (tid : Nat)  -- R198
  | fenceRsComplete (tid : Nat)  -- R205
  | watchArmReply (tid : Nat) (ext : ExtReply)  -- R207
  | wdisReply (tid : Nat)  -- R209
  | watchFire (f : FireSrc)  -- R208
  | sleepWake (tid : Nat)  -- R210
  | waitgeRecheck (tid : Nat) (ext : ExtReply)  -- R211
  | lresHoldExpiry (tid : Nat)  -- R202
  | windowStoreApply (w : WinReq)  -- R312
  | windowLoadServe (w : WinReq)  -- R20
  | coreQuarantine (core : Nat)  -- R165
  | launchQueueWatch (q : Nat)  -- R169
  | deviceQueueMirrorRestore (q : Nat)  -- R170
  | packetAccept (q : Nat)  -- R174
  | basketWaitMet (q : Nat)  -- R175
  | admissionChoice (die : Nat)  -- R179
  | loadPreempt (load : Nat)  -- R183
  | basketComplete (basket : Nat)  -- R176
  | homeReadRequest (req : Nat)  -- R229
  | homeStoreRequest (req : Nat)  -- R229
  | homeAtomic (req : Nat)  -- R235
  | unitMerge (cluster : Nat) (part : Nat) (base : Nat)  -- R233
  | probeArrival (i : Nat)  -- R236
  | ticketRetire (cluster : Nat) (ticket : Nat)  -- R244
  | requestRetry (req : Nat)  -- R255
  | faultQueueRecord (part : Nat)  -- R275
  | pageResponseRead (part : Nat)  -- R276
  | pageRequestAnswer (part : Nat)  -- R277
  | pageRequestLimit (cluster : Nat) (id : Nat)  -- R274
  | migrationHoldExpiry (req : Nat)  -- R272
  | copyChunkDone (core slot chunk : Nat)  -- R290
  | copyTransferEnd (core slot : Nat)  -- R291
  | zeroingFill (z : ZeroTarget)  -- R299
  | messageDelivery (m : MsgSrc)  -- R308
  | messageRetry (core i : Nat)  -- R308
  | vectorOpStart (quad : Nat) (matrix : Bool)  -- R316
  | streamResume (core : Nat)  -- R328
  | vectorOpComplete (core i : Nat)  -- R322
  | mmaWaitCheck (core : Nat)  -- R337
  | matrixOpComplete (core i : Nat)  -- R339
  | halfStep (ring : Nat)  -- R358
  | heldEncounterFire (ring pos : Nat)  -- R366
  | encounterHoldExpiry (ring pos : Nat)  -- R366
  | anyHomeAdd (ring : Nat)  -- R365
  | sessionComplete (ring : Nat)  -- R370
  | versionLineGrant (cluster part : Nat)  -- R411
  | versionHoldExpiry (req : Nat)  -- R411
  | barrierPhaseComplete (cluster bar : Nat)  -- R426
  | roundEnd (cluster tree : Nat)  -- R433
  | roundTimeout (cluster tree : Nat)  -- R434
  | atsTranslationCompletion (part page : Nat) (res : AtsResult)  -- R440
  | atsCompletionTimeout (part page : Nat)  -- R440
  | priResponse (part page : Nat) (res : PriResult)  -- R441
  | priGroupTimeout (part page : Nat)  -- R441
  | atsInvalidateRequest (part page pages : Nat)  -- R442
  | pcieReadCompletion (req : Nat) (res : PcieResult)  -- R443
  | hostSnoop (hpa : Nat) (write : Option Nat)  -- R445
  | cxlMemHostAccess (part hpa : Nat) (n : Nat) (write : Option Nat)  -- R447
  | hostWarmRestart  -- R454
  | functionLevelReset (fn : Nat)  -- R453
  | linkCountChange (link : Nat) (up : Bool) (chip : Option Nat)  -- R459
  | linkReplyTimeout (req : Nat)  -- R464
  | peerAccess (p : PeerReq)  -- R463
  | peerUnreachable (chip : Nat)  -- R465
  | partitionSetup (m : Mail) (p : PartArgs)  -- R452
  | partitionTeardown (m : Mail) (part : Nat)  -- R453
  | registerHostQueue (m : Mail) (addr : Nat)  -- R168
  | latencyTolerance (m : Mail) (us : BitVec 32)  -- R471
  | attest (m : Mail) (nonce : BitVec 256) (addr : Nat)  -- R467
  | readJournal (m : Mail) (first : Nat)  -- R470
  | resetCore (m : Mail) (core : Nat) (pass : Bool)  -- R473
  | eventRing (m : Mail) (base : Nat) (lslots : Nat)  -- R474
  | loadImage (m : Mail) (img : Nat) (raise : Bool)  -- R466
  | parkSize (m : Mail) (first count size : Nat)  -- R475
  | softErrorReport (die : Nat) (count : Nat)  -- R474
  | powerStateEntry  -- R471
  | powerWake (src : WakeSrc)  -- R471
  | registerWrite (fn off : Nat) (v : Word)  -- R438
  | hostLinkUp  -- R454
  | msiXIntervalExpiry (part : Nat)  -- R275
  | linkLevelRetry (req : Nat) (recovered : Bool)  -- R456
  deriving DecidableEq, Repr

end Sys2Proof
end

