-- ==== Sys2Proof/WellFormed.lean ====
section
/-!
DEFINITION. Sys2Proof/WellFormed.lean: which instructions an encoding may hold (02 R50, R57, R60, R62; 12 R319;
13 R342, R345): the operand values that fault with 0x02 are left out here.
-/
namespace Sys2Proof

/-- The width in bits an integer modifier selects (02 R57). -/
def Width.bits : Width → Nat
  | .d => 64
  | .w => 32
  | .wz => 32

/-- The integer formats (02 R52). -/
def Fmt.isInt : Fmt → Bool
  | .i8 | .i32 | .i64 | .i8z | .i32z | .i64z => true
  | .f64 | .f32 | .bf16 | .f16 | .k8 => false

/-- The formats `fcvt` accepts: codes 0 to 3, 6, 7, 9 and 10 (02 R60). -/
def Fmt.scalar : Fmt → Bool
  | .f64 | .f32 | .bf16 | .f16 | .i32 | .i64 | .i32z | .i64z => true
  | .k8 | .i8 | .i8z => false

/-- Codes 1, 2 and 3 (12 R319). -/
def Fmt.vecFloat : Fmt → Bool
  | .f32 | .bf16 | .f16 => true
  | .f64 | .k8 | .i8 | .i32 | .i64 | .i8z | .i32z | .i64z => false

/-- Codes 1, 2, 3 and 5 to 10 (12 R319). -/
def Fmt.vecArith (f : Fmt) : Bool := f.vecFloat || f.isInt

/-- Codes 1, 2, 3, 5, 6 and 7 (12 R319). -/
def Fmt.vecSigned : Fmt → Bool
  | .f32 | .bf16 | .f16 | .i8 | .i32 | .i64 => true
  | .f64 | .k8 | .i8z | .i32z | .i64z => false

/-- The output formats of `mdrain`: codes 1 to 6 (13 R345). -/
def Fmt.drainOk : Fmt → Bool
  | .f32 | .bf16 | .f16 | .k8 | .i8 | .i32 => true
  | .f64 | .i64 | .i8z | .i32z | .i64z => false

/-- A shift or rotate immediate lies within 0 to width − 1 (02 R57). -/
def shiftOk (w : Width) (imm : BitVec 17) : Bool := decide (imm.toNat < w.bits)

/-- The instruction may stand in an encoding: no operand value that R50 turns away. Events have no encoding and
carry no such condition. -/
def Instr.wellFormed : Instr → Bool
  | .slli _ w _ imm => shiftOk w imm
  | .srli _ w _ imm => shiftOk w imm
  | .srai _ w _ imm => shiftOk w imm
  | .roli _ w _ imm => shiftOk w imm
  | .rori _ w _ imm => shiftOk w imm
  | .fcvt _ toF fr _ _ => toF.scalar && fr.scalar && toF != fr && !(toF.isInt && fr.isInt)
  | .amoAdd w _ _ _ _ => w != .q
  | .amoAnd w _ _ _ _ => w != .q
  | .amoOr w _ _ _ _ => w != .q
  | .amoXor w _ _ _ _ => w != .q
  | .amoSmin w _ _ _ _ => w != .q
  | .amoSmax w _ _ _ _ => w != .q
  | .amoUmin w _ _ _ _ => w != .q
  | .amoUmax w _ _ _ _ => w != .q
  | .fence kinds _ => kinds != 0
  | .vAdd f _ _ _ _ _ => f.vecArith
  | .vSub f _ _ _ _ _ => f.vecArith
  | .vMul f _ _ _ _ _ => f.vecArith
  | .vDiv f _ _ _ _ _ => f.vecFloat
  | .vMin f _ _ _ _ _ => f.vecArith
  | .vMax f _ _ _ _ _ => f.vecArith
  | .vFma f _ _ _ _ _ => f.vecFloat
  | .vAbs f _ _ _ _ => f.vecSigned
  | .vNeg f _ _ _ _ => f.vecSigned
  | .vSqrt f _ _ _ _ => f.vecFloat
  | .vAnd f _ _ _ _ _ => f.isInt
  | .vOr f _ _ _ _ _ => f.isInt
  | .vXor f _ _ _ _ _ => f.isInt
  | .vShl f _ _ _ _ _ => f.isInt
  | .vShr f _ _ _ _ _ => f.isInt
  | .vCeq f _ _ _ _ _ => f.vecArith
  | .vClt f _ _ _ _ _ => f.vecArith
  | .vCle f _ _ _ _ _ => f.vecArith
  | .vSel f _ _ _ _ _ => f != .f64
  | .vCvt toF fr _ _ _ _ => toF != .f64 && fr != .f64 && toF != fr
  | .vRsum f _ _ _ _ => f.vecArith
  | .vRmax f _ _ _ _ => f.vecArith
  | .vRmin f _ _ _ _ => f.vecArith
  | .vBcast f _ _ _ _ => f != .f64
  | .vGat f _ _ _ _ _ => f != .f64
  | .vSct f _ _ _ _ _ => f != .f64
  | .mmaK8Bs _ _ _ _ _ _ c _ => c != 0 && c != 31
  | .mdrain f _ d _ _ _ _ => f.drainOk && d != 0 && d != 31
  | .nop | .yield | .exit | .trap .. | .kget .. | .kputFpcsr ..
  | .kputFaultrec .. | .kputPrio .. | .kputWake .. | .kputCarve .. | .add .. | .sub ..
  | .and .. | .or .. | .xor .. | .sll .. | .srl .. | .sra ..
  | .slt .. | .sltu .. | .seq .. | .sne .. | .min .. | .max ..
  | .minu .. | .maxu .. | .mul .. | .mulh .. | .mulhu .. | .div ..
  | .divu .. | .rem .. | .remu .. | .andn .. | .orn .. | .rol ..
  | .ror .. | .clz .. | .ctz .. | .popc .. | .bswap .. | .pack ..
  | .hi .. | .sextb .. | .sexth .. | .addi .. | .andi .. | .ori ..
  | .xori .. | .slti .. | .sltui .. | .seqi .. | .snei .. | .mini ..
  | .maxi .. | .minui .. | .maxui .. | .muli .. | .li .. | .lih ..
  | .beq .. | .bne .. | .blt .. | .bge .. | .bltu .. | .bgeu ..
  | .btag .. | .bntag .. | .jmp .. | .call .. | .jr .. | .callr ..
  | .cgetaddr .. | .cgetbase .. | .cgettop .. | .cgetlen .. | .cgetperm .. | .cgettag ..
  | .csetaddr .. | .cinc .. | .csetbnd .. | .csetbndx .. | .candperm .. | .cseal ..
  | .cunseal .. | .cclrtag .. | .cmove .. | .ctestsub .. | .cinci .. | .csetbndi ..
  | .candpermi .. | .fadd .. | .fsub .. | .fmul .. | .fdiv .. | .fsqrt ..
  | .fmin .. | .fmax .. | .fsgnj .. | .fsgnjn .. | .fsgnjx .. | .feq ..
  | .flt .. | .fle .. | .fclass .. | .fma .. | .fms .. | .fnma ..
  | .fnms .. | .spawn .. | .tstop .. | .tstopRetire .. | .tstart .. | .tread ..
  | .twrite .. | .tstat .. | .tstatCluster .. | .agrant .. | .arevoke .. | .sfreplay ..
  | .qpub .. | .ldB .. | .ldH .. | .ldW .. | .ldD .. | .ldQ ..
  | .stB .. | .stH .. | .stW .. | .stD .. | .stQ .. | .amoSwap ..
  | .amoFadd .. | .cas .. | .lres .. | .scond .. | .fenceRs | .drain
  | .warm .. | .wdis .. | .sleep | .waitge .. | .ccCln .. | .ccFls ..
  | .ccInv .. | .ccPf .. | .ccRsd .. | .dxNext .. | .dxInvInvalidate .. | .dxInvWake ..
  | .dxDone .. | .xinv .. | .xprobe .. | .pgdisc .. | .pgmig .. | .cp1d ..
  | .cp2d .. | .cp3d .. | .cpGat .. | .cpFill .. | .cpStat .. | .cpResume ..
  | .cpCancel .. | .snd .. | .rcvBind .. | .rcvBindUnbind .. | .vSync .. | .mmaBf16 ..
  | .mmaF16 .. | .mmaK8 .. | .mmaI8 .. | .mzero .. | .mld .. | .mst ..
  | .mrd .. | .dtload .. | .mgCfg .. | .mgTbl .. | .mgInjU .. | .mgInjL ..
  | .mgGo .. | .mgHalt .. | .mgStat .. | .mgEj .. | .hnew .. | .henter ..
  | .hleave .. | .hconfirm .. | .hconfirmX .. | .hrefute .. | .hstat .. | .barExp ..
  | .barExpFree .. | .barArr .. | .redCfg .. | .redCfgFree .. | .redSend .. | .redStat ..
  | .moduleReset | .moduleBoot .. | .linkTraining .. | .loadReply .. | .storeAck .. | .storeFaultArrival ..
  | .faultRecordWrite .. | .cellWriteFailure .. | .contextDisplace .. | .exitComplete .. | .drainComplete .. | .fenceRsComplete ..
  | .watchArmReply .. | .wdisReply .. | .watchFire .. | .sleepWake .. | .waitgeRecheck .. | .lresHoldExpiry ..
  | .windowStoreApply .. | .windowLoadServe .. | .coreQuarantine .. | .launchQueueWatch .. | .deviceQueueMirrorRestore .. | .packetAccept ..
  | .basketWaitMet .. | .admissionChoice .. | .loadPreempt .. | .basketComplete .. | .homeReadRequest .. | .homeStoreRequest ..
  | .homeAtomic .. | .unitMerge .. | .probeArrival .. | .ticketRetire .. | .requestRetry .. | .faultQueueRecord ..
  | .pageResponseRead .. | .pageRequestAnswer .. | .pageRequestLimit .. | .migrationHoldExpiry .. | .copyChunkDone .. | .copyTransferEnd ..
  | .zeroingFill .. | .messageDelivery .. | .messageRetry .. | .vectorOpStart .. | .streamResume .. | .vectorOpComplete ..
  | .mmaWaitCheck .. | .matrixOpComplete .. | .halfStep .. | .heldEncounterFire .. | .encounterHoldExpiry .. | .anyHomeAdd ..
  | .sessionComplete .. | .versionLineGrant .. | .versionHoldExpiry .. | .barrierPhaseComplete .. | .roundEnd .. | .roundTimeout ..
  | .atsTranslationCompletion .. | .atsCompletionTimeout .. | .priResponse .. | .priGroupTimeout .. | .atsInvalidateRequest .. | .pcieReadCompletion ..
  | .hostSnoop .. | .cxlMemHostAccess .. | .hostWarmRestart | .functionLevelReset .. | .linkCountChange .. | .linkReplyTimeout ..
  | .peerAccess .. | .peerUnreachable .. | .partitionSetup .. | .partitionTeardown .. | .registerHostQueue .. | .latencyTolerance ..
  | .attest .. | .readJournal .. | .resetCore .. | .eventRing .. | .loadImage .. | .parkSize ..
  | .softErrorReport .. | .powerStateEntry | .powerWake .. | .registerWrite .. | .hostLinkUp | .msiXIntervalExpiry ..
  | .linkLevelRetry .. => true

end Sys2Proof
end

