-- ==== Sys2Proof/Decode.lean ====
section
/-!
DEFINITION. Sys2Proof/Decode.lean: the instruction line (02 R44 to R50), the fields of heads and tails (R45, R46),
the decoder of every major (R56 to R62) and the encoder written from the same tables.
-/
namespace Sys2Proof

/-- Why an encoding is turned away: a reserved major, selector or field (0x02), or a wrong tail size (0x03). -/
inductive DecodeError where | reserved | tailSize
  deriving DecidableEq, Repr

/-- The fault cause of a decode error (02 R50). -/
def DecodeError.cause : DecodeError → Byte
  | .reserved => 0x02
  | .tailSize => 0x03

/-- A tail in one of the three layouts of 02 R46, or none. -/
inductive Tail where
  | none
  | two (a b : RegNo) (f : BitVec 6)
  | four (a b c : RegNo) (imm : BitVec 17)
  | eight (a b : RegNo) (imm : BitVec 54)
  deriving DecidableEq, Repr

/-- The fields of one instruction: those of its head (02 R45) but for tz, and its tail. -/
structure Fields where
  op : BitVec 7
  d : RegNo
  m : BitVec 2
  tail : Tail
  deriving DecidableEq, Repr

/-- The tail size code tz of a layout (02 R45). -/
def Tail.tz : Tail → BitVec 2
  | .none => 0
  | .two .. => 1
  | .four .. => 2
  | .eight .. => 3

/-- The bytes a size code stands for (02 R45). -/
def tailBytes (tz : BitVec 2) : Nat :=
  match tz.toNat with
  | 0 => 0
  | 1 => 2
  | 2 => 4
  | _ => 8

/-- The head half-word of 02 R45. -/
def Fields.head (x : Fields) : BitVec 16 := x.tail.tz ++ x.op ++ x.d ++ x.m

/-- The tail's bits, least significant first, zero above its size (02 R46). -/
def Tail.bits : Tail → BitVec 64
  | .none => 0
  | .two a b f => (a ++ b ++ f).setWidth 64
  | .four a b c imm => (a ++ b ++ c ++ imm).setWidth 64
  | .eight a b imm => a ++ b ++ imm

/-- The tail of size code `tz` in the bits `t` (02 R46). -/
def tailOf (tz : BitVec 2) (t : BitVec 64) : Tail :=
  match tz.toNat with
  | 0 => .none
  | 1 => .two (t.extractLsb' 11 5) (t.extractLsb' 6 5) (t.extractLsb' 0 6)
  | 2 => .four (t.extractLsb' 27 5) (t.extractLsb' 22 5) (t.extractLsb' 17 5) (t.extractLsb' 0 17)
  | _ => .eight (t.extractLsb' 59 5) (t.extractLsb' 54 5) (t.extractLsb' 0 54)

/-- The tail size each major requires; none where the major is reserved (02 R56). -/
def tzOf (op : BitVec 7) : Option (BitVec 2) :=
  match op.toNat with
  | 0x00 | 0x01 => some 0
  | 0x02 | 0x04 | 0x08 | 0x13 | 0x18 | 0x20 | 0x44 | 0x48 | 0x49 => some 1
  | 0x09 | 0x10 | 0x11 | 0x19 | 0x21 | 0x22 | 0x28 | 0x30 | 0x31 | 0x32 => some 2
  | 0x33 | 0x34 | 0x38 | 0x39 | 0x3a | 0x3b | 0x3c | 0x40 | 0x41 | 0x42 => some 2
  | 0x43 | 0x50 | 0x54 | 0x55 | 0x58 | 0x60 | 0x64 | 0x68 | 0x69 | 0x6a => some 2
  | 0x6b | 0x6c | 0x70 | 0x71 | 0x72 | 0x73 | 0x74 | 0x78 | 0x7a | 0x7c => some 2
  | 0x7e => some 2
  | 0x0a | 0x12 => some 3
  | _ => none

/-- The code of a `Width` value. -/
def Width.code : Width → BitVec 2
  | .d => 0
  | .w => 1
  | .wz => 2

/-- The `Width` value a code names; none where the code is reserved. -/
def Width.ofCode (c : BitVec 2) : Option Width :=
  match c.toNat with
  | 0 => some .d
  | 1 => some .w
  | 2 => some .wz
  | _ => none

/-- The code of a `FFmt` value. -/
def FFmt.code : FFmt → BitVec 2
  | .f64 => 0
  | .f32 => 1
  | .bf16 => 2
  | .f16 => 3

/-- The `FFmt` value a code names; none where the code is reserved. -/
def FFmt.ofCode (c : BitVec 2) : Option FFmt :=
  match c.toNat with
  | 0 => some .f64
  | 1 => some .f32
  | 2 => some .bf16
  | _ => some .f16

/-- The code of a `Fmt` value. -/
def Fmt.code : Fmt → BitVec 4
  | .f64 => 0
  | .f32 => 1
  | .bf16 => 2
  | .f16 => 3
  | .k8 => 4
  | .i8 => 5
  | .i32 => 6
  | .i64 => 7
  | .i8z => 8
  | .i32z => 9
  | .i64z => 10

/-- The `Fmt` value a code names; none where the code is reserved. -/
def Fmt.ofCode (c : BitVec 4) : Option Fmt :=
  match c.toNat with
  | 0 => some .f64
  | 1 => some .f32
  | 2 => some .bf16
  | 3 => some .f16
  | 4 => some .k8
  | 5 => some .i8
  | 6 => some .i32
  | 7 => some .i64
  | 8 => some .i8z
  | 9 => some .i32z
  | 10 => some .i64z
  | _ => none

/-- The code of a `Scope` value. -/
def Scope.code : Scope → BitVec 3
  | .core => 0
  | .clu => 1
  | .die => 2
  | .mod => 3
  | .dom => 4
  | .sys => 5

/-- The `Scope` value a code names; none where the code is reserved. -/
def Scope.ofCode (c : BitVec 3) : Option Scope :=
  match c.toNat with
  | 0 => some .core
  | 1 => some .clu
  | 2 => some .die
  | 3 => some .mod
  | 4 => some .dom
  | 5 => some .sys
  | _ => none

/-- The code of a `Hint` value. -/
def Hint.code : Hint → BitVec 2
  | .none => 0
  | .s => 1
  | .k => 2
  | .b => 3

/-- The `Hint` value a code names; none where the code is reserved. -/
def Hint.ofCode (c : BitVec 2) : Option Hint :=
  match c.toNat with
  | 0 => some .none
  | 1 => some .s
  | 2 => some .k
  | _ => some .b

/-- The code of a `Rnd` value. -/
def Rnd.code : Rnd → BitVec 3
  | .thread => 0
  | .rne => 1
  | .rna => 2
  | .rtz => 3
  | .rup => 4
  | .rdn => 5
  | .sr => 6

/-- The `Rnd` value a code names; none where the code is reserved. -/
def Rnd.ofCode (c : BitVec 3) : Option Rnd :=
  match c.toNat with
  | 0 => some .thread
  | 1 => some .rne
  | 2 => some .rna
  | 3 => some .rtz
  | 4 => some .rup
  | 5 => some .rdn
  | 6 => some .sr
  | _ => none

/-- The code of a `KReg` value. -/
def KReg.code : KReg → BitVec 6
  | .tid => 0
  | .lcore => 1
  | .seed => 2
  | .hyp => 3
  | .fpcsr => 4
  | .faultrec => 5
  | .ctx => 6
  | .auth => 7
  | .prio => 8
  | .wake => 9
  | .carve => 10
  | .cycle => 11

/-- The `KReg` value a code names; none where the code is reserved. -/
def KReg.ofCode (c : BitVec 6) : Option KReg :=
  match c.toNat with
  | 0 => some .tid
  | 1 => some .lcore
  | 2 => some .seed
  | 3 => some .hyp
  | 4 => some .fpcsr
  | 5 => some .faultrec
  | 6 => some .ctx
  | 7 => some .auth
  | 8 => some .prio
  | 9 => some .wake
  | 10 => some .carve
  | 11 => some .cycle
  | _ => none

/-- The code of a `AWidth` value. -/
def AWidth.code : AWidth → BitVec 3
  | .w => 2
  | .d => 3
  | .q => 4

/-- The `AWidth` value a code names; none where the code is reserved. -/
def AWidth.ofCode (c : BitVec 3) : Option AWidth :=
  match c.toNat with
  | 2 => some .w
  | 3 => some .d
  | 4 => some .q
  | _ => none

/-- The scope of an ordering suffix: with the ordering bit clear the scope field must be 0 (02 R62). -/
def orderedScope (ordered : Bool) (code : BitVec 3) : Option (Option Scope) :=
  if ordered then (Scope.ofCode code).map some else if code = 0 then some none else none

/-- The five bits `flag, ordering bit, scope` of a load's or store's b field (02 R62). -/
def accessB (z : Bool) (o : Option Scope) : RegNo :=
  BitVec.ofBool z ++ BitVec.ofBool o.isSome ++ (match o with | none => 0#3 | some s => s.code)

/-- Reads a load's or store's b field (02 R62). -/
def accessOf (b : RegNo) : Option (Bool × Option Scope) := do
  let o ← orderedScope (b.getLsbD 3) (b.extractLsb' 0 3)
  some (b.getLsbD 4, o)

/-- The imm17 field of the C-form: scope, rel, member, opx (02 R54). -/
def cImm (x : Cx) (member : BitVec 5) (opx : BitVec 8) : BitVec 17 :=
  x.scope.code ++ BitVec.ofBool x.rel ++ member ++ opx

/-- Reads the imm17 field of the C-form (02 R54). -/
def cOf (imm : BitVec 17) : Option (Cx × BitVec 5 × BitVec 8) := do
  let sc ← Scope.ofCode (imm.extractLsb' 14 3)
  some (⟨sc, imm.getLsbD 13⟩, imm.extractLsb' 8 5, imm.extractLsb' 0 8)

/-- The func field of `amo`, `cas`, `lres` and `scond` (02 R62). -/
def amoImm (o : Ord3) (w : AWidth) (kind : BitVec 4) : BitVec 17 :=
  o.scope.code ++ BitVec.ofBool o.acq ++ BitVec.ofBool o.rel ++ w.code ++ kind ++ 0#5

/-- Reads the func field of `amo`, `cas`, `lres` and `scond` (02 R62). -/
def amoOf (imm : BitVec 17) : Option (Ord3 × AWidth × BitVec 4) := do
  let sc ← Scope.ofCode (imm.extractLsb' 14 3)
  let w ← AWidth.ofCode (imm.extractLsb' 9 3)
  if imm.extractLsb' 0 5 = 0 then
    some (⟨sc, imm.getLsbD 13, imm.getLsbD 12⟩, w, imm.extractLsb' 5 4)
  else none

/-- The result when a condition on unused fields holds, else none (02 R55). -/
def guarded (c : Bool) (i : Instr) : Option Instr := if c then some i else none

/-- Major 0x08: integer ALU, register form (02 R57). -/
def aluReg (d : RegNo) (w : Width) (a b : RegNo) (f : BitVec 6) : Option Instr :=
  match f.toNat with
  | 0 => some (.add d w a b)
  | 1 => some (.sub d w a b)
  | 2 => some (.and d w a b)
  | 3 => some (.or d w a b)
  | 4 => some (.xor d w a b)
  | 5 => some (.sll d w a b)
  | 6 => some (.srl d w a b)
  | 7 => some (.sra d w a b)
  | 8 => some (.slt d w a b)
  | 9 => some (.sltu d w a b)
  | 10 => some (.seq d w a b)
  | 11 => some (.sne d w a b)
  | 12 => some (.min d w a b)
  | 13 => some (.max d w a b)
  | 14 => some (.minu d w a b)
  | 15 => some (.maxu d w a b)
  | 16 => some (.mul d w a b)
  | 17 => some (.mulh d w a b)
  | 18 => some (.mulhu d w a b)
  | 19 => some (.div d w a b)
  | 20 => some (.divu d w a b)
  | 21 => some (.rem d w a b)
  | 22 => some (.remu d w a b)
  | 23 => some (.andn d w a b)
  | 24 => some (.orn d w a b)
  | 25 => some (.rol d w a b)
  | 26 => some (.ror d w a b)
  | 27 => guarded (b == 0) (.clz d w a)
  | 28 => guarded (b == 0) (.ctz d w a)
  | 29 => guarded (b == 0) (.popc d w a)
  | 30 => guarded (b == 0) (.bswap d w a)
  | 34 => guarded (b == 0) (.sextb d w a)
  | 35 => guarded (b == 0) (.sexth d w a)
  | 32 => guarded (w == .d) (.pack d a b)
  | 33 => guarded (w == .d && b == 0) (.hi d a)
  | _ => none

/-- Major 0x09: integer ALU, immediate form; b holds the function (02 R57). -/
def aluImm (d : RegNo) (w : Width) (a b : RegNo) (imm : BitVec 17) : Option Instr :=
  match b.toNat with
  | 0 => some (.addi d w a imm)
  | 2 => some (.andi d w a imm)
  | 3 => some (.ori d w a imm)
  | 4 => some (.xori d w a imm)
  | 5 => some (.slli d w a imm)
  | 6 => some (.srli d w a imm)
  | 7 => some (.srai d w a imm)
  | 8 => some (.slti d w a imm)
  | 9 => some (.sltui d w a imm)
  | 10 => some (.seqi d w a imm)
  | 11 => some (.snei d w a imm)
  | 12 => some (.mini d w a imm)
  | 13 => some (.maxi d w a imm)
  | 14 => some (.minui d w a imm)
  | 15 => some (.maxui d w a imm)
  | 16 => some (.muli d w a imm)
  | 25 => some (.roli d w a imm)
  | 26 => some (.rori d w a imm)
  | _ => none

/-- Majors 0x10 and 0x11: conditional branches (02 R56, R58). -/
def branchOf (op : BitVec 7) (m : BitVec 2) (a b : RegNo) (t : BitVec 17) : Option Instr :=
  match op.toNat, m.toNat with
  | 0x10, 0 => some (.beq a b t)
  | 0x10, 1 => some (.bne a b t)
  | 0x10, 2 => some (.blt a b t)
  | 0x10, 3 => some (.bge a b t)
  | 0x11, 0 => some (.bltu a b t)
  | 0x11, 1 => some (.bgeu a b t)
  | 0x11, 2 => guarded (b == 0) (.btag a t)
  | 0x11, 3 => guarded (b == 0) (.bntag a t)
  | _, _ => none

/-- Major 0x18: capability members, register form (02 R59). -/
def capReg (d a b : RegNo) (f : BitVec 6) : Option Instr :=
  match f.toNat with
  | 0 => guarded (b == 0) (.cgetaddr d a)
  | 1 => guarded (b == 0) (.cgetbase d a)
  | 2 => guarded (b == 0) (.cgettop d a)
  | 3 => guarded (b == 0) (.cgetlen d a)
  | 4 => guarded (b == 0) (.cgetperm d a)
  | 5 => guarded (b == 0) (.cgettag d a)
  | 6 => some (.csetaddr d a b)
  | 7 => some (.cinc d a b)
  | 8 => some (.csetbnd d a b)
  | 9 => some (.csetbndx d a b)
  | 10 => some (.candperm d a b)
  | 11 => guarded (b == 0) (.cseal d a)
  | 12 => some (.cunseal d a b)
  | 13 => guarded (b == 0) (.cclrtag d a)
  | 14 => guarded (b == 0) (.cmove d a)
  | 15 => some (.ctestsub d a b)
  | _ => none

/-- Major 0x19: capability members, immediate form (02 R59). -/
def capImm (d a b : RegNo) (imm : BitVec 17) : Option Instr :=
  match b.toNat with
  | 0 => some (.cinci d a imm)
  | 1 => some (.csetbndi d a imm)
  | 2 => guarded (imm.extractLsb' 14 3 == 0) (.candpermi d a (imm.extractLsb' 0 14))
  | _ => none

/-- Major 0x20: scalar floating point (02 R60). -/
def fpReg (d : RegNo) (t : FFmt) (a b : RegNo) (f : BitVec 6) : Option Instr :=
  match f.toNat with
  | 0 => some (.fadd d t a b)
  | 1 => some (.fsub d t a b)
  | 2 => some (.fmul d t a b)
  | 3 => some (.fdiv d t a b)
  | 4 => guarded (b == 0) (.fsqrt d t a)
  | 5 => some (.fmin d t a b)
  | 6 => some (.fmax d t a b)
  | 7 => some (.fsgnj d t a b)
  | 8 => some (.fsgnjn d t a b)
  | 9 => some (.fsgnjx d t a b)
  | 10 => some (.feq d t a b)
  | 11 => some (.flt d t a b)
  | 12 => some (.fle d t a b)
  | 13 => guarded (b == 0) (.fclass d t a)
  | _ => none

/-- Major 0x21: fused multiply-add; func[1:0] is the member and func[16:2] zero (02 R60). -/
def fpFused (d : RegNo) (t : FFmt) (a b c : RegNo) (imm : BitVec 17) : Option Instr :=
  match imm.toNat with
  | 0 => some (.fma d t a b c)
  | 1 => some (.fms d t a b c)
  | 2 => some (.fnma d t a b c)
  | 3 => some (.fnms d t a b c)
  | _ => none

/-- Major 0x22: `fcvt` (02 R60). -/
def fcvtOf (d a : RegNo) (imm : BitVec 17) : Option Instr := do
  let toF ← Fmt.ofCode (imm.extractLsb' 13 4)
  let fr ← Fmt.ofCode (imm.extractLsb' 9 4)
  let rnd ← Rnd.ofCode (imm.extractLsb' 6 3)
  guarded (imm.extractLsb' 0 6 == 0) (.fcvt d toF fr rnd a)

/-- Major 0x04: `kget` and `kput`; a `kput` of a read-only or reserved register faults with 0x02 (02 R60, 04 R113). -/
def controlOf (d : RegNo) (m : BitVec 2) (a b : RegNo) (f : BitVec 6) : Option Instr :=
  match m.toNat with
  | 0 => do
    let k ← KReg.ofCode f
    guarded (a == 0 && b == 0) (.kget d k)
  | 1 =>
    if d == 0 && b == 0 then
      match f.toNat with
      | 4 => some (.kputFpcsr a)
      | 5 => some (.kputFaultrec a)
      | 8 => some (.kputPrio a)
      | 9 => some (.kputWake a)
      | 10 => some (.kputCarve a)
      | _ => none
    else none
  | _ => none

/-- Majors 0x30 to 0x3C: loads and stores; `.z` only on `ld.b`, `ld.h` and `ld.w` (02 R62). -/
def accessInstr (op : BitVec 7) (d a : RegNo) (off : BitVec 17) (z : Bool) (o : Option Scope) (h : Hint) : Option Instr :=
  match op.toNat with
  | 0x30 => some (.ldB d a off z o h)
  | 0x31 => some (.ldH d a off z o h)
  | 0x32 => some (.ldW d a off z o h)
  | 0x33 => guarded (!z) (.ldD d a off o h)
  | 0x34 => guarded (!z) (.ldQ d a off o h)
  | 0x38 => guarded (!z) (.stB d a off o h)
  | 0x39 => guarded (!z) (.stH d a off o h)
  | 0x3a => guarded (!z) (.stW d a off o h)
  | 0x3b => guarded (!z) (.stD d a off o h)
  | 0x3c => guarded (!z) (.stQ d a off o h)
  | _ => none

/-- Major 0x40: the atomic kinds; fadd only at `.w` (02 R62). -/
def amoInstr (w : AWidth) (kind : BitVec 4) (d a b : RegNo) (o : Ord3) : Option Instr :=
  match kind.toNat with
  | 0 => some (.amoAdd w d a b o)
  | 1 => some (.amoAnd w d a b o)
  | 2 => some (.amoOr w d a b o)
  | 3 => some (.amoXor w d a b o)
  | 4 => some (.amoSmin w d a b o)
  | 5 => some (.amoSmax w d a b o)
  | 6 => some (.amoUmin w d a b o)
  | 7 => some (.amoUmax w d a b o)
  | 8 => some (.amoSwap w d a b o)
  | 9 => guarded (w == .w) (.amoFadd d a b o)
  | _ => none

/-- Majors 0x40 to 0x43: `amo`, `cas`, `lres` and `scond` (02 R62). -/
def atomicOf (op : BitVec 7) (d a b : RegNo) (imm : BitVec 17) : Option Instr := do
  let (o, w, kind) ← amoOf imm
  match op.toNat with
  | 0x40 => amoInstr w kind d a b o
  | 0x41 => guarded (kind == 0) (.cas w d a b o)
  | 0x42 => guarded (kind == 0 && b == 0 && !o.rel) (.lres w d a o.scope o.acq)
  | 0x43 => guarded (kind == 0 && !o.acq) (.scond w d a b o.scope o.rel)
  | _ => none

/-- Major 0x44: `fence`, `fence.rs` and `drain` (02 R62). -/
def fenceOf (d : RegNo) (m : BitVec 2) (a b : RegNo) (f : BitVec 6) : Option Instr :=
  if d == 0 && f == 0 then
    match m.toNat with
    | 0 => do
      let sc ← Scope.ofCode (b.extractLsb' 0 3)
      guarded (!a.getLsbD 4 && b.extractLsb' 3 2 == 0) (.fence (a.extractLsb' 0 4) sc)
    | 1 => guarded (a == 0 && b == 0) .fenceRs
    | 2 => guarded (a == 0 && b == 0) .drain
    | _ => none
  else none

/-- Major 0x48: `warm`, `wdis` and `sleep` (02 R62). -/
def watchOf (d : RegNo) (m : BitVec 2) (a b : RegNo) (f : BitVec 6) : Option Instr :=
  match m.toNat with
  | 0 => guarded (b == 0 && f.extractLsb' 3 3 == 0) (.warm d a (f.extractLsb' 0 3))
  | 1 => guarded (d == 0 && a == 0 && b == 0 && f.extractLsb' 3 3 == 0) (.wdis (f.extractLsb' 0 3))
  | 2 => guarded (d == 0 && a == 0 && b == 0 && f == 0) .sleep
  | _ => none

/-- Major 0x49: `waitge` (02 R62). -/
def waitgeOf (d : RegNo) (m : BitVec 2) (a b : RegNo) (f : BitVec 6) : Option Instr := do
  let sc ← Scope.ofCode (f.extractLsb' 0 3)
  guarded (d == 0 && m == 0 && f.extractLsb' 3 3 == 0) (.waitge a b sc)

/-- Major 0x28 of the C-form, by member (02 R61). -/
def agentCmd (d : RegNo) (m : BitVec 2) (a b c : RegNo) (x : Cx) (opx : BitVec 8) (member : BitVec 5) : Option Instr :=
  match member.toNat with
  | 0 => guarded (d == 0 && m == 0 && opx == 0) (.spawn a b c x)
  | 1 => guarded (d == 0 && m == 0 && opx == 0) (.tstop a b c x)
  | 2 => guarded (d == 0 && m == 0 && opx == 0) (.tstart a b c x)
  | 3 => guarded (d == 0 && m == 0 && opx == 0) (.tread a b c x)
  | 4 => guarded (d == 0 && m == 0 && opx == 0) (.twrite a b c x)
  | 5 => guarded (d == 0 && m == 0 && opx == 0) (.tstat a b c x)
  | 6 => guarded (d == 0 && m == 0 && opx == 0) (.agrant a b c x)
  | 7 => guarded (d == 0 && m == 0 && opx == 0) (.arevoke a b c x)
  | 8 => guarded (d == 0 && m == 0 && opx == 0) (.sfreplay a b c x)
  | _ => none

/-- Major 0x50 of the C-form, by member (02 R61). -/
def dispatchCmd (d : RegNo) (m : BitVec 2) (a b c : RegNo) (x : Cx) (opx : BitVec 8) (member : BitVec 5) : Option Instr :=
  match member.toNat with
  | 0 => guarded (d == 0 && m == 0 && opx == 0) (.qpub a b c x)
  | _ => none

/-- Major 0x54 of the C-form, by member (02 R61). -/
def cacheCmd (d : RegNo) (m : BitVec 2) (a b c : RegNo) (x : Cx) (opx : BitVec 8) (member : BitVec 5) : Option Instr :=
  match member.toNat with
  | 0 => guarded (d == 0 && m == 0 && opx == 0) (.ccCln a b c x)
  | 1 => guarded (d == 0 && m == 0 && opx == 0) (.ccFls a b c x)
  | 2 => guarded (d == 0 && m == 0 && opx == 0) (.ccInv a b c x)
  | 3 => do
    let h ← Hint.ofCode m
    guarded (d == 0 && opx == 0) (.ccPf h a b c x)
  | 4 => do
    let h ← Hint.ofCode m
    guarded (d == 0 && opx == 0) (.ccRsd h a b c x)
  | _ => none

/-- Major 0x55 of the C-form, by member (02 R61). -/
def overflowCmd (d : RegNo) (m : BitVec 2) (a b c : RegNo) (x : Cx) (opx : BitVec 8) (member : BitVec 5) : Option Instr :=
  match member.toNat with
  | 0 => guarded (d == 0 && m == 0 && opx == 0) (.dxNext a b c x)
  | 1 => guarded (d == 0 && m == 0 && opx == 0) (.dxInvInvalidate a b c x)
  | 2 => guarded (d == 0 && m == 0 && opx == 0) (.dxDone a b c x)
  | _ => none

/-- Major 0x58 of the C-form, by member (02 R61). -/
def translationCmd (d : RegNo) (m : BitVec 2) (a b c : RegNo) (x : Cx) (opx : BitVec 8) (member : BitVec 5) : Option Instr :=
  match member.toNat with
  | 0 => guarded (d == 0 && m == 0 && opx == 0) (.xinv a b c x)
  | 1 => guarded (d == 0 && m == 0 && opx == 0) (.xprobe a b c x)
  | 2 => guarded (d == 0 && m == 0 && opx == 0) (.pgdisc a b c x)
  | 3 => guarded (d == 0 && m == 0 && opx == 0) (.pgmig a b c x)
  | _ => none

/-- Major 0x60 of the C-form, by member (02 R61). -/
def copyCmd (d : RegNo) (m : BitVec 2) (a b c : RegNo) (x : Cx) (opx : BitVec 8) (member : BitVec 5) : Option Instr :=
  match member.toNat with
  | 0 => do
    let h ← Hint.ofCode m
    guarded (opx == 0) (.cp1d h d a b c x)
  | 1 => do
    let h ← Hint.ofCode m
    guarded (opx == 0) (.cp2d h d a b c x)
  | 2 => do
    let h ← Hint.ofCode m
    guarded (opx == 0) (.cp3d h d a b c x)
  | 3 => do
    let h ← Hint.ofCode m
    guarded (opx == 0) (.cpGat h d a b c x)
  | 4 => do
    let h ← Hint.ofCode m
    guarded (opx == 0) (.cpFill h d a b c x)
  | 8 => guarded (d == 0 && b == 0 && m == 0 && opx == 0) (.cpStat a c x)
  | 9 => guarded (d == 0 && a == 0 && m == 0 && opx == 0) (.cpResume b c x)
  | 10 => guarded (d == 0 && a == 0 && m == 0 && opx == 0) (.cpCancel b c x)
  | _ => none

/-- Major 0x64 of the C-form, by member (02 R61). -/
def messageCmd (d : RegNo) (m : BitVec 2) (a b c : RegNo) (x : Cx) (opx : BitVec 8) (member : BitVec 5) : Option Instr :=
  match member.toNat with
  | 0 => guarded (b == 0 && m == 0 && opx == 0) (.snd d a c x)
  | 1 => guarded (m == 0 && opx == 0) (.rcvBind d a b c x)
  | _ => none

/-- Major 0x68 of the C-form, by member (02 R61). -/
def vecArith (d : RegNo) (m : BitVec 2) (a b c : RegNo) (x : Cx) (opx : BitVec 8) (member : BitVec 5) : Option Instr :=
  match member.toNat with
  | 0 => do
    let f ← Fmt.ofCode (opx.extractLsb' 4 4)
    guarded (m == 0 && opx.extractLsb' 0 4 == 0) (.vAdd f d a b c x)
  | 1 => do
    let f ← Fmt.ofCode (opx.extractLsb' 4 4)
    guarded (m == 0 && opx.extractLsb' 0 4 == 0) (.vSub f d a b c x)
  | 2 => do
    let f ← Fmt.ofCode (opx.extractLsb' 4 4)
    guarded (m == 0 && opx.extractLsb' 0 4 == 0) (.vMul f d a b c x)
  | 3 => do
    let f ← Fmt.ofCode (opx.extractLsb' 4 4)
    guarded (m == 0 && opx.extractLsb' 0 4 == 0) (.vDiv f d a b c x)
  | 4 => do
    let f ← Fmt.ofCode (opx.extractLsb' 4 4)
    guarded (m == 0 && opx.extractLsb' 0 4 == 0) (.vMin f d a b c x)
  | 5 => do
    let f ← Fmt.ofCode (opx.extractLsb' 4 4)
    guarded (m == 0 && opx.extractLsb' 0 4 == 0) (.vMax f d a b c x)
  | 6 => do
    let f ← Fmt.ofCode (opx.extractLsb' 4 4)
    guarded (m == 0 && opx.extractLsb' 0 4 == 0) (.vFma f d a b c x)
  | 7 => do
    let f ← Fmt.ofCode (opx.extractLsb' 4 4)
    guarded (c == 0 && m == 0 && opx.extractLsb' 0 4 == 0) (.vAbs f d a b x)
  | 8 => do
    let f ← Fmt.ofCode (opx.extractLsb' 4 4)
    guarded (c == 0 && m == 0 && opx.extractLsb' 0 4 == 0) (.vNeg f d a b x)
  | 9 => do
    let f ← Fmt.ofCode (opx.extractLsb' 4 4)
    guarded (c == 0 && m == 0 && opx.extractLsb' 0 4 == 0) (.vSqrt f d a b x)
  | 10 => do
    let f ← Fmt.ofCode (opx.extractLsb' 4 4)
    guarded (m == 0 && opx.extractLsb' 0 4 == 0) (.vAnd f d a b c x)
  | 11 => do
    let f ← Fmt.ofCode (opx.extractLsb' 4 4)
    guarded (m == 0 && opx.extractLsb' 0 4 == 0) (.vOr f d a b c x)
  | 12 => do
    let f ← Fmt.ofCode (opx.extractLsb' 4 4)
    guarded (m == 0 && opx.extractLsb' 0 4 == 0) (.vXor f d a b c x)
  | 13 => do
    let f ← Fmt.ofCode (opx.extractLsb' 4 4)
    guarded (m == 0 && opx.extractLsb' 0 4 == 0) (.vShl f d a b c x)
  | 14 => do
    let f ← Fmt.ofCode (opx.extractLsb' 4 4)
    guarded (m == 0 && opx.extractLsb' 0 4 == 0) (.vShr f d a b c x)
  | _ => none

/-- Major 0x69 of the C-form, by member (02 R61). -/
def vecCompare (d : RegNo) (m : BitVec 2) (a b c : RegNo) (x : Cx) (opx : BitVec 8) (member : BitVec 5) : Option Instr :=
  match member.toNat with
  | 0 => do
    let f ← Fmt.ofCode (opx.extractLsb' 4 4)
    guarded (m == 0 && opx.extractLsb' 0 4 == 0) (.vCeq f d a b c x)
  | 1 => do
    let f ← Fmt.ofCode (opx.extractLsb' 4 4)
    guarded (m == 0 && opx.extractLsb' 0 4 == 0) (.vClt f d a b c x)
  | 2 => do
    let f ← Fmt.ofCode (opx.extractLsb' 4 4)
    guarded (m == 0 && opx.extractLsb' 0 4 == 0) (.vCle f d a b c x)
  | 3 => do
    let f ← Fmt.ofCode (opx.extractLsb' 4 4)
    guarded (m == 0 && opx.extractLsb' 0 4 == 0) (.vSel f d a b c x)
  | _ => none

/-- Major 0x6A of the C-form, by member (02 R61). -/
def vecConvert (d : RegNo) (m : BitVec 2) (a b c : RegNo) (x : Cx) (opx : BitVec 8) (member : BitVec 5) : Option Instr :=
  match member.toNat with
  | 0 => do
    let toF ← Fmt.ofCode (opx.extractLsb' 4 4)
    let fr ← Fmt.ofCode (opx.extractLsb' 0 4)
    guarded (c == 0 && m == 0) (.vCvt toF fr d a b x)
  | _ => none

/-- Major 0x6B of the C-form, by member (02 R61). -/
def vecReduce (d : RegNo) (m : BitVec 2) (a b c : RegNo) (x : Cx) (opx : BitVec 8) (member : BitVec 5) : Option Instr :=
  match member.toNat with
  | 0 => do
    let f ← Fmt.ofCode (opx.extractLsb' 4 4)
    guarded (c == 0 && m == 0 && opx.extractLsb' 0 4 == 0) (.vRsum f d a b x)
  | 1 => do
    let f ← Fmt.ofCode (opx.extractLsb' 4 4)
    guarded (c == 0 && m == 0 && opx.extractLsb' 0 4 == 0) (.vRmax f d a b x)
  | 2 => do
    let f ← Fmt.ofCode (opx.extractLsb' 4 4)
    guarded (c == 0 && m == 0 && opx.extractLsb' 0 4 == 0) (.vRmin f d a b x)
  | _ => none

/-- Major 0x6C of the C-form, by member (02 R61). -/
def vecMove (d : RegNo) (m : BitVec 2) (a b c : RegNo) (x : Cx) (opx : BitVec 8) (member : BitVec 5) : Option Instr :=
  match member.toNat with
  | 0 => do
    let f ← Fmt.ofCode (opx.extractLsb' 4 4)
    guarded (c == 0 && m == 0 && opx.extractLsb' 0 4 == 0) (.vBcast f d a b x)
  | 1 => do
    let f ← Fmt.ofCode (opx.extractLsb' 4 4)
    guarded (m == 0 && opx.extractLsb' 0 4 == 0) (.vGat f d a b c x)
  | 2 => do
    let f ← Fmt.ofCode (opx.extractLsb' 4 4)
    guarded (m == 0 && opx.extractLsb' 0 4 == 0) (.vSct f d a b c x)
  | 3 => guarded (d == 0 && a == 0 && b == 0 && m == 0 && opx == 0) (.vSync c x)
  | _ => none

/-- Major 0x70 of the C-form, by member (02 R61). -/
def mmaBf16Cmd (d : RegNo) (m : BitVec 2) (a b c : RegNo) (x : Cx) (opx : BitVec 8) (member : BitVec 5) : Option Instr :=
  match member.toNat with
  | 0 => guarded (c == 0 && opx.extractLsb' 1 7 == 0) (.mmaBf16 (opx.getLsbD 0) (m.getLsbD 0) (m.getLsbD 1) d a b x)
  | _ => none

/-- Major 0x71 of the C-form, by member (02 R61). -/
def mmaF16Cmd (d : RegNo) (m : BitVec 2) (a b c : RegNo) (x : Cx) (opx : BitVec 8) (member : BitVec 5) : Option Instr :=
  match member.toNat with
  | 0 => guarded (c == 0 && opx.extractLsb' 1 7 == 0) (.mmaF16 (opx.getLsbD 0) (m.getLsbD 0) (m.getLsbD 1) d a b x)
  | _ => none

/-- Major 0x72 of the C-form, by member (02 R61). -/
def mmaK8Cmd (d : RegNo) (m : BitVec 2) (a b c : RegNo) (x : Cx) (opx : BitVec 8) (member : BitVec 5) : Option Instr :=
  match member.toNat with
  | 0 => guarded (c == 0 && opx.extractLsb' 1 7 == 0) (.mmaK8 (opx.getLsbD 0) (m.getLsbD 0) (m.getLsbD 1) d a b x)
  | _ => none

/-- Major 0x73 of the C-form, by member (02 R61). -/
def mmaI8Cmd (d : RegNo) (m : BitVec 2) (a b c : RegNo) (x : Cx) (opx : BitVec 8) (member : BitVec 5) : Option Instr :=
  match member.toNat with
  | 0 => guarded (c == 0 && opx.extractLsb' 1 7 == 0) (.mmaI8 (opx.getLsbD 0) (m.getLsbD 0) (m.getLsbD 1) d a b x)
  | _ => none

/-- Major 0x74 of the C-form, by member (02 R61). -/
def mmaBsCmd (d : RegNo) (m : BitVec 2) (a b c : RegNo) (x : Cx) (opx : BitVec 8) (member : BitVec 5) : Option Instr :=
  match member.toNat with
  | 0 => guarded (opx.extractLsb' 1 7 == 0) (.mmaK8Bs (opx.getLsbD 0) (m.getLsbD 0) (m.getLsbD 1) d a b c x)
  | _ => none

/-- Major 0x78 of the C-form, by member (02 R61). -/
def matrixCmd (d : RegNo) (m : BitVec 2) (a b c : RegNo) (x : Cx) (opx : BitVec 8) (member : BitVec 5) : Option Instr :=
  match member.toNat with
  | 0 => guarded (d == 0 && a == 0 && b == 0 && m == 0 && opx.extractLsb' 1 7 == 0) (.mzero (opx.getLsbD 0) c x)
  | 1 => guarded (d == 0 && b == 0 && m == 0 && opx.extractLsb' 1 7 == 0) (.mld (opx.getLsbD 0) a c x)
  | 2 => guarded (d == 0 && b == 0 && m == 0 && opx.extractLsb' 1 7 == 0) (.mst (opx.getLsbD 0) a c x)
  | 3 => guarded (b == 0 && c == 0 && m == 0 && opx.extractLsb' 1 7 == 0) (.mrd (opx.getLsbD 0) d a x)
  | 4 => do
    let f ← Fmt.ofCode (opx.extractLsb' 4 4)
    guarded (m == 0 && opx.extractLsb' 1 3 == 0) (.mdrain f (opx.getLsbD 0) d a b c x)
  | 5 => guarded (b == 0 && m == 0 && opx == 0) (.dtload d a c x)
  | _ => none

/-- Major 0x7A of the C-form, by member (02 R61). -/
def mangleCmd (d : RegNo) (m : BitVec 2) (a b c : RegNo) (x : Cx) (opx : BitVec 8) (member : BitVec 5) : Option Instr :=
  match member.toNat with
  | 0 => guarded (m == 0 && opx == 0) (.mgCfg d a b c x)
  | 1 => guarded (b == 0 && m == 0 && opx == 0) (.mgTbl d a c x)
  | 2 => guarded (b == 0 && m == 0 && opx == 0) (.mgInjU d a c x)
  | 3 => guarded (b == 0 && m == 0 && opx == 0) (.mgInjL d a c x)
  | 4 => guarded (d == 0 && a == 0 && b == 0 && m == 0 && opx == 0) (.mgGo c x)
  | 5 => guarded (d == 0 && a == 0 && b == 0 && m == 0 && opx == 0) (.mgHalt c x)
  | 6 => guarded (d == 0 && b == 0 && m == 0 && opx == 0) (.mgStat a c x)
  | 7 => guarded (b == 0 && m == 0 && opx == 0) (.mgEj d a c x)
  | _ => none

/-- Major 0x7C of the C-form, by member (02 R61). -/
def hypothesisCmd (d : RegNo) (m : BitVec 2) (a b c : RegNo) (x : Cx) (opx : BitVec 8) (member : BitVec 5) : Option Instr :=
  match member.toNat with
  | 0 => guarded (d == 0 && m == 0 && opx == 0) (.hnew a b c x)
  | 1 => guarded (d == 0 && b == 0 && c == 0 && m == 0 && opx == 0) (.henter a x)
  | 2 => guarded (d == 0 && a == 0 && b == 0 && c == 0 && m == 0 && opx == 0) (.hleave x)
  | 3 => guarded (d == 0 && b == 0 && m == 0 && opx == 0) (.hconfirm a c x)
  | 4 => guarded (d == 0 && b == 0 && m == 0 && opx == 0) (.hconfirmX a c x)
  | 5 => guarded (d == 0 && b == 0 && m == 0 && opx == 0) (.hrefute a c x)
  | 6 => guarded (d == 0 && m == 0 && opx == 0) (.hstat a b c x)
  | _ => none

/-- Major 0x7E of the C-form, by member (02 R61). -/
def combiningCmd (d : RegNo) (m : BitVec 2) (a b c : RegNo) (x : Cx) (opx : BitVec 8) (member : BitVec 5) : Option Instr :=
  match member.toNat with
  | 0 => guarded (a == 0 && b == 0 && m == 0 && opx == 0) (.barExp d c x)
  | 1 => guarded (a == 0 && b == 0 && m == 0 && opx == 0) (.barArr d c x)
  | 2 => guarded (m == 0 && opx == 0) (.redCfg d a b c x)
  | 3 => guarded (b == 0 && m == 0 && opx == 0) (.redSend d a c x)
  | 4 => guarded (b == 0 && m == 0 && opx == 0) (.redStat d a c x)
  | _ => none

/-- The C-form majors (02 R54, R56). -/
def commandOf (op : BitVec 7) (d : RegNo) (m : BitVec 2) (a b c : RegNo) (imm : BitVec 17) : Option Instr := do
  let (x, member, opx) ← cOf imm
  match op.toNat with
  | 0x28 => agentCmd d m a b c x opx member
  | 0x50 => dispatchCmd d m a b c x opx member
  | 0x54 => cacheCmd d m a b c x opx member
  | 0x55 => overflowCmd d m a b c x opx member
  | 0x58 => translationCmd d m a b c x opx member
  | 0x60 => copyCmd d m a b c x opx member
  | 0x64 => messageCmd d m a b c x opx member
  | 0x68 => vecArith d m a b c x opx member
  | 0x69 => vecCompare d m a b c x opx member
  | 0x6a => vecConvert d m a b c x opx member
  | 0x6b => vecReduce d m a b c x opx member
  | 0x6c => vecMove d m a b c x opx member
  | 0x70 => mmaBf16Cmd d m a b c x opx member
  | 0x71 => mmaF16Cmd d m a b c x opx member
  | 0x72 => mmaK8Cmd d m a b c x opx member
  | 0x73 => mmaI8Cmd d m a b c x opx member
  | 0x74 => mmaBsCmd d m a b c x opx member
  | 0x78 => matrixCmd d m a b c x opx member
  | 0x7a => mangleCmd d m a b c x opx member
  | 0x7c => hypothesisCmd d m a b c x opx member
  | 0x7e => combiningCmd d m a b c x opx member
  | _ => none

/-- The instruction a set of fields holds, by its major; none where a selector, an unused field or a reserved value
turns it away (02 R50, R55, R56). -/
def instrOf (x : Fields) : Option Instr :=
  match x.tail with
  | .none =>
    match x.op.toNat, x.m.toNat with
    | 0x00, 0 => guarded (x.d == 0) .nop
    | 0x01, 0 => guarded (x.d == 0) .yield
    | 0x01, 1 => guarded (x.d == 0) .exit
    | _, _ => none
  | .two a b f =>
    match x.op.toNat with
    | 0x02 => guarded (x.d == 0 && x.m == 0) (.trap (a ++ b ++ f))
    | 0x04 => controlOf x.d x.m a b f
    | 0x08 => do
      let w ← Width.ofCode x.m
      aluReg x.d w a b f
    | 0x13 =>
      match x.m.toNat with
      | 0 => guarded (x.d == 0 && b == 0 && f == 0) (.jr a)
      | 1 => guarded (b == 0 && f == 0) (.callr x.d a)
      | _ => none
    | 0x18 => if x.m == 0 then capReg x.d a b f else none
    | 0x20 => do
      let t ← FFmt.ofCode x.m
      fpReg x.d t a b f
    | 0x44 => fenceOf x.d x.m a b f
    | 0x48 => watchOf x.d x.m a b f
    | 0x49 => waitgeOf x.d x.m a b f
    | _ => none
  | .four a b c imm =>
    match x.op.toNat with
    | 0x09 => do
      let w ← Width.ofCode x.m
      if c == 0 then aluImm x.d w a b imm else none
    | 0x10 | 0x11 => if x.d == 0 && c == 0 then branchOf x.op x.m a b imm else none
    | 0x19 => if x.m == 0 && c == 0 then capImm x.d a b imm else none
    | 0x21 => do
      let t ← FFmt.ofCode x.m
      fpFused x.d t a b c imm
    | 0x22 => if x.m == 0 && b == 0 && c == 0 then fcvtOf x.d a imm else none
    | 0x30 | 0x31 | 0x32 | 0x33 | 0x34 | 0x38 | 0x39 | 0x3a | 0x3b | 0x3c => do
      let h ← Hint.ofCode x.m
      let (z, o) ← accessOf b
      if c == 0 then accessInstr x.op x.d a imm z o h else none
    | 0x40 | 0x41 | 0x42 | 0x43 => if x.m == 0 && c == 0 then atomicOf x.op x.d a b imm else none
    | _ => commandOf x.op x.d x.m a b c imm
  | .eight a b imm =>
    match x.op.toNat, x.m.toNat with
    | 0x0a, 0 => guarded (a == 0 && b == 0) (.li x.d imm)
    | 0x0a, 1 => guarded (a == 0 && b == 0 && imm.extractLsb' 10 44 == 0) (.lih x.d (imm.extractLsb' 0 10))
    | 0x12, 0 => guarded (x.d == 0 && a == 0 && b == 0) (.jmp imm)
    | 0x12, 1 => guarded (a == 0 && b == 0) (.call x.d imm)
    | _, _ => none

/-- Decodes a head and the bits of its tail, in the order of 02 R50: reserved major, tail size, then the rest (log 101, DEDUCED). -/
def decode (head : BitVec 16) (tail : BitVec 64) : Except DecodeError Instr :=
  let op := head.extractLsb' 7 7
  match tzOf op with
  | none => .error .reserved
  | some tz =>
    if head.extractLsb' 14 2 = tz then
      match instrOf ⟨op, head.extractLsb' 2 5, head.extractLsb' 0 2, tailOf tz tail⟩ with
      | some i => if i.wellFormed then .ok i else .error .reserved
      | none => .error .reserved
    else .error .tailSize

/-- Two rows of the opcode table share one encoding where an operand's value tells their effects apart; the decoder
gives the first, and this maps the second to it. -/
def Instr.canon : Instr → Instr
  | .tstopRetire a b c x => .tstop a b c x
  | .tstatCluster a b c x => .tstat a b c x
  | .dxInvWake a b c x => .dxInvInvalidate a b c x
  | .rcvBindUnbind d a b c x => .rcvBind d a b c x
  | .barExpFree d c x => .barExp d c x
  | .redCfgFree d a b c x => .redCfg d a b c x
  | i => i

/-- The fields that encode an instruction (02 R45, R46, R54 to R62); none for the events, which have no encoding. -/
def encode : Instr → Option Fields
  | .nop => some ⟨0x00, 0, 0, .none⟩
  | .yield => some ⟨0x01, 0, 0, .none⟩
  | .exit => some ⟨0x01, 0, 1, .none⟩
  | .trap imm => some ⟨0x02, 0, 0, .two (imm.extractLsb' 11 5) (imm.extractLsb' 6 5) (imm.extractLsb' 0 6)⟩
  | .kget d k => some ⟨0x04, d, 0, .two 0 0 k.code⟩
  | .kputFpcsr a => some ⟨0x04, 0, 1, .two a 0 4⟩
  | .kputFaultrec a => some ⟨0x04, 0, 1, .two a 0 5⟩
  | .kputPrio a => some ⟨0x04, 0, 1, .two a 0 8⟩
  | .kputWake a => some ⟨0x04, 0, 1, .two a 0 9⟩
  | .kputCarve a => some ⟨0x04, 0, 1, .two a 0 10⟩
  | .add d w a b => some ⟨0x08, d, w.code, .two a b 0⟩
  | .sub d w a b => some ⟨0x08, d, w.code, .two a b 1⟩
  | .and d w a b => some ⟨0x08, d, w.code, .two a b 2⟩
  | .or d w a b => some ⟨0x08, d, w.code, .two a b 3⟩
  | .xor d w a b => some ⟨0x08, d, w.code, .two a b 4⟩
  | .sll d w a b => some ⟨0x08, d, w.code, .two a b 5⟩
  | .srl d w a b => some ⟨0x08, d, w.code, .two a b 6⟩
  | .sra d w a b => some ⟨0x08, d, w.code, .two a b 7⟩
  | .slt d w a b => some ⟨0x08, d, w.code, .two a b 8⟩
  | .sltu d w a b => some ⟨0x08, d, w.code, .two a b 9⟩
  | .seq d w a b => some ⟨0x08, d, w.code, .two a b 10⟩
  | .sne d w a b => some ⟨0x08, d, w.code, .two a b 11⟩
  | .min d w a b => some ⟨0x08, d, w.code, .two a b 12⟩
  | .max d w a b => some ⟨0x08, d, w.code, .two a b 13⟩
  | .minu d w a b => some ⟨0x08, d, w.code, .two a b 14⟩
  | .maxu d w a b => some ⟨0x08, d, w.code, .two a b 15⟩
  | .mul d w a b => some ⟨0x08, d, w.code, .two a b 16⟩
  | .mulh d w a b => some ⟨0x08, d, w.code, .two a b 17⟩
  | .mulhu d w a b => some ⟨0x08, d, w.code, .two a b 18⟩
  | .div d w a b => some ⟨0x08, d, w.code, .two a b 19⟩
  | .divu d w a b => some ⟨0x08, d, w.code, .two a b 20⟩
  | .rem d w a b => some ⟨0x08, d, w.code, .two a b 21⟩
  | .remu d w a b => some ⟨0x08, d, w.code, .two a b 22⟩
  | .andn d w a b => some ⟨0x08, d, w.code, .two a b 23⟩
  | .orn d w a b => some ⟨0x08, d, w.code, .two a b 24⟩
  | .rol d w a b => some ⟨0x08, d, w.code, .two a b 25⟩
  | .ror d w a b => some ⟨0x08, d, w.code, .two a b 26⟩
  | .clz d w a => some ⟨0x08, d, w.code, .two a 0 27⟩
  | .ctz d w a => some ⟨0x08, d, w.code, .two a 0 28⟩
  | .popc d w a => some ⟨0x08, d, w.code, .two a 0 29⟩
  | .bswap d w a => some ⟨0x08, d, w.code, .two a 0 30⟩
  | .pack d a b => some ⟨0x08, d, 0, .two a b 32⟩
  | .hi d a => some ⟨0x08, d, 0, .two a 0 33⟩
  | .sextb d w a => some ⟨0x08, d, w.code, .two a 0 34⟩
  | .sexth d w a => some ⟨0x08, d, w.code, .two a 0 35⟩
  | .addi d w a imm => some ⟨0x09, d, w.code, .four a 0 0 imm⟩
  | .andi d w a imm => some ⟨0x09, d, w.code, .four a 2 0 imm⟩
  | .ori d w a imm => some ⟨0x09, d, w.code, .four a 3 0 imm⟩
  | .xori d w a imm => some ⟨0x09, d, w.code, .four a 4 0 imm⟩
  | .slli d w a imm => some ⟨0x09, d, w.code, .four a 5 0 imm⟩
  | .srli d w a imm => some ⟨0x09, d, w.code, .four a 6 0 imm⟩
  | .srai d w a imm => some ⟨0x09, d, w.code, .four a 7 0 imm⟩
  | .slti d w a imm => some ⟨0x09, d, w.code, .four a 8 0 imm⟩
  | .sltui d w a imm => some ⟨0x09, d, w.code, .four a 9 0 imm⟩
  | .seqi d w a imm => some ⟨0x09, d, w.code, .four a 10 0 imm⟩
  | .snei d w a imm => some ⟨0x09, d, w.code, .four a 11 0 imm⟩
  | .mini d w a imm => some ⟨0x09, d, w.code, .four a 12 0 imm⟩
  | .maxi d w a imm => some ⟨0x09, d, w.code, .four a 13 0 imm⟩
  | .minui d w a imm => some ⟨0x09, d, w.code, .four a 14 0 imm⟩
  | .maxui d w a imm => some ⟨0x09, d, w.code, .four a 15 0 imm⟩
  | .muli d w a imm => some ⟨0x09, d, w.code, .four a 16 0 imm⟩
  | .roli d w a imm => some ⟨0x09, d, w.code, .four a 25 0 imm⟩
  | .rori d w a imm => some ⟨0x09, d, w.code, .four a 26 0 imm⟩
  | .li d imm => some ⟨0x0a, d, 0, .eight 0 0 imm⟩
  | .lih d imm => some ⟨0x0a, d, 1, .eight 0 0 (0#44 ++ imm)⟩
  | .beq a b t => some ⟨0x10, 0, 0, .four a b 0 t⟩
  | .bne a b t => some ⟨0x10, 0, 1, .four a b 0 t⟩
  | .blt a b t => some ⟨0x10, 0, 2, .four a b 0 t⟩
  | .bge a b t => some ⟨0x10, 0, 3, .four a b 0 t⟩
  | .bltu a b t => some ⟨0x11, 0, 0, .four a b 0 t⟩
  | .bgeu a b t => some ⟨0x11, 0, 1, .four a b 0 t⟩
  | .btag a t => some ⟨0x11, 0, 2, .four a 0 0 t⟩
  | .bntag a t => some ⟨0x11, 0, 3, .four a 0 0 t⟩
  | .jmp t => some ⟨0x12, 0, 0, .eight 0 0 t⟩
  | .call d t => some ⟨0x12, d, 1, .eight 0 0 t⟩
  | .jr a => some ⟨0x13, 0, 0, .two a 0 0⟩
  | .callr d a => some ⟨0x13, d, 1, .two a 0 0⟩
  | .cgetaddr d a => some ⟨0x18, d, 0, .two a 0 0⟩
  | .cgetbase d a => some ⟨0x18, d, 0, .two a 0 1⟩
  | .cgettop d a => some ⟨0x18, d, 0, .two a 0 2⟩
  | .cgetlen d a => some ⟨0x18, d, 0, .two a 0 3⟩
  | .cgetperm d a => some ⟨0x18, d, 0, .two a 0 4⟩
  | .cgettag d a => some ⟨0x18, d, 0, .two a 0 5⟩
  | .csetaddr d a b => some ⟨0x18, d, 0, .two a b 6⟩
  | .cinc d a b => some ⟨0x18, d, 0, .two a b 7⟩
  | .csetbnd d a b => some ⟨0x18, d, 0, .two a b 8⟩
  | .csetbndx d a b => some ⟨0x18, d, 0, .two a b 9⟩
  | .candperm d a b => some ⟨0x18, d, 0, .two a b 10⟩
  | .cseal d a => some ⟨0x18, d, 0, .two a 0 11⟩
  | .cunseal d a b => some ⟨0x18, d, 0, .two a b 12⟩
  | .cclrtag d a => some ⟨0x18, d, 0, .two a 0 13⟩
  | .cmove d a => some ⟨0x18, d, 0, .two a 0 14⟩
  | .ctestsub d a b => some ⟨0x18, d, 0, .two a b 15⟩
  | .cinci d a imm => some ⟨0x19, d, 0, .four a 0 0 imm⟩
  | .csetbndi d a imm => some ⟨0x19, d, 0, .four a 1 0 imm⟩
  | .candpermi d a imm => some ⟨0x19, d, 0, .four a 2 0 (0#3 ++ imm)⟩
  | .fadd d t a b => some ⟨0x20, d, t.code, .two a b 0⟩
  | .fsub d t a b => some ⟨0x20, d, t.code, .two a b 1⟩
  | .fmul d t a b => some ⟨0x20, d, t.code, .two a b 2⟩
  | .fdiv d t a b => some ⟨0x20, d, t.code, .two a b 3⟩
  | .fsqrt d t a => some ⟨0x20, d, t.code, .two a 0 4⟩
  | .fmin d t a b => some ⟨0x20, d, t.code, .two a b 5⟩
  | .fmax d t a b => some ⟨0x20, d, t.code, .two a b 6⟩
  | .fsgnj d t a b => some ⟨0x20, d, t.code, .two a b 7⟩
  | .fsgnjn d t a b => some ⟨0x20, d, t.code, .two a b 8⟩
  | .fsgnjx d t a b => some ⟨0x20, d, t.code, .two a b 9⟩
  | .feq d t a b => some ⟨0x20, d, t.code, .two a b 10⟩
  | .flt d t a b => some ⟨0x20, d, t.code, .two a b 11⟩
  | .fle d t a b => some ⟨0x20, d, t.code, .two a b 12⟩
  | .fclass d t a => some ⟨0x20, d, t.code, .two a 0 13⟩
  | .fma d t a b c => some ⟨0x21, d, t.code, .four a b c 0⟩
  | .fms d t a b c => some ⟨0x21, d, t.code, .four a b c 1⟩
  | .fnma d t a b c => some ⟨0x21, d, t.code, .four a b c 2⟩
  | .fnms d t a b c => some ⟨0x21, d, t.code, .four a b c 3⟩
  | .fcvt d toF fr rnd a => some ⟨0x22, d, 0, .four a 0 0 (toF.code ++ fr.code ++ rnd.code ++ 0#6)⟩
  | .spawn a b c x => some ⟨0x28, 0, 0, .four a b c (cImm x 0 (0))⟩
  | .tstop a b c x => some ⟨0x28, 0, 0, .four a b c (cImm x 1 (0))⟩
  | .tstopRetire a b c x => some ⟨0x28, 0, 0, .four a b c (cImm x 1 (0))⟩
  | .tstart a b c x => some ⟨0x28, 0, 0, .four a b c (cImm x 2 (0))⟩
  | .tread a b c x => some ⟨0x28, 0, 0, .four a b c (cImm x 3 (0))⟩
  | .twrite a b c x => some ⟨0x28, 0, 0, .four a b c (cImm x 4 (0))⟩
  | .tstat a b c x => some ⟨0x28, 0, 0, .four a b c (cImm x 5 (0))⟩
  | .tstatCluster a b c x => some ⟨0x28, 0, 0, .four a b c (cImm x 5 (0))⟩
  | .agrant a b c x => some ⟨0x28, 0, 0, .four a b c (cImm x 6 (0))⟩
  | .arevoke a b c x => some ⟨0x28, 0, 0, .four a b c (cImm x 7 (0))⟩
  | .sfreplay a b c x => some ⟨0x28, 0, 0, .four a b c (cImm x 8 (0))⟩
  | .qpub a b c x => some ⟨0x50, 0, 0, .four a b c (cImm x 0 (0))⟩
  | .ldB d a off z acq h => some ⟨0x30, d, h.code, .four a (accessB z acq) 0 off⟩
  | .ldH d a off z acq h => some ⟨0x31, d, h.code, .four a (accessB z acq) 0 off⟩
  | .ldW d a off z acq h => some ⟨0x32, d, h.code, .four a (accessB z acq) 0 off⟩
  | .ldD d a off acq h => some ⟨0x33, d, h.code, .four a (accessB false acq) 0 off⟩
  | .ldQ d a off acq h => some ⟨0x34, d, h.code, .four a (accessB false acq) 0 off⟩
  | .stB d a off rel h => some ⟨0x38, d, h.code, .four a (accessB false rel) 0 off⟩
  | .stH d a off rel h => some ⟨0x39, d, h.code, .four a (accessB false rel) 0 off⟩
  | .stW d a off rel h => some ⟨0x3a, d, h.code, .four a (accessB false rel) 0 off⟩
  | .stD d a off rel h => some ⟨0x3b, d, h.code, .four a (accessB false rel) 0 off⟩
  | .stQ d a off rel h => some ⟨0x3c, d, h.code, .four a (accessB false rel) 0 off⟩
  | .amoAdd w d a b o => some ⟨0x40, d, 0, .four a b 0 (amoImm o w 0)⟩
  | .amoAnd w d a b o => some ⟨0x40, d, 0, .four a b 0 (amoImm o w 1)⟩
  | .amoOr w d a b o => some ⟨0x40, d, 0, .four a b 0 (amoImm o w 2)⟩
  | .amoXor w d a b o => some ⟨0x40, d, 0, .four a b 0 (amoImm o w 3)⟩
  | .amoSmin w d a b o => some ⟨0x40, d, 0, .four a b 0 (amoImm o w 4)⟩
  | .amoSmax w d a b o => some ⟨0x40, d, 0, .four a b 0 (amoImm o w 5)⟩
  | .amoUmin w d a b o => some ⟨0x40, d, 0, .four a b 0 (amoImm o w 6)⟩
  | .amoUmax w d a b o => some ⟨0x40, d, 0, .four a b 0 (amoImm o w 7)⟩
  | .amoSwap w d a b o => some ⟨0x40, d, 0, .four a b 0 (amoImm o w 8)⟩
  | .amoFadd d a b o => some ⟨0x40, d, 0, .four a b 0 (amoImm o .w 9)⟩
  | .cas w d a b o => some ⟨0x41, d, 0, .four a b 0 (amoImm o w 0)⟩
  | .lres w d a sc acq => some ⟨0x42, d, 0, .four a 0 0 (amoImm ⟨sc, acq, false⟩ w 0)⟩
  | .scond w d a b sc rel => some ⟨0x43, d, 0, .four a b 0 (amoImm ⟨sc, false, rel⟩ w 0)⟩
  | .fence kinds sc => some ⟨0x44, 0, 0, .two (0#1 ++ kinds) (0#2 ++ sc.code) 0⟩
  | .fenceRs => some ⟨0x44, 0, 1, .two 0 0 0⟩
  | .drain => some ⟨0x44, 0, 2, .two 0 0 0⟩
  | .warm d a i => some ⟨0x48, d, 0, .two a 0 (0#3 ++ i)⟩
  | .wdis i => some ⟨0x48, 0, 1, .two 0 0 (0#3 ++ i)⟩
  | .sleep => some ⟨0x48, 0, 2, .two 0 0 0⟩
  | .waitge a b sc => some ⟨0x49, 0, 0, .two a b (0#3 ++ sc.code)⟩
  | .ccCln a b c x => some ⟨0x54, 0, 0, .four a b c (cImm x 0 (0))⟩
  | .ccFls a b c x => some ⟨0x54, 0, 0, .four a b c (cImm x 1 (0))⟩
  | .ccInv a b c x => some ⟨0x54, 0, 0, .four a b c (cImm x 2 (0))⟩
  | .ccPf h a b c x => some ⟨0x54, 0, h.code, .four a b c (cImm x 3 (0))⟩
  | .ccRsd h a b c x => some ⟨0x54, 0, h.code, .four a b c (cImm x 4 (0))⟩
  | .dxNext a b c x => some ⟨0x55, 0, 0, .four a b c (cImm x 0 (0))⟩
  | .dxInvInvalidate a b c x => some ⟨0x55, 0, 0, .four a b c (cImm x 1 (0))⟩
  | .dxInvWake a b c x => some ⟨0x55, 0, 0, .four a b c (cImm x 1 (0))⟩
  | .dxDone a b c x => some ⟨0x55, 0, 0, .four a b c (cImm x 2 (0))⟩
  | .xinv a b c x => some ⟨0x58, 0, 0, .four a b c (cImm x 0 (0))⟩
  | .xprobe a b c x => some ⟨0x58, 0, 0, .four a b c (cImm x 1 (0))⟩
  | .pgdisc a b c x => some ⟨0x58, 0, 0, .four a b c (cImm x 2 (0))⟩
  | .pgmig a b c x => some ⟨0x58, 0, 0, .four a b c (cImm x 3 (0))⟩
  | .cp1d h d a b c x => some ⟨0x60, d, h.code, .four a b c (cImm x 0 (0))⟩
  | .cp2d h d a b c x => some ⟨0x60, d, h.code, .four a b c (cImm x 1 (0))⟩
  | .cp3d h d a b c x => some ⟨0x60, d, h.code, .four a b c (cImm x 2 (0))⟩
  | .cpGat h d a b c x => some ⟨0x60, d, h.code, .four a b c (cImm x 3 (0))⟩
  | .cpFill h d a b c x => some ⟨0x60, d, h.code, .four a b c (cImm x 4 (0))⟩
  | .cpStat a c x => some ⟨0x60, 0, 0, .four a 0 c (cImm x 8 (0))⟩
  | .cpResume b c x => some ⟨0x60, 0, 0, .four 0 b c (cImm x 9 (0))⟩
  | .cpCancel b c x => some ⟨0x60, 0, 0, .four 0 b c (cImm x 10 (0))⟩
  | .snd d a c x => some ⟨0x64, d, 0, .four a 0 c (cImm x 0 (0))⟩
  | .rcvBind d a b c x => some ⟨0x64, d, 0, .four a b c (cImm x 1 (0))⟩
  | .rcvBindUnbind d a b c x => some ⟨0x64, d, 0, .four a b c (cImm x 1 (0))⟩
  | .vAdd f d a b c x => some ⟨0x68, d, 0, .four a b c (cImm x 0 (f.code ++ 0#4))⟩
  | .vSub f d a b c x => some ⟨0x68, d, 0, .four a b c (cImm x 1 (f.code ++ 0#4))⟩
  | .vMul f d a b c x => some ⟨0x68, d, 0, .four a b c (cImm x 2 (f.code ++ 0#4))⟩
  | .vDiv f d a b c x => some ⟨0x68, d, 0, .four a b c (cImm x 3 (f.code ++ 0#4))⟩
  | .vMin f d a b c x => some ⟨0x68, d, 0, .four a b c (cImm x 4 (f.code ++ 0#4))⟩
  | .vMax f d a b c x => some ⟨0x68, d, 0, .four a b c (cImm x 5 (f.code ++ 0#4))⟩
  | .vFma f d a b c x => some ⟨0x68, d, 0, .four a b c (cImm x 6 (f.code ++ 0#4))⟩
  | .vAbs f d a b x => some ⟨0x68, d, 0, .four a b 0 (cImm x 7 (f.code ++ 0#4))⟩
  | .vNeg f d a b x => some ⟨0x68, d, 0, .four a b 0 (cImm x 8 (f.code ++ 0#4))⟩
  | .vSqrt f d a b x => some ⟨0x68, d, 0, .four a b 0 (cImm x 9 (f.code ++ 0#4))⟩
  | .vAnd f d a b c x => some ⟨0x68, d, 0, .four a b c (cImm x 10 (f.code ++ 0#4))⟩
  | .vOr f d a b c x => some ⟨0x68, d, 0, .four a b c (cImm x 11 (f.code ++ 0#4))⟩
  | .vXor f d a b c x => some ⟨0x68, d, 0, .four a b c (cImm x 12 (f.code ++ 0#4))⟩
  | .vShl f d a b c x => some ⟨0x68, d, 0, .four a b c (cImm x 13 (f.code ++ 0#4))⟩
  | .vShr f d a b c x => some ⟨0x68, d, 0, .four a b c (cImm x 14 (f.code ++ 0#4))⟩
  | .vCeq f d a b c x => some ⟨0x69, d, 0, .four a b c (cImm x 0 (f.code ++ 0#4))⟩
  | .vClt f d a b c x => some ⟨0x69, d, 0, .four a b c (cImm x 1 (f.code ++ 0#4))⟩
  | .vCle f d a b c x => some ⟨0x69, d, 0, .four a b c (cImm x 2 (f.code ++ 0#4))⟩
  | .vSel f d a b c x => some ⟨0x69, d, 0, .four a b c (cImm x 3 (f.code ++ 0#4))⟩
  | .vCvt toF fr d a b x => some ⟨0x6a, d, 0, .four a b 0 (cImm x 0 (toF.code ++ fr.code))⟩
  | .vRsum f d a b x => some ⟨0x6b, d, 0, .four a b 0 (cImm x 0 (f.code ++ 0#4))⟩
  | .vRmax f d a b x => some ⟨0x6b, d, 0, .four a b 0 (cImm x 1 (f.code ++ 0#4))⟩
  | .vRmin f d a b x => some ⟨0x6b, d, 0, .four a b 0 (cImm x 2 (f.code ++ 0#4))⟩
  | .vBcast f d a b x => some ⟨0x6c, d, 0, .four a b 0 (cImm x 0 (f.code ++ 0#4))⟩
  | .vGat f d a b c x => some ⟨0x6c, d, 0, .four a b c (cImm x 1 (f.code ++ 0#4))⟩
  | .vSct f d a b c x => some ⟨0x6c, d, 0, .four a b c (cImm x 2 (f.code ++ 0#4))⟩
  | .vSync c x => some ⟨0x6c, 0, 0, .four 0 0 c (cImm x 3 (0))⟩
  | .mmaBf16 acc ta tb d a b x => some ⟨0x70, d, BitVec.ofBool tb ++ BitVec.ofBool ta, .four a b 0 (cImm x 0 (0#7 ++ BitVec.ofBool acc))⟩
  | .mmaF16 acc ta tb d a b x => some ⟨0x71, d, BitVec.ofBool tb ++ BitVec.ofBool ta, .four a b 0 (cImm x 0 (0#7 ++ BitVec.ofBool acc))⟩
  | .mmaK8 acc ta tb d a b x => some ⟨0x72, d, BitVec.ofBool tb ++ BitVec.ofBool ta, .four a b 0 (cImm x 0 (0#7 ++ BitVec.ofBool acc))⟩
  | .mmaI8 acc ta tb d a b x => some ⟨0x73, d, BitVec.ofBool tb ++ BitVec.ofBool ta, .four a b 0 (cImm x 0 (0#7 ++ BitVec.ofBool acc))⟩
  | .mmaK8Bs acc ta tb d a b c x => some ⟨0x74, d, BitVec.ofBool tb ++ BitVec.ofBool ta, .four a b c (cImm x 0 (0#7 ++ BitVec.ofBool acc))⟩
  | .mzero acc c x => some ⟨0x78, 0, 0, .four 0 0 c (cImm x 0 (0#7 ++ BitVec.ofBool acc))⟩
  | .mld acc a c x => some ⟨0x78, 0, 0, .four a 0 c (cImm x 1 (0#7 ++ BitVec.ofBool acc))⟩
  | .mst acc a c x => some ⟨0x78, 0, 0, .four a 0 c (cImm x 2 (0#7 ++ BitVec.ofBool acc))⟩
  | .mrd acc d a x => some ⟨0x78, d, 0, .four a 0 0 (cImm x 3 (0#7 ++ BitVec.ofBool acc))⟩
  | .mdrain f acc d a b c x => some ⟨0x78, d, 0, .four a b c (cImm x 4 (f.code ++ 0#3 ++ BitVec.ofBool acc))⟩
  | .dtload d a c x => some ⟨0x78, d, 0, .four a 0 c (cImm x 5 (0))⟩
  | .mgCfg d a b c x => some ⟨0x7a, d, 0, .four a b c (cImm x 0 (0))⟩
  | .mgTbl d a c x => some ⟨0x7a, d, 0, .four a 0 c (cImm x 1 (0))⟩
  | .mgInjU d a c x => some ⟨0x7a, d, 0, .four a 0 c (cImm x 2 (0))⟩
  | .mgInjL d a c x => some ⟨0x7a, d, 0, .four a 0 c (cImm x 3 (0))⟩
  | .mgGo c x => some ⟨0x7a, 0, 0, .four 0 0 c (cImm x 4 (0))⟩
  | .mgHalt c x => some ⟨0x7a, 0, 0, .four 0 0 c (cImm x 5 (0))⟩
  | .mgStat a c x => some ⟨0x7a, 0, 0, .four a 0 c (cImm x 6 (0))⟩
  | .mgEj d a c x => some ⟨0x7a, d, 0, .four a 0 c (cImm x 7 (0))⟩
  | .hnew a b c x => some ⟨0x7c, 0, 0, .four a b c (cImm x 0 (0))⟩
  | .henter a x => some ⟨0x7c, 0, 0, .four a 0 0 (cImm x 1 (0))⟩
  | .hleave x => some ⟨0x7c, 0, 0, .four 0 0 0 (cImm x 2 (0))⟩
  | .hconfirm a c x => some ⟨0x7c, 0, 0, .four a 0 c (cImm x 3 (0))⟩
  | .hconfirmX a c x => some ⟨0x7c, 0, 0, .four a 0 c (cImm x 4 (0))⟩
  | .hrefute a c x => some ⟨0x7c, 0, 0, .four a 0 c (cImm x 5 (0))⟩
  | .hstat a b c x => some ⟨0x7c, 0, 0, .four a b c (cImm x 6 (0))⟩
  | .barExp d c x => some ⟨0x7e, d, 0, .four 0 0 c (cImm x 0 (0))⟩
  | .barExpFree d c x => some ⟨0x7e, d, 0, .four 0 0 c (cImm x 0 (0))⟩
  | .barArr d c x => some ⟨0x7e, d, 0, .four 0 0 c (cImm x 1 (0))⟩
  | .redCfg d a b c x => some ⟨0x7e, d, 0, .four a b c (cImm x 2 (0))⟩
  | .redCfgFree d a b c x => some ⟨0x7e, d, 0, .four a b c (cImm x 2 (0))⟩
  | .redSend d a c x => some ⟨0x7e, d, 0, .four a 0 c (cImm x 3 (0))⟩
  | .redStat d a c x => some ⟨0x7e, d, 0, .four a 0 c (cImm x 4 (0))⟩
  | .moduleReset | .moduleBoot .. | .linkTraining .. | .loadReply .. | .storeAck .. | .storeFaultArrival ..
  | .faultRecordWrite .. | .cellWriteFailure .. | .contextDisplace .. | .exitComplete .. | .drainComplete .. | .fenceRsComplete ..
  | .watchArmReply .. | .wdisReply .. | .watchFire .. | .sleepWake .. | .waitgeRecheck .. | .lresHoldExpiry ..
  | .windowStoreApply .. | .windowLoadServe .. | .coreQuarantine .. | .launchQueueWatch .. | .deviceQueueMirrorRestore .. | .packetAccept ..
  | .basketWaitMet .. | .admissionChoice .. | .loadPreempt .. | .basketComplete .. | .homeReadRequest .. | .homeStoreRequest ..
  | .homeAtomic .. | .unitMerge .. | .probeArrival .. | .ticketRetire .. | .requestRetry .. | .faultQueueRecord ..
  | .pageResponseRead .. | .pageRequestAnswer .. | .pageRequestLimit .. | .migrationHoldExpiry .. | .copyChunkDone .. | .copyTransferEnd ..
  | .zeroingFill .. | .messageDelivery .. | .messageRetry .. | .vectorOpStart .. | .streamResume .. | .vectorOpComplete ..
  | .mmaWaitCheck .. | .matrixOpComplete .. | .halfStep .. | .heldEncounterFire .. | .encounterHoldExpiry .. | .anyHomeAdd ..
  | .sessionComplete .. | .versionLineGrant .. | .versionHoldExpiry .. | .barrierPhaseComplete .. | .roundEnd .. | .roundTimeout ..
  | .atsTranslationCompletion .. | .atsCompletionTimeout .. | .priResponse .. | .priGroupTimeout .. | .atsInvalidateRequest .. | .pcieReadCompletion ..
  | .hostSnoop .. | .cxlMemHostAccess .. | .hostWarmRestart | .functionLevelReset .. | .linkCountChange .. | .linkReplyTimeout ..
  | .peerAccess .. | .peerUnreachable .. | .partitionSetup .. | .partitionTeardown .. | .registerHostQueue .. | .latencyTolerance ..
  | .attest .. | .readJournal .. | .resetCore .. | .eventRing .. | .loadImage .. | .parkSize ..
  | .softErrorReport .. | .powerStateEntry | .powerWake .. | .registerWrite .. | .hostLinkUp | .msiXIntervalExpiry ..
  | .linkLevelRetry .. => none

/-- Half-word `k` of a 64-byte line, little-endian (02 R44, 00 R8). -/
def lineHalf (line : List Byte) (k : Nat) : BitVec 16 :=
  (line.getD (2 * k + 1) 0) ++ (line.getD (2 * k) 0)

/-- The little-endian number held by a list of bytes (00 R8). -/
def leNat : List Byte → Nat
  | [] => 0
  | b :: bs => b.toNat + 256 * leNat bs

/-- The `n` little-endian bytes of a number (00 R8). -/
def leBytes : Nat → Nat → List Byte
  | 0, _ => []
  | n + 1, v => BitVec.ofNat 8 v :: leBytes n (v / 256)

/-- The instruction count n of a line header; none where the header is illegal (02 R44). -/
def lineCount (line : List Byte) : Option Nat :=
  let h := lineHalf line 0
  let n := (h.extractLsb' 11 5).toNat
  if n = 0 ∨ h.extractLsb' 0 11 ≠ 0 then none else some n

/-- S_k: the bytes of the tails of heads 1 to k (02 R47). -/
def tailSum (line : List Byte) : Nat → Nat
  | 0 => 0
  | k + 1 => tailSum line k + tailBytes ((lineHalf line (k + 1)).extractLsb' 14 2)

/-- The line is well formed: a legal header, and heads and tails that do not meet (02 R44, R47). -/
def lineOk (line : List Byte) : Option Nat :=
  match lineCount line with
  | none => none
  | some n => if 2 * (n + 1) ≤ 64 - tailSum line n ∧ tailSum line n ≤ 64 then some n else none

/-- The tail bits of instruction `k` of a line (02 R47). -/
def lineTail (line : List Byte) (k : Nat) : BitVec 64 :=
  let sz := tailBytes ((lineHalf line k).extractLsb' 14 2)
  BitVec.ofNat 64 (leNat ((line.drop (64 - tailSum line k)).take sz))

/-- Decodes instruction `k` of a line (02 R48, R50). -/
def decodeAt (line : List Byte) (k : Nat) : Except DecodeError Instr :=
  decode (lineHalf line k) (lineTail line k)

/-- Replaces the bytes of `line` from `at_` on by `bs`. -/
def patchBytes (line : List Byte) (at_ : Nat) (bs : List Byte) : List Byte :=
  (line.take at_ ++ bs ++ line.drop (at_ + bs.length)).take line.length

/-- A line that holds one instruction: header n = 1, its head, its tail at the end, zeros between (02 R44, R47). -/
def lineOfWord (head : BitVec 16) (tail : Nat) : List Byte :=
  let sz := tailBytes (head.extractLsb' 14 2)
  leBytes 2 0x0800 ++ leBytes 2 head.toNat ++ leBytes (60 - sz) 0 ++ leBytes sz tail

/-- The head and tail of an instruction numbered as the opcode table numbers its bits: the head stands above its
tail, and `nbits` is 16, 32, 48 or 80. -/
def splitTableWord (nbits w : Nat) : BitVec 16 × Nat :=
  let t := nbits - 16
  (BitVec.ofNat 16 (w / 2 ^ t), w % 2 ^ t)

/-- The instruction the decoder reads from a word numbered as the opcode table numbers it: the word is laid out as a
line of one instruction and that line's instruction 1 is decoded. -/
def decodeTableWord (nbits w : Nat) : Option Instr :=
  let (h, t) := splitTableWord nbits w
  match decodeAt (lineOfWord h t) 1 with
  | .ok i => some i
  | .error _ => none

/-- The target of a branch or jump: a line delta and an instruction index (02 R58). -/
def targetOf (pc : Word) {w : Nat} (field : BitVec w) : Word :=
  let index := field.extractLsb' 0 5
  let delta := (field.extractLsb' 5 (w - 5)).signExtend 64
  (pc &&& ~~~63#64) + (delta <<< 6) + (index.setWidth 64 <<< 1)

end Sys2Proof
end

