-- ==== Sys2Proof/Machine/Flags.lean ====
section
/-!
DEFINITION. Sys2Proof/Machine/Flags.lean: number formats, rounding, exception flags, k8 tables and the shared
generator (03). Every finite value is held exactly as ±m · 2^e; each operation rounds once, at its end.
-/
namespace Sys2Proof.Machine

/-- The six rounding modes of k.fpcsr (03 R86). -/
inductive RMode where | rne | rna | rtz | rup | rdn | sr
  deriving DecidableEq, Repr

/-- The mode of an rm field; codes 6 and 7 are reserved and never held (03 R86). -/
def RMode.ofCode (c : Nat) : RMode :=
  match c with
  | 0 => .rne
  | 1 => .rna
  | 2 => .rtz
  | 3 => .rup
  | 4 => .rdn
  | _ => .sr

/-- The five sticky flags nv dz of uf nx, in the bits [4:0] of k.fpcsr (03 R86). -/
abbrev FlagSet := BitVec 5

def flagNV : FlagSet := 16
def flagDZ : FlagSet := 8
def flagOF : FlagSet := 4
def flagUF : FlagSet := 2
def flagNX : FlagSet := 1

/-- `f` when `c` holds, else no flag. -/
def flagIf (c : Bool) (f : FlagSet) : FlagSet := if c then f else 0

/-- A floating-point layout: exponent bits and fraction bits (03 R72). -/
structure FLayout where
  eb : Nat
  fb : Nat
  deriving DecidableEq, Repr

def layF64 : FLayout := ⟨11, 52⟩
def layF32 : FLayout := ⟨8, 23⟩
def layBF16 : FLayout := ⟨8, 7⟩
def layF16 : FLayout := ⟨5, 10⟩
/-- The internal format e8m10 (03 R78). -/
def layE8M10 : FLayout := ⟨8, 10⟩

namespace FLayout
/-- 2^(eb−1) − 1 (03 R72). -/
def bias (l : FLayout) : Nat := 2 ^ (l.eb - 1) - 1
/-- Bits of an encoding. -/
def width (l : FLayout) : Nat := 1 + l.eb + l.fb
/-- The encoding of +∞ (03 R74). -/
def infBits (l : FLayout) : Nat := (2 ^ l.eb - 1) * 2 ^ l.fb
/-- The canonical NaN, sign 0 (03 R74, R75). -/
def nanBits (l : FLayout) : Nat := l.infBits + 2 ^ (l.fb - 1)
/-- The sign bit's weight. -/
def signBit (l : FLayout) : Nat := 2 ^ (l.eb + l.fb)
end FLayout

/-- A floating-point datum: a NaN, an infinity, or exactly ±m · 2^e (zero has m = 0). -/
inductive FVal where
  | nan (signalling : Bool)
  | inf (neg : Bool)
  | fin (neg : Bool) (m : Nat) (e : Int)
  deriving DecidableEq, Repr

/-- Reads an encoding (03 R73). -/
def fpRead (l : FLayout) (bits : Nat) : FVal :=
  let f := bits % 2 ^ l.fb
  let x := bits / 2 ^ l.fb % 2 ^ l.eb
  let neg := decide (bits / 2 ^ (l.eb + l.fb) % 2 = 1)
  if x = 2 ^ l.eb - 1 then
    if f = 0 then .inf neg else .nan (decide (f < 2 ^ (l.fb - 1)))
  else if x = 0 then .fin neg f (1 - (l.bias : Int) - l.fb)
  else .fin neg (2 ^ l.fb + f) ((x : Int) - l.bias - l.fb)

/-- A result's bits with the flags it raises. -/
structure FRes where
  bits : Nat
  flags : FlagSet
  deriving DecidableEq, Repr

/-- Whether the rounding of a value between two neighbours takes the upper one in magnitude (03 R87): the value lies
`rem / den` of the way from lo to hi, a little above when `sticky`; `odd` is lo's least significant bit, `u` the draw. -/
def pickHi (mode : RMode) (neg odd : Bool) (rem den : Nat) (sticky : Bool) (u : Nat) : Bool :=
  if rem = 0 ∧ sticky = false then false
  else match mode with
    | .rne => decide (2 * rem > den) || (decide (2 * rem = den) && (sticky || odd))
    | .rna => decide (2 * rem ≥ den)
    | .rtz => false
    | .rup => !neg
    | .rdn => neg
    | .sr => decide (u < 2 ^ 32 * rem / den)

/-- The significand of m · 2^e (a little above when `sticky`) in units of 2^q, rounded, and whether it was inexact. -/
def roundTo (mode : RMode) (u : Nat) (neg : Bool) (m : Nat) (e : Int) (sticky : Bool) (q : Int) : Nat × Bool :=
  let up := (e - q).toNat
  let dn := (q - e).toNat
  let den := 2 ^ dn
  let lo := m * 2 ^ up / den
  let rem := m * 2 ^ up % den
  let hi := pickHi mode neg (decide (lo % 2 = 1)) rem den sticky u
  (if hi then lo + 1 else lo, decide (rem ≠ 0) || sticky)

/-- Rounds ±m · 2^e into a layout, with overflow, underflow (tininess after rounding) and inexact (03 R87, R88, R91). -/
def fpRound (l : FLayout) (mode : RMode) (u : Nat) (neg : Bool) (m : Nat) (e : Int) (sticky : Bool) : FRes :=
  let s := if neg then l.signBit else 0
  if m = 0 then ⟨s, 0⟩
  else
    let top : Int := (Nat.log2 m : Int) + e
    let emin : Int := 1 - (l.bias : Int)
    let emax : Int := l.bias
    if top > emax then
      let toInf := match mode with
        | .rne | .rna | .sr => true
        | .rtz => false
        | .rup => !neg
        | .rdn => neg
      ⟨s + (if toInf then l.infBits else l.infBits - 1), flagOF ||| flagNX⟩
    else
      let q : Int := (if top < emin then emin else top) - l.fb
      let (r, inexact) := roundTo mode u neg m e sticky q
      -- r counts units of 2^q: below 2^fb it is subnormal, and r = 2^(fb+1) carries into the next exponent.
      let base : Nat := if top < emin then 0 else ((top - emin).toNat) * 2 ^ l.fb
      let bits := base + r
      let ovr := decide (bits ≥ l.infBits)
      let tiny := decide (top < emin) &&
        decide ((roundTo mode u neg m e sticky (top - l.fb)).1 < 2 ^ (l.fb + 1) ∨ top < emin - 1)
      ⟨s + bits, flagIf ovr flagOF ||| flagIf (inexact && tiny) flagUF ||| flagIf inexact flagNX⟩

/-- A datum rounded into a layout; a NaN gives the canonical NaN, NV if it was signalling (03 R75). -/
def fpWrite (l : FLayout) (mode : RMode) (u : Nat) : FVal → FRes
  | .nan sig => ⟨l.nanBits, flagIf sig flagNV⟩
  | .inf neg => ⟨(if neg then l.signBit else 0) + l.infBits, 0⟩
  | .fin neg m e => fpRound l mode u neg m e false

namespace FVal
/-- Sign, of infinities and finite values. -/
def sign : FVal → Bool
  | .nan _ => false
  | .inf n => n
  | .fin n _ _ => n

def isNan : FVal → Bool
  | .nan _ => true
  | _ => false

def isSig : FVal → Bool
  | .nan s => s
  | _ => false

def isZero : FVal → Bool
  | .fin _ m _ => decide (m = 0)
  | _ => false

def isInf : FVal → Bool
  | .inf _ => true
  | _ => false

/-- The sign inverted. -/
def neg : FVal → FVal
  | .nan s => .nan s
  | .inf n => .inf (!n)
  | .fin n m e => .fin (!n) m e
end FVal

/-- The exact product; 0 × ∞ is a NaN with NV (03 R91). -/
def fpProduct (x y : FVal) : FVal × FlagSet :=
  let sg := x.sign != y.sign
  if x.isNan || y.isNan then
    -- 0 × ∞ cannot occur here; a signalling operand raises NV (03 R75).
    (.nan false, flagIf (x.isSig || y.isSig) flagNV)
  else match x, y with
    | .fin _ m e, .fin _ m' e' => (.fin sg (m * m') (e + e'), 0)
    | _, _ => if x.isZero || y.isZero then (.nan false, flagNV) else (.inf sg, 0)

/-- The least exponent among finite terms, or `e0`. -/
def minExp (e0 : Int) : List FVal → Int
  | [] => e0
  | .fin _ _ e :: ts => minExp (if e < e0 then e else e0) ts
  | _ :: ts => minExp e0 ts

/-- The sum of the finite terms in units of 2^q, for q at or below every exponent. -/
def sumAt (q : Int) : List FVal → Int
  | [] => 0
  | .fin n m e :: ts => (if n then -(m * 2 ^ (e - q).toNat : Int) else (m * 2 ^ (e - q).toNat : Int)) + sumAt q ts
  | _ :: ts => sumAt q ts

/-- The exact sum of terms: NaN, ∞ − ∞ with NV, and the sign of an exact zero (03 R91, R97, R476). -/
def fpSum (mode : RMode) (ts : List FVal) : FVal × FlagSet :=
  let nv := flagIf (ts.any FVal.isSig) flagNV
  if ts.any FVal.isNan then (.nan false, nv)
  else
    let pos := ts.any (fun t => t.isInf && !t.sign)
    let neg := ts.any (fun t => t.isInf && t.sign)
    if pos && neg then (.nan false, flagNV)
    else if pos then (.inf false, 0)
    else if neg then (.inf true, 0)
    else
      let q := minExp 0 ts
      let v := sumAt q ts
      if v = 0 then
        let allNeg := ts.all (fun t => t.isZero && t.sign)
        let allPos := ts.all (fun t => t.isZero && !t.sign)
        (.fin (allNeg || (!allPos && mode == .rdn)) 0 0, 0)
      else (.fin (decide (v < 0)) v.natAbs q, 0)

/-- Adds flags to a result. -/
def FRes.orFlags (r : FRes) (f : FlagSet) : FRes := ⟨r.bits, r.flags ||| f⟩

/-- The sum of terms rounded once into a layout. -/
def fpSumRound (l : FLayout) (mode : RMode) (u : Nat) (ts : List FVal) (f : FlagSet) : FRes :=
  let (v, g) := fpSum mode ts
  (fpWrite l mode u v).orFlags (f ||| g)

/-- x + y (04 R125, 12 R323). -/
def fpAdd (l : FLayout) (mode : RMode) (u : Nat) (x y : FVal) : FRes := fpSumRound l mode u [x, y] 0

/-- x × y. -/
def fpMul (l : FLayout) (mode : RMode) (u : Nat) (x y : FVal) : FRes :=
  let (p, f) := fpProduct x y
  (fpWrite l mode u p).orFlags f

/-- x × y + z, exact, rounded once; 0 × ∞ raises NV even beside a quiet NaN (04 R126). -/
def fpFma (l : FLayout) (mode : RMode) (u : Nat) (x y z : FVal) : FRes :=
  let (p, f) := fpProduct x y
  fpSumRound l mode u [p, z] f

/-- x ÷ y: 0/0 and ∞/∞ raise NV, a finite nonzero x over zero raises DZ (03 R91). The quotient is taken to more than
96 bits with a sticky remainder, enough for every layout and for the threshold of SR. -/
def fpDiv (l : FLayout) (mode : RMode) (u : Nat) (x y : FVal) : FRes :=
  let sg := x.sign != y.sign
  let s := if sg then l.signBit else 0
  match x, y with
  | .nan a, _ => ⟨l.nanBits, flagIf (a || y.isSig) flagNV⟩
  | .inf _, .nan b => ⟨l.nanBits, flagIf b flagNV⟩
  | .fin .., .nan b => ⟨l.nanBits, flagIf b flagNV⟩
  | .inf _, .inf _ => ⟨l.nanBits, flagNV⟩
  | .inf _, .fin .. => ⟨s + l.infBits, 0⟩
  | .fin .., .inf _ => ⟨s, 0⟩
  | .fin _ m e, .fin _ m' e' =>
    if m' = 0 then (if m = 0 then ⟨l.nanBits, flagNV⟩ else ⟨s + l.infBits, flagDZ⟩)
    else if m = 0 then ⟨s, 0⟩
    else
      let sh := 100 + Nat.log2 m' - Nat.log2 m
      let q := m * 2 ^ sh / m'
      fpRound l mode u sg q (e - e' - sh) (decide (m * 2 ^ sh % m' ≠ 0))

/-- The greatest r below 2^k, on top of `r`, whose square is at most n. -/
def isqrtFrom (n : Nat) : Nat → Nat → Nat
  | 0, r => r
  | k + 1, r => isqrtFrom n k (if (r + 2 ^ k) * (r + 2 ^ k) ≤ n then r + 2 ^ k else r)

/-- √x: √−0 = −0, a value below −0 raises NV (04 R125). -/
def fpSqrt (l : FLayout) (mode : RMode) (u : Nat) : FVal → FRes
  | .nan s => ⟨l.nanBits, flagIf s flagNV⟩
  | .inf true => ⟨l.nanBits, flagNV⟩
  | .inf false => ⟨l.infBits, 0⟩
  | .fin neg m e =>
    if m = 0 then ⟨if neg then l.signBit else 0, 0⟩
    else if neg then ⟨l.nanBits, flagNV⟩
    else
      -- scaled to an even exponent and a significand of at least 2^200, so that the root has over 96 bits
      let sh := (200 - Nat.log2 m) + (if (e - (200 - Nat.log2 m : Nat)) % 2 = 0 then 0 else 1)
      let n := m * 2 ^ sh
      let r := isqrtFrom n (Nat.log2 n / 2 + 1) 0
      fpRound l mode u false r ((e - sh) / 2) (decide (r * r ≠ n))

/-- Compares two values that are no NaN, −0 equal to +0: −1, 0 or 1 (03 R76). -/
def fpCompare (x y : FVal) : Int :=
  match x, y with
  | .inf a, .inf b => if a = b then 0 else if a then -1 else 1
  | .inf a, _ => if a then -1 else 1
  | _, .inf b => if b then 1 else -1
  | .fin n m e, .fin n' m' e' =>
    let q := if e < e' then e else e'
    let v := sumAt q [.fin n m e]
    let w := sumAt q [.fin n' m' e']
    if v < w then -1 else if v = w then 0 else 1
  | _, _ => 0

/-- x is below y in the order of the minimum and maximum operations, −0 below +0 (03 R76). -/
def fpBelow (x y : FVal) : Bool :=
  decide (fpCompare x y < 0) || (decide (fpCompare x y = 0) && x.sign && !y.sign)

/-- The bits of the minimum or maximum of two operands (03 R76). -/
def fpMinMax (l : FLayout) (max : Bool) (a b : Nat) : FRes :=
  let x := fpRead l a
  let y := fpRead l b
  let nv := flagIf (x.isSig || y.isSig) flagNV
  if x.isNan && y.isNan then ⟨l.nanBits, nv⟩
  else if x.isNan then ⟨b, nv⟩
  else if y.isNan then ⟨a, nv⟩
  else if fpBelow x y then ⟨if max then b else a, nv⟩ else ⟨if max then a else b, nv⟩

/-- Equal, by IEEE 754; NV only on a signalling NaN (03 R76). -/
def fpEq (x y : FVal) : Bool × FlagSet :=
  if x.isNan || y.isNan then (false, flagIf (x.isSig || y.isSig) flagNV) else (decide (fpCompare x y = 0), 0)

/-- Less, by IEEE 754; NV on any NaN (03 R76). -/
def fpLt (x y : FVal) : Bool × FlagSet :=
  if x.isNan || y.isNan then (false, flagNV) else (decide (fpCompare x y < 0), 0)

/-- Less or equal, by IEEE 754; NV on any NaN (03 R76). -/
def fpLe (x y : FVal) : Bool × FlagSet :=
  if x.isNan || y.isNan then (false, flagNV) else (decide (fpCompare x y ≤ 0), 0)

/-- The mask of `fclass` (04 R125). -/
def fpClass (l : FLayout) (bits : Nat) : Nat :=
  match fpRead l bits with
  | .nan true => 2 ^ 8
  | .nan false => 2 ^ 9
  | .inf true => 2 ^ 0
  | .inf false => 2 ^ 7
  | .fin neg m _ =>
    let normal := decide (bits / 2 ^ l.fb % 2 ^ l.eb ≠ 0)
    if m = 0 then (if neg then 2 ^ 3 else 2 ^ 4)
    else if normal then (if neg then 2 ^ 1 else 2 ^ 6)
    else (if neg then 2 ^ 2 else 2 ^ 5)

/-- The bits of an integer format and its signedness (03 R72). -/
def Fmt.intInfo : Fmt → Nat × Bool
  | .i8 => (8, true)
  | .i32 => (32, true)
  | .i64 => (64, true)
  | .i8z => (8, false)
  | .i32z => (32, false)
  | .i64z => (64, false)
  | .f64 | .f32 | .bf16 | .f16 | .k8 => (0, false)

/-- The least value of an integer format. -/
def intMin (w : Nat) (signed : Bool) : Int := if signed then -(2 ^ (w - 1) : Int) else 0
/-- The greatest value of an integer format. -/
def intMax (w : Nat) (signed : Bool) : Int := if signed then 2 ^ (w - 1) - 1 else 2 ^ w - 1

/-- The value of the low `w` bits of a number, signed or unsigned (03 R77). -/
def intRead (w : Nat) (signed : Bool) (bits : Nat) : Int :=
  let v := bits % 2 ^ w
  if signed && decide (v ≥ 2 ^ (w - 1)) then (v : Int) - 2 ^ w else v

/-- The low `w` bits of an integer (03 R77). -/
def intBits (w : Nat) (v : Int) : Nat := (v % (2 ^ w : Int)).toNat

/-- Floating point to integer: NaN gives 0 with NV, a value out of range the nearest end with NV (03 R89). -/
def fpToInt (w : Nat) (signed : Bool) (mode : RMode) (u : Nat) : FVal → FRes
  | .nan _ => ⟨0, flagNV⟩
  | .inf neg => ⟨intBits w (if neg then intMin w signed else intMax w signed), flagNV⟩
  | .fin neg m e =>
    let (r, inexact) := roundTo mode u neg m e false 0
    let v : Int := if neg then -(r : Int) else r
    if v < intMin w signed then ⟨intBits w (intMin w signed), flagNV⟩
    else if v > intMax w signed then ⟨intBits w (intMax w signed), flagNV⟩
    else ⟨intBits w v, flagIf inexact flagNX⟩

/-- An integer as an exact datum. -/
def fvalOfInt (v : Int) : FVal := .fin (decide (v < 0)) v.natAbs 0

/-- An integer to another integer format, saturating (03 R90). -/
def intConvert (w : Nat) (signed : Bool) (v : Int) : Nat :=
  intBits w (if v < intMin w signed then intMin w signed else if v > intMax w signed then intMax w signed else v)

/-! ### k8 tables -/

/-- A core's k8 decode table (03 R79): 128 magnitudes in e8m10, the header fields and the encodable flag. -/
structure K8Table where
  entries : List Nat
  sat : Bool
  nanV : Bool
  nanIdx : Nat
  infV : Bool
  infIdx : Nat
  encodable : Bool
  deriving DecidableEq, Repr

/-- The magnitude of index `i`, sign bit ignored (03 R79). -/
def K8Table.magBits (t : K8Table) (i : Nat) : Nat := t.entries.getD i 0 % 2 ^ 18

/-- Decodes a code to a datum (03 R80). -/
def K8Table.decode (t : K8Table) (c : Nat) : FVal :=
  let s := decide (c / 128 % 2 = 1)
  let i := c % 128
  if t.nanV && decide (i ≥ t.nanIdx) then .nan false
  else if t.infV && decide (i = t.infIdx) then .inf s
  else match fpRead layE8M10 (t.magBits i) with
    | .nan _ => .nan false
    | .inf _ => .inf s
    | .fin _ m e => .fin s m e

/-- The magnitude of a finite index in units of 2^−136, the least subnormal of e8m10 (03 R74). -/
def K8Table.mag (t : K8Table) (i : Nat) : Nat :=
  match fpRead layE8M10 (t.magBits i) with
  | .fin _ m e => m * 2 ^ (e + 136).toNat
  | _ => 0

/-- The index bound `top` of 03 R81. -/
def K8Table.top (t : K8Table) : Nat := if t.nanV then t.nanIdx else 128
/-- One more than L of 03 R81: the number of finite indices; 0 when there are none. -/
def K8Table.count (t : K8Table) : Nat := if t.infV then t.top - 1 else t.top

/-- The five conditions of 03 R81. -/
def K8Table.canEncode (t : K8Table) : Bool :=
  (!t.infV || decide (t.infIdx + 1 = t.top)) &&
  decide (t.count ≥ 1) &&
  decide (t.magBits 0 = 0) &&
  (List.range t.count).all (fun i => decide (t.magBits i / 2 ^ 10 ≠ 255)) &&
  (List.range (t.count - 1)).all (fun i => decide (t.magBits i ≤ t.magBits (i + 1)))

/-- code_of: the least finite index of magnitude `v`, from `i` on (03 R82). -/
def K8Table.codeFrom (t : K8Table) (v : Nat) : Nat → Nat → Nat
  | 0, i => i
  | n + 1, i => if t.mag i = v then i else t.codeFrom v n (i + 1)

/-- code_of (03 R82). -/
def K8Table.codeOf (t : K8Table) (v : Nat) : Nat := t.codeFrom v (t.count - 1) 0

/-- Compares m · 2^e with `v` units of 2^−136: −1, 0 or 1. -/
def cmpUnits (m : Nat) (e : Int) (v : Nat) : Int := fpCompare (.fin false m e) (.fin false v (-136))

/-- Conversion to k8 from an exact value (03 R82); the caller has seen that the table is encodable. -/
def K8Table.encode (t : K8Table) (mode : RMode) (u : Nat) (x : FVal) : FRes :=
  let mx := t.mag (t.count - 1)
  match x with
  | .nan sig =>
    if t.nanV then ⟨t.nanIdx, flagIf sig flagNV⟩ else ⟨0, flagNV⟩
  | .inf neg =>
    let s := if neg then 128 else 0
    if t.infV then ⟨s + t.infIdx, 0⟩
    else if t.sat || !t.nanV then ⟨s + t.codeOf mx, flagNV⟩
    else ⟨t.nanIdx, flagNV⟩
  | .fin neg m e =>
    let s := if neg then 128 else 0
    if m = 0 then ⟨s + t.codeOf 0, 0⟩
    else if cmpUnits m e mx > 0 then
      let p := (List.range t.count).foldl (fun acc i => if t.mag i < mx ∧ (t.mag i > acc ∨ acc = mx) then t.mag i else acc) mx
      let toward0 := match mode with
        | .rtz => true
        | .rdn => !neg
        | .rup => neg
        | .rne | .rna | .sr => false
      let nearest := match mode with
        | .rne | .rna | .sr => true
        | .rtz | .rup | .rdn => false
      -- a ≥ T, that is 2a ≥ 3M − P
      let atT := decide (cmpUnits m (e + 1) (3 * mx - p) ≥ 0)
      let f := flagNX ||| flagIf atT flagOF
      if t.sat || toward0 || (nearest && !atT) then ⟨s + t.codeOf mx, f⟩
      else if t.infV then ⟨s + t.infIdx, f ||| flagOF⟩
      else if t.nanV then ⟨t.nanIdx, f ||| flagOF⟩
      else ⟨s + t.codeOf mx, f ||| flagOF⟩
    else
      let idx := List.range t.count
      let lo := idx.foldl (fun acc i => if cmpUnits m e (t.mag i) ≥ 0 ∧ t.mag i > acc then t.mag i else acc) 0
      if cmpUnits m e lo = 0 then ⟨s + t.codeOf lo, 0⟩
      else
        let hi := idx.foldl (fun acc i => if cmpUnits m e (t.mag i) ≤ 0 ∧ t.mag i < acc then t.mag i else acc) mx
        let q := if e < -136 then e else -136
        let k := 2 ^ ((-136 : Int) - q).toNat
        let rem := m * 2 ^ (e - q).toNat - lo * k
        let den := (hi - lo) * k
        -- RNE on a tie: the neighbour whose code is even, lo if both are alike
        let odd := decide (t.codeOf lo % 2 = 1 ∧ t.codeOf hi % 2 = 0)
        let pick := if pickHi mode neg odd rem den false u then hi else lo
        ⟨s + t.codeOf pick, flagNX ||| flagIf (decide (pick = 0)) flagUF⟩

/-- An e8m10 magnitude from an exponent of two and a significand m / 2^f, by the preset formulas of 03 R84. -/
def e8m10Of (m : Nat) (e : Int) : Nat := (fpRound layE8M10 .rtz 0 false m e false).bits

/-- The magnitude of code `i` of a preset with fraction width `f` and exponent offset: e = 0 gives m · 2^sub, otherwise
2^(e − b) · (1 + m / 2^f) (03 R84). -/
def presetEntry (f : Nat) (sub b : Int) (i : Nat) : Nat :=
  let e := i / 2 ^ f
  let m := i % 2 ^ f
  if e = 0 then e8m10Of m sub else e8m10Of (2 ^ f + m) ((e : Int) - b - f)

/-- Preset 1, E4M3 (03 R84). -/
def presetE4M3 : K8Table :=
  ⟨(List.range 128).map (presetEntry 3 (-9) 7), true, true, 0x7f, false, 0, true⟩
/-- Preset 2, E5M2 (03 R84). -/
def presetE5M2 : K8Table :=
  ⟨(List.range 128).map (presetEntry 2 (-16) 15), false, true, 0x7d, true, 0x7c, true⟩
/-- Preset 3, E2M1 in 8 (03 R84): codes above 7 hold 6.0. -/
def presetE2M1 : K8Table :=
  ⟨(List.range 128).map (fun i => if i ≤ 7 then presetEntry 1 (-1) 1 i else e8m10Of 3 1), true, false, 0, false, 0, true⟩

/-- A table from its 528-byte image, its encodable flag set by R81 (03 R79, R81). -/
def tableOfImage (bs : List Byte) : K8Table :=
  let h := leNat (bs.take 16)
  let t : K8Table :=
    { entries := (List.range 128).map (fun i => leNat ((bs.drop (16 + 4 * i)).take 4) % 2 ^ 18)
      sat := decide (h / 2 ^ 16 % 2 = 1), nanV := decide (h / 2 ^ 15 % 2 = 1), nanIdx := h / 2 ^ 8 % 128
      infV := decide (h / 2 ^ 7 % 2 = 1), infIdx := h % 128, encodable := false }
  { t with encodable := t.canEncode }

/-! ### The shared generator (03 R94 to R96) -/

/-- mix64 (03 R94). -/
def mix64 (v : Word) : Word :=
  let v := v ^^^ (v >>> 31)
  let v := v * 0xF1D27A0B8C39E465
  let v := v ^^^ (v >>> 27)
  let v := v * 0x6C8E3F1BD5A74923
  v ^^^ (v >>> 33)

/-- gen (03 R94). -/
def gen (seed : Word) (lcore : BitVec 20) (ctr : Word) : Word :=
  let key := mix64 (seed ^^^ (lcore.setWidth 64 * 0xA3B195C72E4D6F09))
  mix64 ((key + ctr * 0x6C8E3F1BD5A74923) ^^^ 0xF1D27A0B8C39E465)

/-- A draw: bits [63:32] of gen (03 R94). -/
def drawOf (seed : Word) (lcore : BitVec 20) (ctr : Word) : Nat := (gen seed lcore ctr).toNat / 2 ^ 32

/-- The counter of a stochastic-rounding draw: the slot and the draw number n (03 R96). -/
def srCounter (slot : Nat) (n : Nat) : Word := BitVec.ofNat 64 (slot % 256 * 2 ^ 48 + n % 2 ^ 48)

/-- The counter of a dropout draw (03 R95). -/
def dropCounter (step row col : Nat) : Word :=
  BitVec.ofNat 64 (2 ^ 63 + step % 2 ^ 31 * 2 ^ 32 + row % 2 ^ 16 * 2 ^ 16 + col % 2 ^ 16)

/-! ### Conversions between any two formats -/

/-- The layout of a floating-point format; `none` for k8 and the integers (03 R72). -/
def Fmt.layout : Fmt → Option FLayout
  | .f64 => some layF64
  | .f32 => some layF32
  | .bf16 => some layBF16
  | .f16 => some layF16
  | .k8 | .i8 | .i32 | .i64 | .i8z | .i32z | .i64z => none

/-- Bytes of an element (12 R319; FP64 has eight). -/
def Fmt.bytes : Fmt → Nat
  | .k8 | .i8 | .i8z => 1
  | .bf16 | .f16 => 2
  | .f32 | .i32 | .i32z => 4
  | .f64 | .i64 | .i64z => 8

/-- Bits of an element. -/
def Fmt.bits (f : Fmt) : Nat := 8 * Fmt.bytes f

/-- The datum an element's bits stand for, integers as exact values (03 R73, R77, R80). -/
def fmtRead (t : K8Table) (f : Fmt) (bits : Nat) : FVal :=
  match Fmt.layout f with
  | some l => fpRead l bits
  | none => if f = .k8 then t.decode bits else fvalOfInt (intRead (Fmt.bits f) (Fmt.intInfo f).2 bits)

/-- Converts a datum to a format (03 R87 to R90, R82). An unencodable table's k8 result is 0 with no flag. -/
def fmtWrite (t : K8Table) (f : Fmt) (mode : RMode) (u : Nat) (x : FVal) : FRes :=
  match Fmt.layout f with
  | some l => fpWrite l mode u x
  | none =>
    if f = .k8 then (if t.encodable then t.encode mode u x else ⟨0, 0⟩)
    else fpToInt (Fmt.bits f) (Fmt.intInfo f).2 mode u x

/-- Converts an element from one format to another; between two integer formats it saturates without a flag (R90). -/
def fmtConvert (t : K8Table) (toF fr : Fmt) (mode : RMode) (u : Nat) (bits : Nat) : FRes :=
  if toF.isInt && fr.isInt then
    ⟨intConvert (Fmt.bits toF) (Fmt.intInfo toF).2 (intRead (Fmt.bits fr) (Fmt.intInfo fr).2 bits), 0⟩
  else fmtWrite t toF mode u (fmtRead t fr bits)

/-- One group of an accumulator element's update: acc + Σ A·B·2^scale, one RNE rounding (03 R97). -/
def mmaGroup (acc : Nat) (ps : List (FVal × FVal)) (scale : Int) : FRes :=
  let prods := ps.map (fun (x, y) => fpProduct x y)
  let scaled := prods.map (fun (p, _) => match p with
    | .fin n m e => FVal.fin n m (e + scale)
    | v => v)
  -- infinities of both signs meet in the group's own sum, whatever the accumulator holds
  let meet := prods.any (fun (p, _) => p.isInf && !p.sign) && prods.any (fun (p, _) => p.isInf && p.sign)
  let f := prods.foldl (fun g (_, h) => g ||| h) (flagIf meet flagNV)
  fpSumRound layF32 .rne 0 (fpRead layF32 acc :: scaled) f

end Sys2Proof.Machine
end

