-- ==== Sys2Proof/Machine/State.lean ====
section
/-!
DEFINITION. Sys2Proof/Machine/State.lean: everything the spec gives the module to hold, as plain data (01 R13), the
model's own bookkeeping (marked MODEL), the reasons a step can stop, and the state after reset.
Sparse collections are association lists by rising number; a core, cluster, ring, quad or die that is not listed
holds its reset value.
-/
namespace Sys2Proof.Machine

/-- A collection indexed by number, keys rising, no key twice. -/
abbrev Table (α : Type) := List (Nat × α)

/-- Memory: bytes by flat address, in the canonical form `Memory.wf` (Machine/Ops.lean). -/
abbrev Memory := List Host.Cell

/-- A register: 128 bits and a tag (04 R100). -/
structure Reg where
  bits : Quad
  tag : Bool
  deriving DecidableEq, Repr

/-- The register or memory quad of all zeros, untagged. -/
def Reg.zero : Reg := ⟨0, false⟩

/-! ## Threads -/

/-- The thread states of 05 R135. -/
inductive TState where | free | ready | running | sleeping | faulted | stopped | orphaned | exited
  deriving DecidableEq, Repr

/-- The four tiers of 05 R138. -/
inductive Tier where | resident | warm | parked | stowed
  deriving DecidableEq, Repr

/-- The access kinds of a fault record, codes 0 to 7 (05 R162). -/
inductive AKind where | none | load | store | atomic | fetch | command | cell | watch
  deriving DecidableEq, Repr

/-- A store-fault queue entry (05 R134); `order` is the store's place in program order. -/
structure SfEntry where
  order : Nat
  addr : Word
  data : Quad
  tag : Bool
  width : Nat
  cause : Byte
  hid : Nat
  depth : Nat
  deriving DecidableEq, Repr

/-- A watch slot of a thread (05 R133). -/
structure WatchSlot where
  armed : Bool
  line : Nat
  seq : Word
  deriving DecidableEq, Repr

/-- A reservation taken by `lres` (07 R201, R202): the address and width; the unit it watches, `len` bytes from `start`,
a virtual address of the partition when `glob` and a flat address otherwise; the view; the cycle the hold ends. -/
structure Resv where
  addr : Word
  width : Nat
  part : Nat
  glob : Bool
  start : Nat
  len : Nat
  hid : Nat
  holdEnd : Nat
  deriving DecidableEq, Repr

/-- A reservation that a thread of another module holds on a unit of this one (07 R201, R202; 18 R460, R462). -/
structure PeerResv where
  chip : Nat
  tid : Nat
  resv : Resv
  deriving DecidableEq, Repr

/-- The 64 bytes of the line a thread executes, with its address (02 R51). -/
structure LineCopy where
  base : Word
  bytes : List Byte
  deriving DecidableEq, Repr

/-- What a later precise fault or a stop restores: the registers, pcc, control word and line at a boundary (04 R117). MODEL. -/
structure Checkpoint where
  regs : List Reg
  pcc : Reg
  fpcsr : Word
  line : Option LineCopy
  deriving DecidableEq, Repr

/-- A load or atomic that has issued and not retired (04 R116): its request, destination, program-order number,
whether its data has arrived or its fault (with address and kind) is known, and the boundary before it. -/
structure Unretired where
  req : Nat
  d : RegNo
  order : Nat
  arrived : Bool
  fault : Option Byte
  before : Checkpoint
  deriving DecidableEq, Repr

/-- A store neither acknowledged nor faulted (07 R195): its request, program-order number, instructions issued since. -/
structure StoreOut where
  req : Nat
  order : Nat
  after : Nat
  deriving DecidableEq, Repr

/-- What the oldest instruction of a thread waits for before it retires. -/
inductive Wait where
  | none
  | drain
  | fenceRs
  | exit
  | sleep
  | warm (req : Nat) (d : RegNo) (slot : Nat)
  | wdis (slot req : Nat)
  | queue
  | sync
  | waitge (req : Nat) (asleep : Bool)
  | access
  | vmu (d : Option RegNo)
  deriving DecidableEq, Repr

/-- A precise fault, or the stop for queued store faults, whose record is not written yet (05 R161). -/
structure PendingFault where
  cause : Byte
  addr : Word
  kind : AKind
  size : Nat
  head : BitVec 16
  pc : Word
  cycle : Nat
  target : TState
  deriving DecidableEq, Repr

/-- A stop asked by an agent command that has not reached its end (05 R150, R160). -/
inductive StopAsk where
  | none
  | stop
  | stow
  deriving DecidableEq, Repr

/-- The failure latch of a thread slot (12 R329), with the number of vector operations since the last `v.sync`. -/
structure Latch where
  code : Nat
  cause : Byte
  element : Nat
  ordinal : Nat
  issued : Nat
  deriving DecidableEq, Repr

/-- A thread: the context block's contents (05 R132), the state word (R135), and what the core's engines keep for it;
`unionPend`: the flags that instructions not yet retired have raised, with their program-order numbers (03 R93); `life`: a
number that no other life of the slot has (05 R137; MODEL). -/
structure Thread where
  state : TState
  tier : Tier
  part : Nat
  load : Nat
  parentChip : Nat
  parentTid : Nat
  regs : List Reg
  pcc : Reg
  line : Option LineCopy
  lcore : BitVec 20
  seed : Word
  life : Nat
  hid : Nat
  depth : Nat
  fpcsr : Word
  faultrec : Word
  ctx : Word
  ctxHost : Bool
  authGen : BitVec 32
  auth : List Word
  cls : Nat
  ceil : Nat
  pend : Bool
  fired : BitVec 8
  watch : List WatchSlot
  sfq : List SfEntry
  ovf : Nat
  last : Byte
  held : Bool
  nextSeq : Word
  resv : Option Resv
  window : List Unretired
  stores : List StoreOut
  order : Nat
  wait : Wait
  fault : Option PendingFault
  ask : StopAsk
  hidden : Option Word
  hiddenFired : Bool
  unionPend : List (Nat × FlagSet)
  latch : Latch
  leaving : Bool
  justYielded : Nat
  since : Nat
  lastIssue : Nat
  deriving DecidableEq, Repr

/-! ## Accesses on their way -/

/-- What a request asks of its point of coherence (07 R192, R193, R199 to R201, R207, R211). -/
inductive ReqKind where
  | load
  | store
  | amo (kind : Nat)
  | cas (expected : Quad) (expTag : Bool)
  | lres
  | scond
  | watch (slot : Nat) (hidden : Bool)
  deriving DecidableEq, Repr

/-- Where a request is performed (07 R188): a home slice, a core of this module, the scratchpad of a cluster, another
module. -/
inductive Target where
  | home (cluster : Nat)
  | core (core : Nat)
  | scratch (cluster : Nat)
  | peer (chip : Nat)
  deriving DecidableEq, Repr

/-- How far a request has come: sent; waiting on probes or a ticket at the slice; held for a page move, a page request, an
ATS translation or version room (09 R272, R274; 17 R440; 15 R411); returned with a retry (08 R255); at the host over PCIe (17 R443); performed with
its result; or ended by a fault. -/
inductive Phase where
  | sent
  | probing
  | ticket (n : Nat)
  | migrating (since : Nat)
  | paging (page : Nat)
  | ats (page : Nat)
  | version (since : Nat)
  | retry (at_ : Nat)
  | atHost
  | done (bits : Quad) (tag : Bool) (flags : FlagSet)
  | fault (cause : Byte)
  deriving DecidableEq, Repr

/-- The states of a line in an L1; an invalid line is not listed (08 R227). -/
inductive LState where | S | F | E | M
  deriving DecidableEq, Repr

/-- An access of a thread that has left its core (07); `fill` is the state in which its reply fills the core's L1. Of one that is
performed in single-copy atomic pieces, `pos` bytes have been performed, and `got` is what they read (07 R190). -/
structure Req where
  tid : Nat
  order : Nat
  part : Nat
  kind : ReqKind
  target : Target
  addr : Word
  len : Nat
  data : Quad
  tag : Bool
  hid : Nat
  depth : Nat
  host : Bool
  unv : Bool
  ldc : Bool
  signed : Bool
  hint : Hint
  scope : Scope
  acq : Bool
  rel : Bool
  counted : Bool
  sentAt : Nat
  fill : Option LState
  pos : Nat
  got : Quad
  phase : Phase
  deriving DecidableEq, Repr

/-- A completion cell an engine will write (01 R33): its address and the HOST and UNV bits that travel with it. -/
structure CellRef where
  addr : Word
  host : Bool
  unv : Bool
  deriving DecidableEq, Repr

/-- What commands are applied in order behind, one at a time, each with its cell written before the next: the target of an agent
command (its kind, chip and number, 05 R148), a launch queue (06 R171), a core's copy engine (10 R293), a ring (14 R373), a
partition's hypothesis keeper (15 R395); `open_` for none. -/
inductive Lane where
  | open_
  | target (kind chip num : Nat)
  | queue (part : Nat) (addr : Word)
  | copies (tid : Nat)
  | ring (group : Nat)
  | comb (cluster : Nat) (tree : Bool) (num : Nat)
  | keeper (part : Nat)
  deriving DecidableEq, Repr

/-- What every command carries: its issuer and that thread's life, partition, load, hypothesis, core and cell (01 R31,
R41), and the order it is applied in. `pos` is how far its engine has come with it (09 R280, R282, R283; MODEL). -/
structure Cmd where
  tid : Nat
  life : Nat
  lane : Lane
  load : Nat
  part : Nat
  core : Nat
  hid : Nat
  depth : Nat
  scope : Scope
  cell : Option CellRef
  pos : Nat
  deriving DecidableEq, Repr

/-- A cell update not yet made: its status, increment and, once a write failed, the cause and which of the two writes failed
(offset 8 or 0 in the cell) (01 R35, R38). `kind` says what to do then and whose it is: 0 a thread's command; 16 the same,
unversioned; 17 a basket's cell of queue `owner`; 18 a ring's or a tree's of load `owner`; 20 no cell but the context block
of thread `owner`, held for now (05 R136); 21 the lost-packet count of queue `owner`, held for now (01 R477). `more`: what a
notice line holds behind its cell, written between the status and the count (15 R402). -/
structure CellWrite where
  cmd : Cmd
  status : Word
  inc : Nat
  failed : Option (Byte × Nat)
  kind : Nat
  owner : Nat
  more : List Byte
  deriving DecidableEq, Repr

/-- MODEL. A command that its engine has taken and whose access is held: what its instruction and its thread's registers gave
it at issue (01 R31), and the basket of its thread (06 R176). -/
structure HeldCmd where
  cmd : Cmd
  instr : Instr
  thread : Thread
  basket : Option Nat
  deriving DecidableEq, Repr

/-! ## Capability operands an engine keeps -/

/-- An operand of a command: the whole capability (cp, v, mma, mg, snd operands are capabilities, 01 R23). -/
abbrev CapReg := Reg

/-! ## The VMU -/

/-- The members of majors 0x68 to 0x6C but `v.sync` (12 R323 to R327). -/
inductive VecOp where
  | add | sub | mul | div | min | max | fma | abs | neg | sqrt | and | or | xor | shl | shr
  | ceq | clt | cle | sel | cvt | rsum | rmax | rmin | bcast | gat | sct
  deriving DecidableEq, Repr

/-- A vector operation with what it read at issue (12 R318, R322): formats, mode, what its draws depend on, element count,
operands, stream entries of source 1 and of source 2 or the index list. -/
structure VecJob where
  op : VecOp
  toF : Fmt
  fr : Fmt
  mode : RMode
  seed : Word
  lcore : BitVec 20
  draw0 : Nat
  n : Nat
  a : Reg
  b : Reg
  c : Reg
  sb : Option Nat
  sc : Option Nat
  deriving DecidableEq, Repr

/-- The multiply instructions of majors 0x70 to 0x74, and the four format pairs of presses (13 R340, 14 R362). -/
inductive MmaKind where | bf16 | f16 | k8 | i8 | k8bs
  deriving DecidableEq, Repr

/-- A matrix operation with what it read at issue (13 R341 to R350); a press carries its ring, position, place in firing
order, table index and entry (14 R363). -/
inductive MatOp where
  | mma (kind : MmaKind) (acc ta tb : Bool) (a b : Reg) (scaleA scaleB : Quad) (wait : Option CellRef) (threshold : Word)
  | mzero (acc : Bool)
  | mld (acc : Bool) (a : Reg)
  | mst (acc : Bool) (a : Reg)
  | mrd (acc : Bool) (d : RegNo) (e : Nat)
  | mdrain (acc : Bool) (f : Fmt) (mode : RMode) (draw0 : Nat) (d d1 : Quad) (a : Reg) (b : Option Reg) (seed : Word)
      (lcore : BitVec 20)
  | dtload (sel : Nat) (a : Reg)
  | press (ring pos order idx cls : Nat) (entry : Word)
  deriving DecidableEq, Repr

/-- What a dispatch-queue entry does (12 R315, 13 R336). -/
inductive VmuOp where
  | vec (j : VecJob)
  | mat (m : MatOp)
  deriving DecidableEq, Repr

/-- An entry of a core's dispatch queue, or a started operation: its command, the ordinal of a vector operation, whether
its wait is met, a failure that ends it, the decode table current at its start, and the bytes it has read so far: stream
bytes, or the tiles of an `mma`, an `mld` or a press; `ends`: the cells of streams it has used up, written when it completes
(11 R310); `watch`: the engine's own watch on its wait cell (13 R337). -/
structure VmuEntry where
  cmd : Cmd
  op : VmuOp
  ordinal : Nat
  waitMet : Bool
  failed : Option Byte
  table : Option K8Table
  dataB : List Byte
  dataC : List Byte
  suspended : Bool
  short : Bool
  ends : List (Cmd × Word)
  watch : Option Nat
  deriving DecidableEq, Repr

/-- The two arbiters of a quad's VMU (12 R316): turn holder and credit of the vector and of the matrix pipe. -/
structure Quad4 where
  vHolder : Nat
  vCredit : Nat
  mHolder : Nat
  mCredit : Nat
  deriving DecidableEq, Repr

/-! ## Memory system -/

/-- A line held in an L1, without its data: partition, line number (va / 64), the ID it was filled under (15 R408),
its state and hint (08 R227, R249). The list is in order of use, most recent first. -/
structure L1Line where
  part : Nat
  line : Nat
  hid : Nat
  state : LState
  hint : Hint
  deriving DecidableEq, Repr

/-- A line whose data a slice holds, most recently used first (08 R226, R249). -/
structure SliceLine where
  part : Nat
  line : Nat
  hint : Hint
  deriving DecidableEq, Repr

/-- A sharer pointer: a core, or the victim pool and pooled cores of a group (08 R229, R253). -/
inductive Ptr where
  | core (n : Nat)
  | group (n : Nat)
  deriving DecidableEq, Repr

/-- The state of a tracked unit (08 R229); an untracked unit has no entry. -/
inductive DirState where
  | owned (core : Nat)
  | shared (ptrs : List Ptr) (fwd : Option Nat) (ovf lost : Bool)
  deriving DecidableEq, Repr

/-- A directory entry: partition, first line, k of the unit's 2^k lines, state, cycles of the last request and of the last
read (08 R231, R233). -/
structure DirUnit where
  part : Nat
  base : Nat
  k : Nat
  state : DirState
  seen : Nat
  readAt : Nat
  deriving DecidableEq, Repr

/-- A watch record (07 R206, 08 R245): the thread and its module, slot or hidden watch, and the hypothesis it carries. -/
structure WatchRec where
  chip : Nat
  tid : Nat
  slot : Nat
  hidden : Bool
  hid : Nat
  depth : Nat
  deriving DecidableEq, Repr

/-- A watched unit of a slice (partition and line) or of a core (flat address), its arming sequence and records. -/
structure WatchUnit where
  part : Nat
  unit : Nat
  seq : Nat
  recs : List WatchRec
  deriving DecidableEq, Repr

/-- An overflow-line entry: the line's sequence, kind 3 records queued, kind 4 records queued and wakes done (08 R246); `lies`:
the watches whose records lie with the darner (R238). -/
structure OvfLine where
  part : Nat
  line : Nat
  seq : Nat
  placed : Nat
  gone : Nat
  lies : List WatchRec
  deriving DecidableEq, Repr

/-- A record of the overflow queue as the 32 bytes `dx.next` writes (08 R239). -/
structure OvfRec where
  kind : Nat
  addr : Word
  seq : Word
  chip : Nat
  who : Nat
  grp : Bool
  hid : Nat
  depth : Nat
  hidden : Bool
  slot : Nat
  ticket : Nat
  deriving DecidableEq, Repr

/-- An outstanding ticket: its number, the request that waits, the unit, and when it was queued (08 R237, R244). -/
structure Ticket where
  id : Nat
  req : Nat
  part : Nat
  base : Nat
  k : Nat
  since : Nat
  deriving DecidableEq, Repr

/-- A leaf translation (09 R267). -/
structure TlbEntry where
  part : Nat
  base : Nat
  lg : Nat
  pte : Word
  pteAt : Nat
  dty : Bool
  deriving DecidableEq, Repr

/-- A cached pointer: the table that maps `tag` (va / 2^(12 + 9·level + 9)) at a level (09 R267). -/
structure PtrEntry where
  part : Nat
  level : Nat
  tag : Nat
  table : Nat
  deriving DecidableEq, Repr

/-- A version line: the masked bytes of one line under one node with its quad tags (15 R405). -/
structure VersionLine where
  part : Nat
  line : Nat
  hid : Nat
  bytes : List (Option Byte)
  tags : List Bool
  deriving DecidableEq, Repr

/-- An outstanding page request of a slice (09 R274); `written` once its record stands in the fault queue. -/
structure PageReq where
  id : Nat
  part : Nat
  page : Nat
  level : Nat
  entry : Word
  write : Bool
  fetch : Bool
  watch : Bool
  tid : Nat
  load : Nat
  since : Nat
  written : Bool
  deriving DecidableEq, Repr

/-- The party for which an engine accesses memory: partition, view, the core whose window aliases apply, the issuing thread
(for warm contexts and page requests) and its load, whether the access is a thread's fetch, and the class its traffic is
budgeted in at a slice, if it is (08 R254). -/
structure Party where
  part : Nat
  hid : Nat
  core : Nat
  tid : Nat
  load : Nat
  fetch : Bool
  cls : Option Nat
  deriving DecidableEq, Repr

/-- What an engine's access waits for: the end of a page move, a page request or a place for one, an answer of the host about
a page (asked for a write, for a fetch), version room, the darner's ticket of a unit, or 64 cycles (09 R271, R272, R274;
15 R411; 17 R440, R441; 08 R237, R255). -/
inductive HoldWhy where
  | move
  | page
  | ats (page : Nat) (write exec : Bool)
  | version
  | ticket (base k : Nat)
  | retry
  deriving DecidableEq, Repr

/-- An engine's or a fetch's access held at a slice: its number among the requests, its line, the cycle it was first held,
and the cause it is to fault with once that is settled (09 R271, R272, R277). -/
structure EngHold where
  id : Nat
  who : Party
  line : Nat
  why : HoldWhy
  since : Nat
  ended : Option Byte
  deriving DecidableEq, Repr

/-- A token count with the period it was last filled in and the cycle a token was last taken (08 R255). -/
structure Tokens where
  key : Nat
  period : Nat
  used : Nat
  at_ : Nat
  deriving DecidableEq, Repr

/-- A probe sent to a core and not applied: the line, whether it takes the line back or only invalidates, and the
request that waits (08 R229, R236). -/
structure Probe where
  core : Nat
  part : Nat
  line : Nat
  recalled : Bool
  req : Nat
  deriving DecidableEq, Repr

/-- A firing on its way to a thread (07 R208). -/
structure Firing where
  tid : Nat
  slot : Nat
  hidden : Bool
  line : Nat
  deriving DecidableEq, Repr

/-- A line whose data stands in a cache and not in memory: 64 bytes and the four quad tags (08 R227, R248). `clean`: the cached
line is not modified, but memory has changed under it (09 R265). -/
structure DirtyLine where
  bytes : List Byte
  tags : List Bool
  clean : Bool
  deriving DecidableEq, Repr

/-! ## Dispatch -/

/-- The 128 bytes of a packet after merging, as 16 dwords (06 R172), with the capabilities derived from its mint. -/
structure Packet where
  words : List Word
  code : Reg
  data : Reg
  deriving DecidableEq, Repr

/-- The basket a queue has accepted and not yet wholly admitted: its number, whether it waits on its wait cell, the next
load to admit (06 R175, R179), the first core and size of the block that is being cleared for it (R182, R183), and whether it
has been chosen and keeps the turn of its priority until its last load is placed (R182); the number of the engine's watch on its
wait cell. -/
structure HeadBasket where
  basket : Nat
  waiting : Bool
  next : Nat
  block : Option (Nat × Nat)
  turn : Bool
  watch : Option Nat
  deriving DecidableEq, Repr

/-- The basket whose thread published a packet, that thread's cluster, and the scope of its `qpub` (06 R171, R176, R180). -/
structure Parent where
  basket : Nat
  cluster : Nat
  scope : Scope
  deriving DecidableEq, Repr

/-- A registered launch queue: its descriptor's address and fields as read at registration, its partition, the engine's
read index, own count (device queues), parents of published packets, valid template slots, lost packets (06 R167 to R171,
R178). `seen` is the write index as last read from a host queue, `watch` the number of the engine's watch on its line (R169). -/
structure Queue where
  part : Nat
  addr : Word
  mint : Reg
  ring : Word
  control : Word
  template : Word
  read : Nat
  count : Nat
  parents : Table Parent
  valid : List Nat
  lost : Nat
  head : Option HeadBasket
  seen : Nat
  watch : Option Nat
  deriving DecidableEq, Repr

/-- A basket (06 R175 to R177): its packet, queue, parent, children and `qpub` commands outstanding, loads not yet
ended, loads failed, whether all loads are admitted, the cores used with their logical numbers (01 R27), latest first, an
early status (R174), and whether it has completed (it is kept while members of a failed load still may report to its fault
cell, R177). -/
structure Basket where
  pkt : Packet
  part : Nat
  queue : Nat
  parent : Option Parent
  scope : Scope
  outstanding : Nat
  live : Nat
  failed : Nat
  admitted : Bool
  placed : List (Nat × Nat)
  early : Option Word
  done : Bool
  deriving DecidableEq, Repr

/-- How a load stands: live, being pre-empted, held (pre-empted), failed or ended (06 R176, R183, R185). -/
inductive LoadState where | live | stopping | held | failed | ended
  deriving DecidableEq, Repr

/-- A die's engine: registered queues in order of registration, the queue last admitted from, the cluster
chosen last on each die (06 R179, R180). -/
structure Die where
  queues : List Nat
  lastQueue : Nat
  lastCluster : Table Nat
  deriving DecidableEq, Repr

/-! ## Copies and messages -/

/-- A copy slot's state (10 R284). -/
inductive SlotState where | inFlight | held
  deriving DecidableEq, Repr

/-- A copy slot in use (10 R284, R290, R291): its command's member, shape register, operands and hint; the
entries of a gather list read so far; every chunk below `first` is performed and every chunk below `started` started; `done`
and `bad` are the chunks from `first` on that are performed and that faulted, `fault` the lowest of the latter with its cause;
`stop` says that a `cp.cancel` waits for the chunks in flight (R296). -/
structure CopySlot where
  cmd : Cmd
  member : Nat
  hint : Hint
  shape : Reg
  a : Reg
  b : Reg
  total : Nat
  list : List (Nat × Nat)
  state : SlotState
  first : Nat
  started : Nat
  done : List Nat
  bad : List Nat
  fault : Option (Nat × Byte)
  stop : Bool
  deriving DecidableEq, Repr

/-- A bound receive port (11 R300 to R303, R310): the binder and its life, kind (stream or ring), filter, entry, size,
control line offset in the TCM, end cell; head, count and refused as the engine keeps them; the stream's consumed payload
bytes of the current stream. -/
structure Port where
  cmd : Cmd
  stream : Bool
  filter : Bool
  entry : Nat
  size : Nat
  ctl : Nat
  head : Nat
  count : Nat
  refused : Nat
  begun : Bool
  streamBytes : Nat
  part_ : Nat
  deriving DecidableEq, Repr

/-- A send slot in use (11 R307, R308): `payload` once the source is read, `ended` the status that waits to be written. -/
structure Send where
  cmd : Cmd
  d : Quad
  a : Reg
  chip : Nat
  core : Nat
  port : Nat
  len : Nat
  retryAt : Nat
  order : Nat
  payload : Option (List Byte)
  ended : Option Word
  deriving DecidableEq, Repr

/-! ## Agent commands -/

/-- An agent command that another module sent: that module, the issuer there, and the image a `twrite` brings (18 R460). -/
structure PeerAgent where
  chip : Nat
  tid : Nat
  image : List (Quad × Bool)
  deriving DecidableEq, Repr

/-- An agent command accepted and not applied, or applied and not finished (05 R148): its member, reference or block
register, b register, the entries sent for the target's agent to decide (R142), whether the issuing core has granted it, its
phase, and its place among the requests that its core sends (11 R311). -/
structure AgentCmd where
  cmd : Cmd
  member : Nat
  a : Reg
  b : Reg
  target : Nat
  entries : List Word
  accepted : Bool
  phase : Nat
  sent : Nat
  peer : Option PeerAgent
  deriving DecidableEq, Repr

/-! ## The mangle -/

/-- A sheet in a latch (14 R356): header fields, tile bytes as read, and its injection count t. -/
structure Sheet where
  tag : Nat
  fmt : Nat
  use_ : Nat
  lap : Nat
  inj : Nat
  t : Nat
  tile : List Byte
  deriving DecidableEq, Repr

/-- The three ring states of 14 R357. -/
inductive RState where | off | ready | running
  deriving DecidableEq, Repr

/-- A ring command that waits for a count's step 3 or step 6 (14 R358): member 1 `mg.tbl`, 2 and 3 the injections,
6 `mg.stat`, 7 `mg.ej`; an injection carries its sheet and position. -/
structure RingCmd where
  cmd : Cmd
  member : Nat
  d : Quad
  a : Reg
  pos : Nat
  sheet : Option Sheet
  deriving DecidableEq, Repr

/-- An open encounter of hold mode (14 R366): its position, table index and the cycle step 4 of its count began. -/
structure Encounter where
  pos : Nat
  idx : Nat
  since : Nat
  deriving DecidableEq, Repr

/-- An any-home press that has finished its product and waits to add it in firing order (14 R365). -/
structure AnyAdd where
  order : Nat
  idx : Nat
  soff : Nat
  int : Bool
  pos : Nat
  prod : List Nat
  deriving DecidableEq, Repr

/-- A group's ring (14 R355, R374): configuration word, session and fault cells, the `mg.go` that began the session with
its class, the counters, latches by position, valid entries by index, waiting commands. `openPress` counts presses not
finished; `pend` holds the places in firing order of any-home presses not yet added; `nextAt` is the earliest cycle of the
next count, `midCount` says that steps 5 and 6 of a count are still to come; `ending` is the code of an ended session. `late`
and `latePend` are the same as `adds` and `pend` for the sessions of loads that have ended, with the load (R385). -/
structure Ring where
  state : RState
  config : Word
  session : CellRef
  faultCell : CellRef
  goCmd : Option Cmd
  cls : Nat
  next : Nat
  presses : Nat
  misses : Nat
  stranded : Nat
  heldCycles : Nat
  upper : Table Sheet
  lower : Table Sheet
  table : Table Word
  waiting : List RingCmd
  encounters : List Encounter
  adds : List AnyAdd
  pend : List Nat
  late : List (Nat × AnyAdd)
  latePend : List (Nat × Nat)
  openPress : Nat
  haltAsk : List Cmd
  badAdd : Bool
  ending : Option Nat
  nextAt : Nat
  midCount : Bool
  deriving DecidableEq, Repr

/-- A load (06 R180, R181): its basket, index, die, cluster, first core of its block, cores, threads per core, priority,
claims, state, time of pre-emption, live members, and what its saved rings' images do not hold (14 R383). -/
structure Load where
  basket : Nat
  index : Nat
  cluster : Nat
  core0 : Nat
  cores : Nat
  tpc : Nat
  prio : Nat
  mtx : Bool
  ring : Bool
  state : LoadState
  heldAt : Nat
  members : List Nat
  kept : Table Ring
  deriving DecidableEq, Repr

/-! ## Combining -/

/-- A bound barrier (16 R424): owner, phase-word offset, phase, E, A, and the widest scope applied to the phase (R427). -/
structure Barrier where
  owner : Nat
  off : Nat
  phase : Nat
  e : Nat
  a : Nat
  scope : Scope
  deriving DecidableEq, Repr

/-- A `red.send` held at its leaf router (16 R431): its command, leaf, chunk, size and source. -/
structure HeldSend where
  cmd : Cmd
  leaf : Nat
  chunk : Nat
  bytes : Nat
  a : Reg
  deriving DecidableEq, Repr

/-- A bound tree (16 R428, R429): owner, open or closed, ctl word, result offset, permutation, round cell with its
command, round count, contributions as (leaf, chunk, bytes), cycles the timer has run and since when, held sends. -/
structure Tree where
  owner : Nat
  closed : Bool
  ctl : Word
  result : Nat
  perm : List Nat
  cmd : Cmd
  round : Nat
  given : List (Nat × Nat × List Byte)
  ran : Nat
  since : Option Nat
  holds : List HeldSend
  deriving DecidableEq, Repr

/-! ## Cores, clusters, partitions -/

/-- A core (01 R13). A slot that is not listed in `threads` is free; `resident` and `warm` name the slots whose contexts
hold the 4 resident positions and the 12 warm-context places. `freed`: by thread, the slots that its `cp.cancel` in progress
has freed so far (MODEL). -/
structure Core where
  threads : Table Thread
  resident : List (Option Nat)
  warm : List (Option Nat)
  lastPos : List Nat
  carve : Word
  quarantined : Bool
  unack : Nat
  acc0 : List Nat
  acc1 : List Nat
  table : K8Table
  vq : List VmuEntry
  started : List VmuEntry
  slots : Table CopySlot
  lastCopy : Nat
  freed : Table Nat
  ports : Table Port
  sends : List Send
  sendOrder : Nat
  l1 : List L1Line
  victims : List L1Line
  watches : List WatchUnit
  lastOwner : Option Nat
  waitingSends : List Nat
  waitingCopies : List Nat
  waitingVmu : List (Nat × VmuEntry)
  deriving DecidableEq, Repr

/-- A cluster's slice, combining engine and admission agent (01 R13, 08 R226); `lineSeen`: requests of the last 65,536 cycles
to lines that no unit tracked: partition, line and cycle (08 R233). -/
structure Cluster where
  park : Nat
  tlb : List TlbEntry
  ptrs : List PtrEntry
  dir : List DirUnit
  lineSeen : List (Nat × Nat × Nat)
  data : List SliceLine
  watches : List WatchUnit
  ovfLines : List OvfLine
  ovfQ : List OvfRec
  tickets : List Ticket
  darner : Option Nat
  dxWait : Option (Cmd × Nat × Reg)
  versions : List VersionLine
  tokens : List Tokens
  pageReqs : List PageReq
  engHolds : List EngHold
  nextReqId : Nat
  flags : FlagSet
  bars : Table Barrier
  trees : Table Tree
  seq : Nat
  deriving DecidableEq, Repr

/-- The states of a hypothesis ID that is not free (15 R386). -/
inductive HState where | live | merged | refuted
  deriving DecidableEq, Repr

/-- The keeper's record of an allocated ID (15 R387); pins are counted from what pins it (R389). -/
structure HypNode where
  state : HState
  gen : Nat
  parent : Nat
  depth : Nat
  notice : CellRef
  deriving DecidableEq, Repr

/-- A partition that is set up (17 R452): the eight words of its translation record (09 R258), PASID, domain tag, HDM
range, class budgets and version lines (08 R255, 15 R410), host-fault counter, tolerance, mint of its queues; its
hypothesis nodes and generations; the queue keeper's indexes (records written, the host's read index, responses read, the
response write index last taken) and MSI-X timing (09 R275, R276); its device memory as (first byte, lines) (log 89, DEDUCED). -/
structure Partition where
  record : List Word
  pasid : Nat
  domTag : Nat
  hdm : Option (Nat × Nat × Nat)
  budgets : List Word
  memBudgets : List Word
  verLines : Nat
  hostFaults : Nat
  tolerance : Nat
  mint : Reg
  nodes : Table HypNode
  gens : Table Nat
  fqIndex : Nat
  fqRead : Nat
  respRead : Nat
  respIndex : Nat
  lastMsi : Option Nat
  msiPending : Bool
  priFailed : Bool
  pages : List (Nat × Nat)
  deriving DecidableEq, Repr

/-! ## Bridge, links, steward -/

/-- An entry of the bridge's translation cache (17 R440). -/
structure AtcEntry where
  part : Nat
  page : Nat
  hpage : Nat
  rd : Bool
  wr : Bool
  ex : Bool
  deriving DecidableEq, Repr

/-- An outstanding ATS translation request, or a page request group when `pri` (17 R440, R441), for the accesses to a page that
need one permission: `write`, or `exec` where fetches ask; `marked` says that its answer is to be discarded (R442). -/
structure AtsReq where
  part : Nat
  page : Nat
  write : Bool
  pri : Bool
  marked : Bool
  since : Nat
  exec : Bool
  deriving DecidableEq, Repr

/-- An ATS invalidation not yet completed: its range and the reads that its completion waits for (17 R442). -/
structure AtsInv where
  part : Nat
  page : Nat
  pages : Nat
  reads : List Nat
  deriving DecidableEq, Repr

/-- What the module sends out, in order: MSI-X messages, posted PCIe writes, invalidate completions, link messages and
host replies (17 R439, R442, R450; 18 R460). -/
inductive Outgoing where
  | msix (fn vector : Nat)
  | posted (part : Nat) (addr : Nat) (bytes : List Byte)
  | readReq (part : Nat) (addr : Nat) (req : Nat)
  | invalidated (part page pages : Nat)
  | hostData (part hpa : Nat) (bytes : List Byte) (poison : Bool)
  | hostWritten (part hpa : Nat)
  | toPeer (chip : Nat) (addr : Word) (len : Nat)
  | peerReply (chip : Nat) (addr : Word) (bits : Quad) (tag : Bool) (cause : Byte)
  | agentReply (chip tid : Nat) (status : Word) (bytes : List Byte)
  deriving DecidableEq, Repr

/-- The power states (19 R471). -/
inductive Power where | aster | iris | poppy | lupin
  deriving DecidableEq, Repr

/-- A function's mailbox as the steward keeps it: the command-sequence word as last written, reply sequence, status and
reply dwords (19 R469); what else the host writes stands in `bar0` (17 R438). -/
structure Mailbox where
  seqWord : Nat
  reply : Nat
  status : Nat
  data : List Word
  deriving DecidableEq, Repr

/-- A journal record (19 R470). -/
structure JournalRec where
  seq : Nat
  cycle : Nat
  opcode : Nat
  fn : Nat
  mailSeq : Nat
  args : List Word
  deriving DecidableEq, Repr

/-- A registered event ring (19 R474): host base address, log2 of slots, records written. -/
structure EvRing where
  base : Nat
  lslots : Nat
  index : Nat
  deriving DecidableEq, Repr

/-- The steward (19). `fuseMin` is the minimum image version, `attBlocks` the blocks burnt, `attIndex` the next one-time
key; `running` and `firmware` say whether the steward's image and a firmware image run (the latter with its version);
`keys` the owner of each key slot with its generation, which stands for the key, seen by no party (17 R451); `firmLoad` the firmware's load, `firmPage` the device
address of its mailbox page (R468), kept as function 64 in `mail`. -/
structure Steward where
  running : Bool
  stewardVer : Nat
  firmware : Option Nat
  fuseMin : Nat
  attBlocks : Nat
  attIndex : Nat
  journal : List JournalRec
  journalSeq : Nat
  mail : Table Mailbox
  events : Table EvRing
  keys : Table (Nat × Nat)
  power : Power
  moving : Bool
  softAt : Table Nat
  firmLoad : Option Nat
  firmPage : Nat
  deriving DecidableEq, Repr

/-- The host bridge (17) and the link engine (18). `bar0` holds the bytes the host wrote to BAR0 (R438), `links` the
ports of this module that are up, `peers` the link masks of the other chips, `offered` the table of
18 R463. -/
structure Bridge where
  atc : List AtcEntry
  ats : List AtsReq
  invs : List AtsInv
  atsOn : BitVec 64
  hostUp : Bool
  bar0 : Table Byte
  chip : Nat
  links : BitVec 36
  peers : Table (BitVec 36)
  peerResv : List PeerResv
  offered : Table Word
  out : List Outgoing
  deriving DecidableEq, Repr

/-- A turn: core `core` issues one instruction of the context R115 chooses; an event happens; cycles pass; or an
uncorrectable error strikes `n` bytes of memory at a flat address (05 R165). MODEL. -/
inductive Turn where
  | core (core : Nat)
  | event (i : Instr)
  | pass (cycles : Nat)
  | spoil (a n : Nat)
  deriving DecidableEq, Repr

/-- The whole module (01 R13). `poison`: the flat addresses of the bytes whose data is marked poisoned (05 R163). -/
structure State where
  cycle : Nat
  mem : Memory
  poison : List Nat
  tags : List Nat
  dirty : Table DirtyLine
  cores : Table Core
  quads : Table Quad4
  rings : Table Ring
  clusters : Table Cluster
  dies : Table Die
  queues : Table Queue
  baskets : Table Basket
  loads : Table Load
  parts : Table Partition
  reqs : Table Req
  nextReq : Nat
  probes : List Probe
  firings : List Firing
  agentQ : List AgentCmd
  cellQ : List CellWrite
  heldCmds : List HeldCmd
  bridge : Bridge
  steward : Steward
  cur : Nat
  agenda : List Turn
  free : Nat
  nextId : Nat
  deriving DecidableEq, Repr

/-! ## How a step can stop -/

/-- The faults that stop the machine. No condition of the spec stops it: every architected fault is a next state. -/
inductive Fault where
  /-- Raised by `step` when the agenda names a program instruction as an event: no such turn exists on the hardware.
  Safe: the agenda is the model's own field. -/
  | badTurn
  deriving DecidableEq, Repr

/-- The refusals. -/
inductive Refusal where
  /-- Raised by `exec` for an instruction without a meaning yet. Safe: nothing is claimed of it. -/
  | notModelled (mnemonic : String)
  deriving DecidableEq, Repr

/-! ## Reset -/

/-- A core after a core reset (01 R28, 08 R250, 03 R83, 13 R333, 11 R300). -/
def Core.reset : Core :=
  { threads := [], resident := [none, none, none, none], warm := List.replicate 12 none, lastPos := [3, 3, 3, 3], carve := 0x4444
    quarantined := false, unack := 0, acc0 := List.replicate 256 0, acc1 := List.replicate 256 0
    table := presetE4M3, vq := [], started := [], slots := [], lastCopy := 127, freed := [], ports := [], sends := []
    sendOrder := 0, l1 := [], victims := [], watches := [], lastOwner := none, waitingSends := [], waitingCopies := [], waitingVmu := [] }

/-- A cluster after module reset: a park region of 256 KiB (08 R226), nothing held. -/
def Cluster.reset : Cluster :=
  { park := 4, tlb := [], ptrs := [], dir := [], lineSeen := [], data := [], watches := [], ovfLines := [], ovfQ := [], tickets := []
    darner := none, dxWait := none, versions := [], tokens := [], pageReqs := [], engHolds := [], nextReqId := 0, flags := 0
    bars := [], trees := [], seq := 0 }

/-- An off ring (14 R357). -/
def Ring.reset : Ring :=
  { state := .off, config := 0, session := ⟨0, false, false⟩, faultCell := ⟨0, false, false⟩, goCmd := none, cls := 0
    next := 0, presses := 0, misses := 0, stranded := 0, heldCycles := 0, upper := [], lower := [], table := []
    waiting := [], encounters := [], adds := [], pend := [], late := [], latePend := [], openPress := 0, haltAsk := [], badAdd := false, ending := none
    nextAt := 0, midCount := false }

/-- Arbiters at rest. -/
def Quad4.reset : Quad4 := ⟨0, 0, 0, 0⟩

/-- A die's engine with no queue registered (06 R168). -/
def Die.reset : Die := ⟨[], 0, []⟩

/-- A mailbox no command was written to (19 R469). -/
def Mailbox.reset : Mailbox := ⟨0, 0, 0, []⟩

/-- The bridge and link engine after reset: no translation cached, both host links up, no switch seen yet (18 R456) (log 4, DESIGN CHOICE). -/
def Bridge.reset : Bridge :=
  { atc := [], ats := [], invs := [], atsOn := 0, hostUp := true, bar0 := [], chip := 0, links := 0, peers := [], peerResv := [], offered := [], out := [] }

/-- The steward after reset, before its image is verified (19 R466): the journal empty, its next sequence 1 (R470) (log 3, DESIGN CHOICE). -/
def Steward.reset : Steward :=
  { running := false, stewardVer := 0, firmware := none, fuseMin := 0, attBlocks := 0, attIndex := 0, journal := []
    journalSeq := 1, mail := [], events := [], keys := [], power := .aster, moving := false, softAt := []
    firmLoad := none, firmPage := 0 }

/-- The module right after reset (04 R114, 08 R226, R250, 14 R357, 16 R424, R428, 18 R456, 19 R471) (log 10, DESIGN CHOICE). -/
def State.reset : State :=
  { cycle := 0, mem := [], poison := [], tags := [], dirty := [], cores := [], quads := [], rings := [], clusters := [], dies := []
    queues := [], baskets := [], loads := [], parts := [], reqs := [], nextReq := 0, probes := [], firings := []
    agentQ := [], cellQ := [], heldCmds := [], bridge := Bridge.reset, steward := Steward.reset, cur := 0, agenda := []
    free := 0, nextId := 1 }

end Sys2Proof.Machine
end

