-- ==== Sys2Proof/Machine/Ops.lean ====
section
/-!
DEFINITION. Sys2Proof/Machine/Ops.lean: the named operations over collections, memory, registers, cores and threads,
taking an exception (05 R161) and completing an instruction (04 R116).
-/
namespace Sys2Proof.Machine

/-! ## Collections by number -/

/-- The entry of key `k`. -/
def tget {α : Type} : Table α → Nat → Option α
  | [], _ => none
  | (i, a) :: r, k => if i = k then some a else tget r k

/-- The collection with entry `k` set, keys rising. -/
def tput {α : Type} : Table α → Nat → α → Table α
  | [], k, v => [(k, v)]
  | (i, a) :: r, k, v =>
    if k < i then (k, v) :: (i, a) :: r
    else if k = i then (k, v) :: r
    else (i, a) :: tput r k v

/-- The collection without entry `k`. -/
def tdel {α : Type} : Table α → Nat → Table α
  | [], _ => []
  | (i, a) :: r, k => if i = k then r else (i, a) :: tdel r k

/-- The lowest number from `n` on that is no key, looking at `fuel` numbers. -/
def tfree {α : Type} (t : Table α) : Nat → Nat → Option Nat
  | 0, _ => none
  | fuel + 1, n => if (tget t n).isNone then some n else tfree t fuel (n + 1)

/-- A list with its `i`-th element replaced. -/
def lset {α : Type} : List α → Nat → α → List α
  | [], _, _ => []
  | _ :: r, 0, v => v :: r
  | a :: r, i + 1, v => a :: lset r i v

/-- A list with its `i`-th element replaced, made longer with `z` where it is too short. -/
def lput {α : Type} (z : α) : List α → Nat → α → List α
  | [], 0, v => [v]
  | [], i + 1, v => z :: lput z [] i v
  | _ :: r, 0, v => v :: r
  | a :: r, i + 1, v => a :: lput z r i v

/-- Insertion into a strictly rising list of numbers. -/
def sinsert : List Nat → Nat → List Nat
  | [], k => [k]
  | a :: r, k => if k < a then k :: a :: r else if k = a then a :: r else a :: sinsert r k

/-- Removal from a strictly rising list of numbers. -/
def sremove : List Nat → Nat → List Nat
  | [], _ => []
  | a :: r, k => if a = k then r else a :: sremove r k

/-! ## Memory: one flat numbering of every byte (MODEL)

Device LPDDR stands at its physical address (09 R261: 8 TiB), TCM and scratch shares at fixed bases (01 R18, R22), host
memory at another (09 R261: host addresses reach 2^56). -/

def flatTcm (core off : Nat) : Nat := 2 ^ 44 + core * 2 ^ 17 + off
def flatScratch (core off : Nat) : Nat := 2 ^ 45 + core * 2 ^ 17 + off
def flatHost (hpa : Nat) : Nat := 2 ^ 60 + hpa
/-- Device LPDDR ends at 8 TiB (00 R4, 09 R261). -/
def dramEnd : Nat := 2 ^ 43

/-- What an unlisted address reads as: zero (TCM and scratch after zeroing, 19 R472, R473; LPDDR and host memory: log 1, DESIGN CHOICE). -/
def unlisted : Byte := 0

/-- The byte memory holds at a flat address, caches aside. -/
def memGet : Memory → Nat → Byte
  | [], _ => unlisted
  | (i, b) :: r, a => if i = a then b else if a < i then unlisted else memGet r a

/-- Memory with one byte written, in canonical form. -/
def memPut : Memory → Nat → Byte → Memory
  | [], a, b => if b = unlisted then [] else [(a, b)]
  | (i, c) :: r, a, b =>
    if a < i then (if b = unlisted then (i, c) :: r else (a, b) :: (i, c) :: r)
    else if a = i then (if b = unlisted then r else (a, b) :: r)
    else (i, c) :: memPut r a b

/-- Memory with a run of bytes written from address `a` on. -/
def memPutAll (m : Memory) (a : Nat) : List Byte → Memory
  | [] => m
  | b :: bs => memPutAll (memPut m a b) (a + 1) bs

/-- The canonical form: addresses strictly rising, no entry equal to what an unlisted address reads as. -/
def Memory.wf : Memory → Bool
  | [] => true
  | [(_, b)] => decide (b ≠ unlisted)
  | (a, b) :: (a', b') :: r => decide (b ≠ unlisted) && decide (a < a') && Memory.wf ((a', b') :: r)

/-- A run of `n` bytes as memory holds it, caches aside: what a table walk reads (09 R264). -/
def memBytes (m : Memory) (a : Nat) : Nat → List Byte
  | 0 => []
  | n + 1 => memGet m a :: memBytes m (a + 1) n

/-- The byte at a flat address as its point of coherence holds it: modified cached data stands before memory (08 R227) (log 15, DEDUCED). -/
def State.byteAt (s : State) (a : Nat) : Byte :=
  match tget s.dirty (a / 64) with
  | some l => l.bytes.getD (a % 64) 0
  | none => memGet s.mem a

/-- A run of bytes as the points of coherence hold them. -/
def State.bytesAt (s : State) (a : Nat) : Nat → List Byte
  | 0 => []
  | n + 1 => s.byteAt a :: s.bytesAt (a + 1) n

/-- The memory tag of the quad that holds a flat address (07 R191). -/
def State.tagAt (s : State) (a : Nat) : Bool :=
  match tget s.dirty (a / 64) with
  | some l => l.tags.getD (a % 64 / 16) false
  | none => s.tags.contains (a / 16)

/-- Quad numbers of `n` bytes at `a`. -/
def quadsOf (a n : Nat) : List Nat :=
  if n = 0 then [] else (List.range ((a + n - 1) / 16 - a / 16 + 1)).map (· + a / 16)

/-- The line as the points of coherence hold it, ready to be modified in a cache. -/
def State.cachedLine (s : State) (line : Nat) : DirtyLine :=
  match tget s.dirty line with
  | some l => l
  | none => ⟨memBytes s.mem (64 * line) 64, (List.range 4).map (fun i => s.tags.contains (4 * line + i)), false⟩

/-- The data of some of `n` bytes from a flat address on is marked poisoned (05 R163). -/
def State.poisoned (s : State) (a n : Nat) : Bool := s.poison.any (fun b => decide (a ≤ b ∧ b < a + n))

/-- An uncorrectable error marks bytes (05 R165). -/
def State.spoiled (s : State) (a n : Nat) : State := { s with poison := (List.range n).foldl (fun l i => sinsert l (a + i)) s.poison }

/-- A write of bytes leaves no mark on them (log 124, DESIGN CHOICE). -/
def State.cleaned (s : State) (a n : Nat) : State := { s with poison := s.poison.filter (fun b => !decide (a ≤ b ∧ b < a + n)) }

/-- Writes bytes that lie in one line. Every quad touched loses its tag but the one a tagged quad store writes (07 R191).
`cached`: the write stays in a cache until written back (08 R227); otherwise memory itself is written. -/
def State.putBytes (s : State) (cached : Bool) (a : Nat) (bs : List Byte) (tag : Bool) : State :=
  let s := s.cleaned a bs.length
  if cached then
    let l := s.cachedLine (a / 64)
    let qs := quadsOf (a % 64) bs.length
    let tags := (List.range 4).map (fun i => if qs.contains i then tag else l.tags.getD i false)
    { s with dirty := tput s.dirty (a / 64) ⟨patchBytes l.bytes (a % 64) bs, tags, false⟩ }
  else
    let tags := (quadsOf a bs.length).foldl (fun t q => if tag then sinsert t q else sremove t q) s.tags
    { s with mem := memPutAll s.mem a bs, tags := tags }

/-- Writes a modified line back to memory (08 R248); one that is not modified is just dropped (09 R265). -/
def State.writeBack (s : State) (line : Nat) : State :=
  match tget s.dirty line with
  | none => s
  | some l =>
    if l.clean then { s with dirty := tdel s.dirty line } else
    let tags := (List.range 4).foldl (fun t i => if l.tags.getD i false then sinsert t (4 * line + i) else sremove t (4 * line + i)) s.tags
    { s with mem := memPutAll s.mem (64 * line) l.bytes, tags := tags, dirty := tdel s.dirty line }

/-- Drops a line's cached data without write-back (08 R248 `cc.inv`). -/
def State.dropLine (s : State) (line : Nat) : State := { s with dirty := tdel s.dirty line }

/-! ## Access to the parts of the module -/

namespace State
def core (s : State) (c : Nat) : Core := (tget s.cores c).getD Core.reset
def setCore (s : State) (c : Nat) (k : Core) : State := { s with cores := tput s.cores c k }
def cluster (s : State) (c : Nat) : Cluster := (tget s.clusters c).getD Cluster.reset
def setCluster (s : State) (c : Nat) (k : Cluster) : State := { s with clusters := tput s.clusters c k }
def ring (s : State) (g : Nat) : Ring := (tget s.rings g).getD Ring.reset
def setRing (s : State) (g : Nat) (r : Ring) : State := { s with rings := tput s.rings g r }
def quad (s : State) (q : Nat) : Quad4 := (tget s.quads q).getD Quad4.reset
def setQuad (s : State) (q : Nat) (k : Quad4) : State := { s with quads := tput s.quads q k }
def die (s : State) (d : Nat) : Die := (tget s.dies d).getD Die.reset
def setDie (s : State) (d : Nat) (k : Die) : State := { s with dies := tput s.dies d k }
def setPart (s : State) (p : Nat) (k : Partition) : State := { s with parts := tput s.parts p k }
def setLoad (s : State) (n : Nat) (l : Load) : State := { s with loads := tput s.loads n l }
def setBasket (s : State) (n : Nat) (b : Basket) : State := { s with baskets := tput s.baskets n b }
def setQueue (s : State) (n : Nat) (q : Queue) : State := { s with queues := tput s.queues n q }
def setReq (s : State) (n : Nat) (r : Req) : State := { s with reqs := tput s.reqs n r }
def dropReq (s : State) (n : Nat) : State := { s with reqs := tdel s.reqs n }

/-- The thread in a slot, by thread number (01 R26); none where the slot is free. -/
def thread? (s : State) (tid : Nat) : Option Thread := tget (s.core (tid / 256)).threads (tid % 256)

def setThread (s : State) (tid : Nat) (t : Thread) : State :=
  let k := s.core (tid / 256)
  s.setCore (tid / 256) { k with threads := tput k.threads (tid % 256) t }

/-- Frees a slot. -/
def dropThread (s : State) (tid : Nat) : State :=
  let k := s.core (tid / 256)
  s.setCore (tid / 256) { k with threads := tdel k.threads (tid % 256)
                                 resident := k.resident.map (fun r => if r = some (tid % 256) then none else r)
                                 warm := k.warm.map (fun r => if r = some (tid % 256) then none else r) }

/-- Applies a change to a thread that exists. -/
def modThread (s : State) (tid : Nat) (f : Thread → Thread) : State :=
  match s.thread? tid with
  | some t => s.setThread tid (f t)
  | none => s

/-- Every thread of the module with its number. -/
def allThreads (s : State) : List (Nat × Thread) :=
  s.cores.flatMap (fun (c, k) => k.threads.map (fun (i, t) => (256 * c + i, t)))

/-- A fresh number for baskets and the like (MODEL). -/
def fresh (s : State) : State × Nat := ({ s with nextId := s.nextId + 1 }, s.nextId)

/-- A free choice between two listed outcomes: the free value at the counter, and the counter advanced (log 5, DESIGN CHOICE). -/
def choose (s : State) : State × Bool := ({ s with free := s.free + 1 }, Config.pick s.free)

/-- Sends something out of the module (log 120, DESIGN CHOICE). -/
def emit (s : State) (o : Outgoing) : State := { s with bridge := { s.bridge with out := s.bridge.out ++ [o] } }
end State

/-- The cluster of a core (01 R25). -/
def clusterOf (core : Nat) : Nat := core / 64
/-- The group of a core, which is its ring (01 R25). -/
def groupOf (core : Nat) : Nat := core / 16
/-- The die of a cluster (01 R21). -/
def dieOf (cluster : Nat) : Nat := cluster / 1024
/-- The core of a thread number (01 R26). -/
def coreOf (tid : Nat) : Nat := tid / 256

/-- Bytes of a core's TCM part T (01 R18, 08 R250). -/
def Core.tcmBytes (k : Core) : Nat := 8192 * (k.carve.toNat % 16)
/-- Bytes of a core's scratch share. -/
def Core.shareBytes (k : Core) : Nat := 8192 * (k.carve.toNat / 16 % 16)
/-- Bytes of a core's L1 part. -/
def Core.l1Bytes (k : Core) : Nat := 8192 * (k.carve.toNat / 256 % 16)
/-- Warm contexts the carve allows; each takes 1 KiB at the top of the TCM (W of 01 R18). -/
def Core.warmSlots (k : Core) : Nat := k.carve.toNat / 4096 % 16
/-- The pool bit (08 R253). -/
def Core.pooled (k : Core) : Bool := k.carve.getLsbD 16
/-- T − W: the TCM below the warm-context area (01 R18) (log 110, DEDUCED). -/
def Core.tcmPlain (k : Core) : Nat := k.tcmBytes - 1024 * k.warmSlots

/-! ## Registers (04 R100) -/

/-- Register `r`; c0 reads as zero with a clear tag. -/
def Thread.reg (t : Thread) (r : RegNo) : Reg := if r = 0 then Reg.zero else t.regs.getD r.toNat Reg.zero

/-- Writes register `r`; a write to c0 is discarded. -/
def Thread.setReg (t : Thread) (r : RegNo) (v : Reg) : Thread :=
  if r = 0 then t else { t with regs := lput Reg.zero t.regs r.toNat v }

/-- The low 64 bits of a register. -/
def Reg.lo (r : Reg) : Word := r.bits.setWidth 64
/-- The high 64 bits of a register. -/
def Reg.hi (r : Reg) : Word := r.bits.extractLsb' 64 64
/-- A 64-bit result: zero-extended, untagged. -/
def Reg.ofWord (w : Word) : Reg := ⟨w.setWidth 128, false⟩
/-- A 128-bit untagged result. -/
def Reg.ofNat (n : Nat) : Reg := ⟨BitVec.ofNat 128 n, false⟩

/-- The thread number, core and slot of a thread's own `k.tid` are its number in the tables (04 R111). -/
def slotOf (tid : Nat) : Nat := tid % 256

/-! ## Boundaries, faults and retirement -/

/-- The boundary before the instruction about to issue. -/
def Thread.checkpoint (t : Thread) : Checkpoint := ⟨t.regs, t.pcc, t.fpcsr, t.line⟩

/-- Returns to a boundary: every later instruction is discarded with its effects, its flags among them (04 R117). -/
def Thread.restore (t : Thread) (c : Checkpoint) : Thread :=
  { t with regs := c.regs, pcc := c.pcc, fpcsr := c.fpcsr, line := c.line, unionPend := [] }

/-- The thread at the boundary before its oldest unretired instruction, its issued loads discarded and their replies to
be dropped (04 R117); a reservation does not survive (07 R201). -/
def Thread.toBoundary (t : Thread) : Thread :=
  let t := match t.window with
    | [] => t
    | u :: _ => t.restore u.before
  { t with window := [], wait := .none, resv := none, line := none }

/-- An `mrd`, which retires with its values (13 R347). -/
def VmuEntry.isMrd (e : VmuEntry) : Bool :=
  match e.op with
  | .mat (.mrd _ _ _) => true
  | _ => false

/-- A command whose thread waits for its end: a `v.sync` (12 R330), an `hnew` (15 R395). -/
def HeldCmd.awaited (h : HeldCmd) : Bool :=
  match h.instr with
  | .vSync _ _ | .hnew _ _ _ _ => true
  | _ => false

/-- A stopped thread stands in no line for a slot or a queue, and an `mrd`, a `v.sync` or an `hnew` of it that waits is
discarded (10 R285, 11 R307, 12 R315, R330, 13 R347, 15 R395). -/
def State.leaveLines (s : State) (tid : Nat) : State :=
  let k := s.core (tid / 256)
  if k.waitingSends.contains tid ∨ k.waitingCopies.contains tid ∨ k.waitingVmu.any (fun w => decide (w.1 = tid))
      ∨ k.vq.any (fun e => e.isMrd && decide (e.cmd.tid = tid)) ∨ s.heldCmds.any (fun h => h.awaited && decide (h.cmd.tid = tid)) then
    ({ s with heldCmds := s.heldCmds.filter (fun h => !(h.awaited && decide (h.cmd.tid = tid))) } : State).setCore (tid / 256) { k with
      waitingSends := k.waitingSends.filter (· ≠ tid), waitingCopies := k.waitingCopies.filter (· ≠ tid)
      waitingVmu := k.waitingVmu.filter (fun w => w.1 ≠ tid), vq := k.vq.filter (fun e => !(e.isMrd && decide (e.cmd.tid = tid))) }
  else s

/-- What the slices hold of a thread's fetches (`all`: of anything done for it) is dropped (09 R273). -/
def State.dropHeldOf (s : State) (tid : Nat) (all : Bool) : State :=
  let mine (h : EngHold) : Bool := decide (h.who.tid = tid) && (all || h.who.fetch)
  if s.clusters.any (fun (_, k) => k.engHolds.any mine) then
    { s with clusters := s.clusters.map (fun (c, k) => (c, { k with engHolds := k.engHolds.filter (fun h => !mine h) })) }
  else s

/-- Requests of a thread's unretired loads, and the arming, fetch or access its oldest instruction waits on, leave the tables:
answers that arrive later are dropped (04 R117, 09 R273); so do its places in line. -/
def State.dropIssued (s : State) (tid : Nat) : State :=
  ({ s with reqs := s.reqs.filter (fun (_, r) => r.tid ≠ tid ∨ r.kind = ReqKind.store) }.leaveLines tid).dropHeldOf tid false

/-- The raw head half-word at a thread's pcc, 0 when its line is not held. -/
def Thread.headAt (t : Thread) : BitVec 16 :=
  match t.line with
  | some l => if l.base = t.pcc.lo &&& ~~~63#64 then lineHalf l.bytes ((t.pcc.lo.toNat % 64) / 2) else 0
  | none => 0

/-- A fault taken at a boundary, its record still to be written. -/
def Thread.faulting (t : Thread) (cause : Byte) (addr : Word) (kind : AKind) (size : Nat) (head : BitVec 16) (cycle : Nat)
    (target : TState) : Thread :=
  let t := t.toBoundary
  { t with fault := some ⟨cause, addr, kind, size, head, t.pcc.lo, cycle, target⟩ }

/-- TAKING A FAULT (05 R161 step 1): from this moment the thread stands at the boundary before the faulting instruction;
it issues nothing and takes no agent command until its record is written (FAULT_RECORD_WRITE). -/
def State.takeFault (s : State) (tid : Nat) (cause : Byte) (addr : Word) (kind : AKind) (size : Nat)
    (head : BitVec 16) (target : TState) : State :=
  let s := s.dropIssued tid
  s.modThread tid (fun t => t.faulting cause addr kind size head s.cycle target)

/-- The address of the instruction after the one at `pc` in a line of `n` instructions (02 R48). -/
def nextAddr (pc : Word) (n : Nat) : Word :=
  let k := pc.toNat % 64 / 2
  if k < n then pc + 2 else (pc &&& ~~~63#64) + 66

/-- The address of the instruction after the thread's next one (02 R48). -/
def Thread.following (t : Thread) : Word :=
  match t.line with
  | some l => nextAddr t.pcc.lo ((lineCount l.bytes).getD 31)
  | none => t.pcc.lo + 2

/-- A capability with its cursor replaced. -/
def Reg.withCursor (r : Reg) (a : Word) : Reg := ⟨r.bits.extractLsb' 64 64 ++ a, r.tag⟩

/-- The pcc moves to the following instruction (02 R48). -/
def Thread.advance (t : Thread) : Thread := { t with pcc := t.pcc.withCursor t.following }

/-- Every instruction that issues adds one to the count behind each earlier unsettled store (07 R195 item 2) (log 27, DEDUCED). -/
def Thread.countIssue (t : Thread) (cycle : Nat) : Thread :=
  { t with order := t.order + 1, lastIssue := cycle
           stores := t.stores.map (fun x => if x.order < t.order then { x with after := x.after + 1 } else x) }

/-- The instruction of this program-order number has retired: no load before it is outstanding (04 R116). -/
def Thread.retired (t : Thread) (order : Nat) : Bool :=
  match t.window with
  | [] => true
  | u :: _ => decide (order < u.order)

/-- The flags of instructions that have retired are shown in the cluster's union (03 R92, R93). -/
def State.showFlags (s : State) (tid : Nat) : State :=
  match s.thread? tid with
  | some t =>
    if t.unionPend.any (fun (n, _) => t.retired n) then
      let cl := clusterOf (coreOf tid)
      let k := s.cluster cl
      let shown := (t.unionPend.filter (fun (n, _) => t.retired n)).foldl (fun g (_, f) => g ||| f) 0
      (s.setThread tid { t with unionPend := t.unionPend.filter (fun (n, _) => !t.retired n) }).setCluster cl
        { k with flags := k.flags ||| shown }
    else s
  | none => s

/-- The instruction of a program-order number raises flags in its thread's k.fpcsr (03 R92). -/
def Thread.raiseFlags (t : Thread) (order : Nat) (f : FlagSet) : Thread :=
  { t with fpcsr := t.fpcsr ||| f.setWidth 64, unionPend := if f = 0 then t.unionPend else t.unionPend ++ [(order, f)] }

/-- Raises flags of an operation no thread issued: only in the union, where every later read shows them (03 R93) (log 121, DESIGN CHOICE,
DESIGN CHOICE). -/
def State.raiseUnion (s : State) (cluster : Nat) (f : FlagSet) : State :=
  let k := s.cluster cluster
  s.setCluster cluster { k with flags := k.flags ||| f }

/-- Flags of an operation that issued before every unretired load of its thread: they stand at each boundary a fault or a
stop may return to (03 R92, 04 R117). -/
def Thread.raiseBeside (t : Thread) (f : FlagSet) : Thread :=
  { t with fpcsr := t.fpcsr ||| f.setWidth 64
           window := t.window.map (fun u => { u with before := { u.before with fpcsr := u.before.fpcsr ||| f.setWidth 64 } }) }

/-- Raises flags of an operation of the thread `tid` that runs beside it (03 R92, R93). -/
def State.raiseFor (s : State) (tid : Nat) (f : FlagSet) : State :=
  (s.modThread tid (fun t => t.raiseBeside f)).raiseUnion (clusterOf (coreOf tid)) f

end Sys2Proof.Machine
end

