-- ==== Sys2Proof/Machine/Operands.lean ====
section
/-!
DEFINITION. Sys2Proof/Machine/Operands.lean: capability fields, bounds and checks (04 R104 to R109, R123), address
decoding (01 R14 to R23), the completion-cell check (01 R37), and the operand registers of every instruction (04 R115).
-/
namespace Sys2Proof.Machine

/-! ## Capability fields (04 R104, R105) -/

def Reg.perm (c : Reg) : BitVec 14 := c.bits.extractLsb' 114 14
def Reg.exp (c : Reg) : Nat := (c.bits.extractLsb' 108 6).toNat
def Reg.bman (c : Reg) : Nat := (c.bits.extractLsb' 86 22).toNat
def Reg.tman (c : Reg) : Nat := (c.bits.extractLsb' 64 22).toNat
/-- The cursor of a capability: bits [63:0]. -/
def Reg.cursor (c : Reg) : Word := c.lo

def permLD : BitVec 14 := 1
def permST : BitVec 14 := 2
def permEX : BitVec 14 := 4
def permLDC : BitVec 14 := 8
def permSTC : BitVec 14 := 16
def permAMO : BitVec 14 := 32
def permWATCH : BitVec 14 := 64
def permENG : BitVec 14 := 128
def permGLOBAL : BitVec 14 := 256
def permUNV : BitVec 14 := 512
def permXLAT : BitVec 14 := 1024
def permDIRH : BitVec 14 := 2048
def permHOST : BitVec 14 := 4096
def permSEALED : BitVec 14 := 8192

/-- Every permission bit of `need` is set. -/
def Reg.has (c : Reg) (need : BitVec 14) : Bool := decide (need &&& ~~~c.perm = 0)
def Reg.sealed_ (c : Reg) : Bool := c.has permSEALED
def Reg.unv (c : Reg) : Bool := c.has permUNV
def Reg.hostBit (c : Reg) : Bool := c.has permHOST

/-- `bounds_of`: base and top rebuilt from the metadata and the cursor, as unbounded integers (04 R107). -/
def boundsOf (c : Reg) : Int × Int :=
  let e := min c.exp 42
  let bm := c.bman
  let tm := c.tman
  if e = 42 then (bm * 2 ^ 42, if tm = 0 then 2 ^ 64 else tm * 2 ^ 42)
  else
    let w := e + 22
    let win : Int := c.cursor.toNat / 2 ^ w
    let cm := c.cursor.toNat / 2 ^ e % 2 ^ 22
    let edge := (bm + 2 ^ 22 - 2 ^ 20) % 2 ^ 22
    let low : Int := if cm < edge then 1 else 0
    let cb : Int := (if bm < edge then 1 else 0) - low
    let ct : Int := (if tm < edge then 1 else 0) - low
    ((win + cb) * 2 ^ w + bm * 2 ^ e, (win + ct) * 2 ^ w + tm * 2 ^ e)

/-- A fault found by a check: cause, faulting address, access kind and size code (05 R162). -/
structure Trap where
  cause : Byte
  addr : Word
  kind : AKind
  size : Nat
  deriving DecidableEq, Repr

/-- The first failing check of a list decides the fault (00 R12). -/
def firstOf : List (Option Trap) → Option Trap
  | [] => none
  | some t :: _ => some t
  | none :: r => firstOf r

/-- The fault `t` where the condition fails. -/
def need (ok : Bool) (t : Trap) : Option Trap := if ok then none else some t

/-- A fault that names no access (05 R162: kind 0, size 7, address zero). -/
def plainTrap (cause : Byte) : Trap := ⟨cause, 0, .none, 7⟩

/-- `check_cap` (04 R109), in its order; `addr` is the unbounded sum. -/
def capCause (c : Reg) (perms : BitVec 14) (addr : Int) (size : Nat) : Option Byte :=
  if c.tag = false then some 0x05
  else if c.sealed_ then some 0x06
  else if c.has perms = false then some 0x08
  else if addr < (boundsOf c).1 ∨ (boundsOf c).2 < addr + size then some 0x07
  else none

/-- `check_cap` as a fault of the access `kind` with size code `sz`. -/
def checkCap (c : Reg) (perms : BitVec 14) (addr : Int) (size : Nat) (kind : AKind) (sz : Nat) : Option Trap :=
  (capCause c perms addr size).map (fun x => ⟨x, BitVec.ofInt 64 addr, kind, sz⟩)

/-! ## Narrowing bounds (04 R123) and the representable region (04 R108) -/

def roundDown (x : Int) (e : Nat) : Int := x / 2 ^ e * 2 ^ e
def roundUp (x : Int) (e : Nat) : Int := (x + (2 ^ e - 1)) / 2 ^ e * 2 ^ e

/-- The smallest exponent at or above `e` whose rounded length fits, or 42 (04 R123). -/
def expFor (lo hi : Int) : Nat → Nat → Nat
  | 0, _ => 42
  | fuel + 1, e => if roundUp hi e - roundDown lo e ≤ 2 ^ (e + 21) then e else expFor lo hi fuel (e + 1)

/-- The capability with the metadata given and the cursor kept. -/
def Reg.withMeta (c : Reg) (e bm tm : Nat) : Reg :=
  ⟨c.perm ++ BitVec.ofNat 6 e ++ BitVec.ofNat 22 bm ++ BitVec.ofNat 22 tm ++ c.cursor, c.tag⟩

/-- `set_bounds`: the narrowed capability, or the cause (04 R123). -/
def setBounds (a : Reg) (len : Nat) (exact : Bool) : Except Byte Reg :=
  if a.tag = false then .error 0x05
  else if a.sealed_ then .error 0x06
  else
    let b0 := (boundsOf a).1
    let t0 := (boundsOf a).2
    let lo : Int := a.cursor.toNat
    let hi : Int := lo + len
    if lo < b0 ∨ t0 < hi then .error 0x07
    else
      let e := expFor lo hi 42 0
      let rlo := roundDown lo e
      let rhi := roundUp hi e
      if exact ∧ (rlo ≠ lo ∨ rhi ≠ hi) then .error 0x07
      else if rlo < b0 ∨ t0 < rhi then .error 0x07
      else .ok { a.withMeta e (rlo / 2 ^ e % 2 ^ 22).toNat (rhi / 2 ^ e % 2 ^ 22).toNat with tag := true }

/-- A new cursor keeps the tag only where the capability stays representable (04 R108). -/
def Reg.moved (c : Reg) (a : Word) : Reg :=
  let d := c.withCursor a
  { d with tag := c.tag && decide (boundsOf d = boundsOf c) }

/-- The whole address space with every permission but SEALED. -/
def rootCap : Reg := ⟨0x1FFF#14 ++ 42#6 ++ 0#44 ++ 0#64, true⟩

/-- A tagged capability over `[base, base + len)` with permissions `perms`, its cursor at the base. -/
def makeCap (base : Word) (len : Nat) (perms : BitVec 14) : Reg :=
  match setBounds (rootCap.withCursor base) len false with
  | .ok c => ⟨perms ++ c.bits.extractLsb' 0 114, true⟩
  | .error _ => Reg.zero

/-! ## Addresses (01 R14 to R23) -/

/-- R23 check 3: canonical form. -/
def canonical (a : Word) : Bool :=
  if a.getLsbD 63 then
    let chip := (a.extractLsb' 53 9).toNat
    decide (chip ≤ 287) || decide (chip = 0x1FF)
  else decide (a.extractLsb' 57 6 = 0)

/-- Where an address leads: a global address, a core's window or a cluster's window of this module, another module. -/
inductive Place where
  | glob (va : Nat)
  | core (core off : Nat)
  | clu (cluster off : Nat)
  | far (chip : Nat)
  deriving DecidableEq, Repr

/-- The place of an address used by core `me` of module `own` (01 R14, R16, R17, R21). -/
def placeOf (own me : Nat) (a : Word) : Place :=
  if a.getLsbD 63 = false then .glob (a.extractLsb' 0 57).toNat
  else
    let chip := (a.extractLsb' 53 9).toNat
    if chip ≠ 0x1FF ∧ chip ≠ own then .far chip
    else if a.getLsbD 62 then
      let c := (a.extractLsb' 39 14).toNat
      .clu (if chip = 0x1FF ∧ c = 0x3FFF then clusterOf me else c) (a.extractLsb' 0 39).toNat
    else
      let c := (a.extractLsb' 33 20).toNat
      .core (if chip = 0x1FF ∧ c = 0xFFFFF then me else c) (a.extractLsb' 0 33).toNat

/-- An address in the window spaces (bit 63 set). -/
def isWindow (a : Word) : Bool := a.getLsbD 63

/-- The first offset of the agent registers in a core window (01 R18). -/
def agentBase : Nat := 2 ^ 32

/-- A span of `n` bytes at `a` touches the agent-register range of a core window (05 R166). -/
def touchesAgent (a : Word) (n : Nat) : Bool :=
  a.getLsbD 63 && !a.getLsbD 62 &&
    decide ((a.extractLsb' 0 33).toNat < agentBase + 0x1000 ∧ agentBase < (a.extractLsb' 0 33).toNat + max n 1)

/-- Owner core and byte offset within its share of byte `off` of a cluster's scratchpad (01 R22). -/
def scratchOwner (cluster off : Nat) : Nat × Nat :=
  let w := off / 4
  (cluster * 64 + w % 64, w / 64 * 4 + off % 4)

/-- Whether a module of the domain can be reached over a link trained at both ends (18 R457). -/
def State.reachable (s : State) (chip : Nat) : Bool :=
  decide (s.bridge.links &&& (tget s.bridge.peers chip).getD 0 ≠ 0)

/-! ## Operands of commands -/

/-- A fault of a command operand (05 R162: kind 5, size 6). -/
def opTrap (cause : Byte) (addr : Word) : Trap := ⟨cause, addr, .command, 6⟩

/-- `check_cap` of a command operand. -/
def opCap (c : Reg) (perms : BitVec 14) (size : Nat) : Option Trap :=
  checkCap c perms (c.cursor.toNat : Int) size .command 6

/-- A cursor that must be a multiple of `n`, or 0x09. -/
def opAlign (c : Reg) (n : Nat) : Option Trap := need (decide (c.cursor.toNat % n = 0)) (opTrap 0x09 c.cursor)

/-- R23 check 3 on an operand's cursor, then the agent-register rule of 05 R166 for its span. -/
def opPlace (c : Reg) (n : Nat) : Option Trap :=
  firstOf [need (canonical c.cursor) (opTrap 0x16 c.cursor), need (!touchesAgent c.cursor n) (opTrap 0x28 c.cursor)]

/-- A reserved operand value (0x02). -/
def reservedIf (bad : Bool) : Option Trap := need (!bad) (plainTrap 0x02)

/-- A cell's capability and alignment checks (01 R37). -/
def cellCap (c : Reg) : List (Option Trap) :=
  let t (x : Byte) : Trap := ⟨x, c.cursor, .cell, 6⟩
  [(capCause c (permST ||| permAMO) c.cursor.toNat 16).map t, need (decide (c.cursor.toNat % 16 = 0)) (t 0x09)]

/-- R23 check 3 with the agent-register rule of 05 R166, for a cell. -/
def cellPlace (c : Reg) : List (Option Trap) :=
  let t (x : Byte) : Trap := ⟨x, c.cursor, .cell, 6⟩
  [need (canonical c.cursor) (t 0x16), need (!touchesAgent c.cursor 16) (t 0x28)]

/-- The completion-cell check whole (01 R37), with R23 check 3 and 05 R166 (log 47, DEDUCED). -/
def checkCell (c : Reg) : Option Trap := firstOf (cellCap c ++ cellPlace c)

/-- A cell without UNV under a non-root hypothesis, where the rule asks for it (0x20). -/
def cellUnv (hid : Nat) (c : Reg) : Option Trap := need (decide (hid = 0) || c.unv) ⟨0x20, c.cursor, .cell, 6⟩

/-- An operand without UNV under a non-root hypothesis (0x20). -/
def opUnv (hid : Nat) (c : Reg) : Option Trap := need (decide (hid = 0) || c.unv) (opTrap 0x20 c.cursor)

/-- R24 on an operand the command writes: a window under a non-root hypothesis needs UNV. -/
def opWindowUnv (hid : Nat) (c : Reg) : Option Trap :=
  need (decide (hid = 0) || !isWindow c.cursor || c.unv) (opTrap 0x20 c.cursor)

/-- R24 on a cell: a window cell under a non-root hypothesis needs UNV. -/
def cellWindowUnv (hid : Nat) (c : Reg) : Option Trap :=
  need (decide (hid = 0) || !isWindow c.cursor || c.unv) ⟨0x20, c.cursor, .cell, 6⟩

/-- The cell reference a command keeps. -/
def cellRef (c : Reg) : CellRef := ⟨c.cursor, c.hostBit, c.unv⟩

/-! ## Register operands (04 R115, R116) -/

/-- The registers of an instruction that may issue behind loads (04 R116): all must be available first (04 R115). The
others issue with nothing unretired, when every register is available. -/
def regsOf : Instr → List RegNo
  | .kget d _ => [d]
  | .kputFpcsr a | .kputFaultrec a | .kputPrio a | .kputWake a | .kputCarve a => [a]
  | .add d _ a b | .sub d _ a b | .and d _ a b | .or d _ a b | .xor d _ a b | .sll d _ a b | .srl d _ a b
  | .sra d _ a b | .slt d _ a b | .sltu d _ a b | .seq d _ a b | .sne d _ a b | .min d _ a b | .max d _ a b
  | .minu d _ a b | .maxu d _ a b | .mul d _ a b | .mulh d _ a b | .mulhu d _ a b | .div d _ a b | .divu d _ a b
  | .rem d _ a b | .remu d _ a b | .andn d _ a b | .orn d _ a b | .rol d _ a b | .ror d _ a b => [d, a, b]
  | .clz d _ a | .ctz d _ a | .popc d _ a | .bswap d _ a | .sextb d _ a | .sexth d _ a => [d, a]
  | .pack d a b => [d, a, b]
  | .hi d a => [d, a]
  | .addi d _ a _ | .andi d _ a _ | .ori d _ a _ | .xori d _ a _ | .slli d _ a _ | .srli d _ a _ | .srai d _ a _
  | .slti d _ a _ | .sltui d _ a _ | .seqi d _ a _ | .snei d _ a _ | .mini d _ a _ | .maxi d _ a _ | .minui d _ a _
  | .maxui d _ a _ | .muli d _ a _ | .roli d _ a _ | .rori d _ a _ => [d, a]
  | .li d _ | .lih d _ => [d]
  | .beq a b _ | .bne a b _ | .blt a b _ | .bge a b _ | .bltu a b _ | .bgeu a b _ => [a, b]
  | .btag a _ | .bntag a _ => [a]
  | .call d _ => [d]
  | .jr a => [a]
  | .callr d a => [d, a]
  | .cgetaddr d a | .cgetbase d a | .cgettop d a | .cgetlen d a | .cgetperm d a | .cgettag d a | .cseal d a
  | .cclrtag d a | .cmove d a => [d, a]
  | .csetaddr d a b | .cinc d a b | .csetbnd d a b | .csetbndx d a b | .candperm d a b | .cunseal d a b
  | .ctestsub d a b => [d, a, b]
  | .cinci d a _ | .csetbndi d a _ | .candpermi d a _ => [d, a]
  | .fadd d _ a b | .fsub d _ a b | .fmul d _ a b | .fdiv d _ a b | .fmin d _ a b | .fmax d _ a b | .fsgnj d _ a b
  | .fsgnjn d _ a b | .fsgnjx d _ a b | .feq d _ a b | .flt d _ a b | .fle d _ a b => [d, a, b]
  | .fsqrt d _ a | .fclass d _ a => [d, a]
  | .fma d _ a b c | .fms d _ a b c | .fnma d _ a b c | .fnms d _ a b c => [d, a, b, c]
  | .fcvt d _ _ _ a => [d, a]
  | .ldB d a _ _ _ _ | .ldH d a _ _ _ _ | .ldW d a _ _ _ _ => [d, a]
  | .ldD d a _ _ _ | .ldQ d a _ _ _ => [d, a]
  | .stB d a _ _ _ | .stH d a _ _ _ | .stW d a _ _ _ | .stD d a _ _ _ | .stQ d a _ _ _ => [d, a]
  | _ => []

end Sys2Proof.Machine
end

