-- ==== Sys2Proof/Machine/Translate.lean ====
section
/-!
DEFINITION. Sys2Proof/Machine/Translate.lean: the home hash, page tables, the translation cache and the steps of
09 R268. Table walks read LPDDR itself, past every cache (09 R264).
-/
namespace Sys2Proof.Machine

/-- A little-endian 8-byte word of memory, caches aside. -/
def memWord (m : Memory) (a : Nat) : Word := BitVec.ofNat 64 (leNat (memBytes m a 8))

/-! ## The partition's translation record (09 R258) -/

def Partition.word (p : Partition) (i : Nat) : Nat := (p.record.getD i 0).toNat
/-- Device physical address of the level-4 table. -/
def Partition.root (p : Partition) : Nat := p.word 0
def Partition.wbase (p : Partition) : Nat := p.word 1 % 2 ^ 14
/-- log2 of the home window's clusters, 0 to 14 (09 R256). -/
def Partition.wlog (p : Partition) : Nat := p.word 1 / 2 ^ 16 % 16
/-- Cycles an access is held at most; 0 means 2^22 (09 R258). -/
def Partition.holdLimit (p : Partition) : Nat := if p.word 2 % 2 ^ 32 = 0 then 2 ^ 22 else p.word 2 % 2 ^ 32
/-- Cycles a page request waits at most; none where the field is 0 (09 R258). -/
def Partition.reqLimit (p : Partition) : Option Nat :=
  if p.word 2 / 2 ^ 32 = 0 then none else some (p.word 2 / 2 ^ 32 * 65536)
def Partition.hasFaultQueue (p : Partition) : Bool := decide (p.word 3 ≠ 0)

/-- The home slice of a virtual address (09 R257). -/
def Partition.homeOf (p : Partition) (va : Nat) : Nat :=
  let h := va / 2 ^ 16
  p.wbase + (h ^^^ h / 2 ^ 14 ^^^ h / 2 ^ 28) % 2 ^ p.wlog

/-- The clusters of the home window (09 R256). -/
def Partition.window (p : Partition) : List Nat := (List.range (2 ^ p.wlog)).map (· + p.wbase)

/-! ## Table entries (09 R260 to R263) -/

def pteV (e : Word) : Bool := e.getLsbD 0
def pteRd (e : Word) : Bool := e.getLsbD 1
def pteWr (e : Word) : Bool := e.getLsbD 2
def pteDty (e : Word) : Bool := e.getLsbD 4
def pteLeaf (e : Word) : Bool := e.getLsbD 5
def pteCtg (e : Word) : Bool := e.getLsbD 6
def pteMig (e : Word) : Bool := e.getLsbD 7
def pteDsc (e : Word) : Bool := e.getLsbD 8
def pteNc (e : Word) : Bool := e.getLsbD 9
def pteTgt (e : Word) : Nat := (e.extractLsb' 10 2).toNat
def ptePpn (e : Word) : Nat := (e.extractLsb' 12 44).toNat
def pteKey (e : Word) : Nat := (e.extractLsb' 56 8).toNat

/-- log2 of the bytes a leaf at a level maps (09 R259). -/
def leafLg (lvl : Nat) (e : Word) : Nat := if lvl = 0 ∧ pteCtg e then 16 else 12 + 9 * lvl

/-- A key slot assigned to the partition (17 R451): slot 0 never through a leaf (log 49, DESIGN CHOICE). -/
def State.keyOk (s : State) (part key : Nat) : Bool :=
  decide (key ≠ 0) && (match tget s.steward.keys key with | some (p, _) => decide (p = part) | none => false)

/-- The page number of a leaf meets R261 for a leaf of 2^lg bytes. -/
def ppnOk (tgt ppn lg : Nat) : Bool :=
  match tgt with
  | 0 => decide (ppn % 2 ^ (lg - 12) = 0) && decide ((ppn + 2 ^ (lg - 12)) * 4096 ≤ dramEnd)
  | 3 => decide (ppn / 2 ^ 35 ≤ 287) && decide (ppn / 2 ^ 31 % 16 = 0)
  | _ => true

/-- A valid entry that is malformed at its level (09 R262). -/
def State.malformed (s : State) (part lvl : Nat) (e : Word) : Bool :=
  if pteLeaf e then
    decide (3 ≤ lvl) || (pteCtg e && decide (lvl ≠ 0)) || !ppnOk (pteTgt e) (ptePpn e) (12 + 9 * lvl)
      || !s.keyOk part (pteKey e)
  else
    decide (lvl = 0) || decide (e &&& ~~~0x00FFFFFFFFFFF001#64 ≠ 0) || decide (dramEnd ≤ ptePpn e * 4096)

/-- The end of a walk (09 R264). -/
inductive Walk where
  | leaf (lvl : Nat) (e : Word) (entryAt : Nat)
  | invalid (lvl : Nat) (e : Word) (ask : Bool)
  | bad (lvl : Nat) (e : Word)
  deriving DecidableEq, Repr

/-- The walk from table `t` at level `lvl` down, with the pointers it passed: (level, table below). -/
def State.walkFrom (s : State) (part va : Nat) : Nat → Nat → List (Nat × Nat) → Walk × List (Nat × Nat)
  | lvl, t, ps =>
    let entryAt := t + 8 * (va / 2 ^ (12 + 9 * lvl) % 512)
    let e := memWord s.mem entryAt
    if pteV e = false then (.invalid lvl e (pteRd e), ps)
    else if s.malformed part lvl e then (.bad lvl e, ps)
    else if pteLeaf e then (.leaf lvl e entryAt, ps)
    else
      match lvl with
      | 0 => (.bad 0 e, ps)
      | l + 1 => s.walkFrom part va l (ptePpn e * 4096) ((l + 1, ptePpn e * 4096) :: ps)

/-! ## The translation cache (09 R267) -/

/-- A cached leaf covers the address. -/
def TlbEntry.covers (t : TlbEntry) (part va : Nat) : Bool :=
  decide (t.part = part) && decide (t.base ≤ va) && decide (va < t.base + 2 ^ t.lg)

/-- The deepest cached pointer for the address: level of the table it names and that table. -/
def ptrStart (ps : List PtrEntry) (part va : Nat) : Nat → Option (Nat × Nat)
  | 0 => none
  | k + 1 =>
    -- k + 1 counts from 4 down: the level of the pointer examined is 4 - k, smallest first
    match ps.find? (fun e => e.part = part ∧ e.level = 4 - k ∧ e.tag = va / 2 ^ (12 + 9 * (4 - k))) with
    | some e => some (3 - k, e.table)
    | none => ptrStart ps part va k

/-- A full walk, from the deepest cached pointer (09 R268 step 1). -/
def State.walk (s : State) (part va : Nat) (cached : Bool) : Walk × List (Nat × Nat) :=
  let p := (tget s.parts part).map Partition.root |>.getD 0
  let cl := s.cluster ((tget s.parts part).map (fun p => p.homeOf va) |>.getD 0)
  match if cached then ptrStart cl.ptrs part va 4 else none with
  | some (lvl, t) => s.walkFrom part va lvl t [(lvl + 1, t)]
  | none => s.walkFrom part va 4 p []

/-- Most recently used first, at most `n` kept. -/
def lruPut {α : Type} (same : α → Bool) (n : Nat) (l : List α) (x : α) : List α :=
  (x :: l.filter (fun y => !same y)).take n

/-- The pointers of a walk enter the cache of the home slice. -/
def State.notePtrs (s : State) (cl part va : Nat) (ps : List (Nat × Nat)) : State :=
  let k := s.cluster cl
  s.setCluster cl { k with ptrs := ps.foldl (fun l (lvl, t) =>
    lruPut (fun e => e.part = part ∧ e.level = lvl ∧ e.tag = va / 2 ^ (12 + 9 * lvl)) 512 l
      ⟨part, lvl, va / 2 ^ (12 + 9 * lvl), t⟩) k.ptrs }

/-- What an access is for the checks of 09 R268: a read or fetch, a write, a watch arming, an atomic that counts as a write,
an `lres`, which counts as a read (07 R201), a cache-control member that counts as a read or as a write (08 R248). -/
inductive TKind where | read | write | watch | amo | lres | ccRead | ccWrite
  deriving DecidableEq, Repr

/-- The outcome of 09 R268 steps 1 to 6: a target address with the leaf used, zeros of a discarded page, a fault, a page
being moved, or a page to be requested. -/
inductive Trans where
  | ok (pa : Nat) (e : Word)
  | zeros
  | fault (cause : Byte)
  | migrating
  | ask (lvl : Nat) (e : Word)
  deriving DecidableEq, Repr

/-- The target address of `va` under a leaf of 2^lg bytes (09 R261, R263). -/
def leafTarget (e : Word) (lg va : Nat) : Nat :=
  (if lg = 16 then ptePpn e / 16 * 16 else ptePpn e) * 4096 + va % 2 ^ lg

/-- Accesses that need wr and fault on a discarded page. -/
def TKind.writes : TKind → Bool
  | .write | .amo | .ccWrite => true
  | _ => false

/-- Accesses that set dty (09 R265, 08 R248). -/
def TKind.dirties : TKind → Bool
  | .write | .amo => true
  | _ => false

/-- Cache control, which reaches no page beyond the device and CXL host memory (08 R247). -/
def TKind.cc : TKind → Bool
  | .ccRead | .ccWrite => true
  | _ => false

/-- Accesses that no PCIe host page takes (07 R203, R206). -/
def TKind.noPcie : TKind → Bool
  | .watch | .amo | .lres => true
  | _ => false

/-- Steps 4 and 6 on a leaf that is neither moving nor discarded. -/
def leafDenied (e : Word) (kind : TKind) : Option Byte :=
  if kind.writes then (if pteWr e then none else some 0x11)
  else if pteRd e then none else some 0x10

/-- Step 4: a host page needs HOST; a watch or an atomic on a PCIe page never passes (07 R203, R206). -/
def hostDenied (e : Word) (kind : TKind) (host : Bool) : Bool :=
  ((pteTgt e == 1 || pteTgt e == 2) && !host) || (pteTgt e == 2 && kind.noPcie)

/-- Where the entry of the accessed 4 KiB page stands, from the entry that a cached 64 KiB leaf was built from. -/
def entryOf (t : TlbEntry) (va : Nat) : Nat :=
  if t.lg = 16 then t.pteAt / 128 * 128 + 8 * (va / 4096 % 16) else t.pteAt

/-- Outcome of a walk's leaf: steps 3 to 6. -/
def leafOutcome (e : Word) (lg va : Nat) (kind : TKind) (host : Bool) : Trans :=
  if pteMig e then .migrating
  else if hostDenied e kind host then .fault 0x08
  else if pteDsc e then (if kind.writes then .fault 0x12 else .zeros)
  else match leafDenied e kind with
    | some c => .fault c
    | none => .ok (leafTarget e lg va) e

/-- What the walk alone gives (09 R268 steps 1 to 6), nothing changed: the outcome and the walk. -/
def State.walkOutcome (s : State) (part va : Nat) (kind : TKind) (host : Bool) : Trans :=
  match (s.walk part va true).1 with
  | .leaf lvl e _ => leafOutcome e (leafLg lvl e) va kind host
  | .invalid lvl e ask =>
    if ask ∧ ((tget s.parts part).map Partition.hasFaultQueue).getD false then .ask lvl e else .fault 0x10
  | .bad _ _ => .fault 0x10

/-- The translation an access would use now, nothing changed: for a hit in an L1, whose copy needs no request
(08 R227). -/
def State.peekTrans (s : State) (part va : Nat) (kind : TKind) (host : Bool) : Trans :=
  match tget s.parts part with
  | none => .fault 0x10
  | some p =>
    match (s.cluster (p.homeOf va)).tlb.find? (fun t => t.covers part va) with
    | some t =>
      if hostDenied t.pte kind host then .fault 0x08
      else match leafDenied t.pte kind with
        | none => .ok (leafTarget t.pte t.lg va) t.pte
        | some _ => s.walkOutcome part va kind host
    | none => s.walkOutcome part va kind host

/-- The leaf that maps an address now, in the cache or in the tables, whatever its bits say, and the target address. -/
def State.leafNow (s : State) (part va : Nat) : Option (Word × Nat) :=
  match tget s.parts part with
  | none => none
  | some p =>
    match (s.cluster (p.homeOf va)).tlb.find? (fun t => t.covers part va) with
    | some t => some (t.pte, leafTarget t.pte t.lg va)
    | none => (match (s.walk part va true).1 with
      | .leaf lvl e _ => some (e, leafTarget e (leafLg lvl e) va)
      | _ => none)

/-- Whether the address stands in device memory, host memory over CXL or this module's memory through tgt 3: then the flat
address of its bytes (17 R445, 18 R462) (log 48, DESIGN CHOICE). -/
def State.flatOf (s : State) (pa : Nat) (e : Word) : Option Nat :=
  match pteTgt e with
  | 0 => some pa
  | 1 => some (flatHost pa)
  | 3 => if pa / 2 ^ 47 = s.bridge.chip then some (pa % 2 ^ 43) else none
  | _ => none

/-- No partition has this number: it stands for parties that name memory by its flat address. -/
def noPart : Nat := 2 ^ 32

/-- The flat line a virtual line stands in now, if it stands in one. -/
def State.flatLine (s : State) (part line : Nat) : Option Nat :=
  if part = noPart then some line else
  match s.peekTrans part (64 * line) .read true with
  | .ok pa e => (s.flatOf pa e).map (· / 64)
  | _ => none

/-- Some L1, victim pool or slice data part holds the flat line. -/
def State.cachedSomewhere (s : State) (f : Nat) : Bool :=
  s.cores.any (fun (_, k) => (k.l1 ++ k.victims).any (fun l => decide (s.flatLine l.part l.line = some f)))
    || s.clusters.any (fun (_, k) => k.data.any (fun l => decide (s.flatLine l.part l.line = some f)))

/-- Memory is about to change under a line that caches hold: what they hold stays as it is (09 R265). -/
def State.keepCached (s : State) (f : Nat) : State :=
  if (tget s.dirty f).isNone && s.cachedSomewhere f then { s with dirty := tput s.dirty f { s.cachedLine f with clean := true } }
  else s

/-- Sets a bit of the entry at a device address by an atomic OR that fires no watch and clears no tag; caches that hold the
line do not see it (09 R265). -/
def State.orEntry (s : State) (entryAt : Nat) (bits : Word) : State :=
  let s := if memWord s.mem entryAt ||| bits = memWord s.mem entryAt then s else s.keepCached (entryAt / 64)
  { s with mem := memPutAll s.mem entryAt (leBytes 8 ((memWord s.mem entryAt ||| bits).toNat)) }

/-- A walk with its effects: pointers cached, acc set and the leaf cached when it may be (09 R265, R267). -/
def State.walkAndCache (s : State) (part va : Nat) (kind : TKind) (host : Bool) : State × Trans :=
  let cl := ((tget s.parts part).map (fun p => p.homeOf va)).getD 0
  let (w, ps) := s.walk part va true
  let out := s.walkOutcome part va kind host
  let s := s.notePtrs cl part va ps
  match w with
  | .leaf lvl e entryAt =>
    if pteMig e ∨ pteDsc e then (s, out)
    else
      let s := s.orEntry entryAt 8#64
      let k := s.cluster cl
      let lg := leafLg lvl e
      (s.setCluster cl { k with tlb := lruPut (fun t => t.covers part va) 4096 k.tlb
                                          ⟨part, va / 2 ^ lg * 2 ^ lg, lg, e, entryAt, pteDty e⟩ }, out)
  | _ => (s, out)

/-- Step 7's dty on a write through a cached translation whose dty is clear (09 R265). -/
def State.noteDirty (s : State) (part va : Nat) : State :=
  let cl := ((tget s.parts part).map (fun p => p.homeOf va)).getD 0
  let k := s.cluster cl
  match k.tlb.find? (fun t => t.covers part va) with
  | some t =>
    if t.dty then s
    else
      (s.setCluster cl { k with tlb := lruPut (fun t => t.covers part va) 4096 k.tlb { t with dty := true } }).orEntry
        (entryOf t va) 16#64
  | none => s

/-- 09 R268: translates an access to `va` of a partition, steps 1 to 7. `dty`: the access sets the dirty bit (a write or
atomic; not `cc.inv`, 08 R248). A partition that is not set up has no tables: 0x10. -/
def State.translate (s : State) (part va : Nat) (kind : TKind) (host dty : Bool) : State × Trans :=
  match tget s.parts part with
  | none => (s, .fault 0x10)
  | some p =>
    let cl := p.homeOf va
    let k := s.cluster cl
    let finish (r : State × Trans) : State × Trans :=
      match r.2 with
      | .ok _ _ => (if dty then r.1.noteDirty part va else r.1, r.2)
      | _ => r
    match k.tlb.find? (fun t => t.covers part va) with
    | some t =>
      let used := s.setCluster cl { k with tlb := lruPut (fun t => t.covers part va) 4096 k.tlb t }
      if hostDenied t.pte kind host then (used, .fault 0x08)
      else match leafDenied t.pte kind with
        | none => finish (used, .ok (leafTarget t.pte t.lg va) t.pte)
        | some _ =>
          -- a denial from a cached translation is made only after another walk (09 R268)
          let k' := { k with tlb := k.tlb.filter (fun t => !t.covers part va) }
          finish ((s.setCluster cl k').walkAndCache part va kind host)
    | none => finish (s.walkAndCache part va kind host)

/-- Lines of a leaf that L1s and slices may hold: device and CXL host pages with nc clear (08 R228, 09 R266, 18 R462). -/
def cacheable (e : Word) : Bool := (pteTgt e == 0 || pteTgt e == 1) && !pteNc e

/-- Drops the cached leaves and pointers that a range invalidation names (09 R280), in every slice of the window. -/
def State.dropTranslations (s : State) (part : Nat) (hit : TlbEntry → Bool) : State :=
  { s with clusters := s.clusters.map (fun (n, k) =>
      (n, { k with tlb := k.tlb.filter (fun t => !(t.part = part ∧ hit t)), ptrs := k.ptrs.filter (fun e => e.part ≠ part) })) }

end Sys2Proof.Machine
end

