-- ==== Sys2Proof/Machine/Context.lean ====
section
/-!
DEFINITION. Sys2Proof/Machine/Context.lean: the control registers as words (04 R111, R112), the context block's image
(05 R132 to R135), and authority entries with the rights they give (05 R140 to R143).
-/
namespace Sys2Proof.Machine

/-! ## Control registers as words (04 R112) -/

def Thread.kHyp (t : Thread) : Word := BitVec.ofNat 64 (t.depth % 16 * 4096 + t.hid % 4096)
/-- Valid entries of the authority table. -/
def Thread.authValid (t : Thread) : Nat := (t.auth.filter (fun e => e.extractLsb' 8 4 ≠ 0#4)).length
def Thread.kAuth (t : Thread) : Word := t.authGen ++ BitVec.ofNat 32 t.authValid
def Thread.kPrio (t : Thread) : Word := BitVec.ofNat 64 (t.ceil * 256 + t.cls)
def Thread.kWake (t : Thread) : Word := BitVec.ofNat 64 ((if t.pend then 256 else 0) + t.fired.toNat)

/-! ## The state word (05 R135) -/

def TState.code : TState → Nat
  | .free => 0 | .ready => 1 | .running => 2 | .sleeping => 3 | .faulted => 4 | .stopped => 5 | .orphaned => 6 | .exited => 7

def Tier.code : Tier → Nat
  | .resident => 0 | .warm => 1 | .parked => 2 | .stowed => 3

def AKind.code : AKind → Nat
  | .none => 0 | .load => 1 | .store => 2 | .atomic => 3 | .fetch => 4 | .command => 5 | .cell => 6 | .watch => 7

def Thread.stateWord (t : Thread) : Word :=
  BitVec.ofNat 64 (t.ovf % 2 ^ 32 * 2 ^ 32 + t.last.toNat * 256 + (if t.held then 32 else 0) + t.tier.code * 8 + t.state.code)

/-- Valid mask of the store-fault queue: entries stand at the lowest places (05 R134). -/
def Thread.sfMask (t : Thread) : Nat := 2 ^ (min t.sfq.length 4) - 1

/-! ## The context block (05 R132) -/

def quadBytes (q : Quad) : List Byte := leBytes 16 q.toNat
def wordBytes (w : Word) : List Byte := leBytes 8 w.toNat
def zeroBytes (n : Nat) : List Byte := List.replicate n 0

/-- A watch-set entry (05 R133). -/
def WatchSlot.bytes (w : WatchSlot) : List Byte :=
  leBytes 8 (w.line * 64 % 2 ^ 64 + (if w.armed then 1 else 0)) ++ wordBytes w.seq

/-- A store-fault queue entry, 32 bytes (05 R134). -/
def SfEntry.bytes (e : SfEntry) : List Byte :=
  wordBytes e.addr ++ quadBytes e.data ++
    leBytes 8 (e.width % 16 + 16 + (if e.tag then 32 else 0) + e.cause.toNat * 256 + e.hid % 4096 * 2 ^ 16 + e.depth % 16 * 2 ^ 28)

/-- The tag word: bit i the tag of ci, bit 32 the tag of pcc. -/
def Thread.tagWord (t : Thread) : Nat :=
  (List.range 32).foldl (fun n i => n + if i ≠ 0 ∧ (t.regs.getD i Reg.zero).tag then 2 ^ i else 0) 0
    + if t.pcc.tag then 2 ^ 32 else 0

/-- The hot half of a thread's context block, 1 KiB. -/
def Thread.hotImage (t : Thread) (tid : Nat) : List Byte :=
  (List.range 32).flatMap (fun i => quadBytes (t.reg (BitVec.ofNat 5 i)).bits)
    ++ leBytes 8 t.tagWord ++ zeroBytes 8 ++ quadBytes t.pcc.bits
    ++ leBytes 8 tid ++ leBytes 8 t.lcore.toNat ++ wordBytes t.seed ++ wordBytes t.kHyp ++ wordBytes t.fpcsr
    ++ wordBytes t.faultrec ++ wordBytes t.kAuth ++ wordBytes t.kPrio ++ wordBytes t.kWake ++ zeroBytes 24
    ++ (List.range 32).flatMap (fun i => wordBytes (t.auth.getD i 0))
    ++ (List.range 8).flatMap (fun i => (t.watch.getD i ⟨false, 0, 0⟩).bytes)

/-- The parent field: chip and thread number, zero for a launched thread. -/
def Thread.parentWord (t : Thread) : Nat := t.parentChip % 512 * 2 ^ 28 + t.parentTid % 2 ^ 28

/-- The used part of the cold half, 160 bytes from 0x400. -/
def Thread.coldImage (t : Thread) : List Byte :=
  ((t.sfq.take 4).flatMap SfEntry.bytes ++ zeroBytes (32 * (4 - t.sfq.length)))
    ++ wordBytes t.stateWord ++ wordBytes t.nextSeq ++ leBytes 8 (t.load % 2 ^ 32) ++ leBytes 8 t.parentWord

/-- A whole context image, 2 KiB (05 R153). -/
def Thread.image (t : Thread) (tid : Nat) : List Byte := t.hotImage tid ++ t.coldImage ++ zeroBytes 864

/-- A word of an image. -/
def imgWord (img : List Byte) (off : Nat) : Word := BitVec.ofNat 64 (leNat ((img.drop off).take 8))
/-- A quad of an image. -/
def imgQuad (img : List Byte) (off : Nat) : Quad := BitVec.ofNat 128 (leNat ((img.drop off).take 16))

/-! ## Authority (05 R140 to R143) -/

def rSTOP : Byte := 1
def rSTART : Byte := 2
def rREAD : Byte := 4
def rREWRITE : Byte := 8
def rGRANT : Byte := 16
def rFLAGS : Byte := 32
def rSPAWN : Byte := 64

def entChip (e : Word) : Nat := (e.extractLsb' 48 9).toNat
def entTarget (e : Word) : Nat := (e.extractLsb' 16 32).toNat
def entKind (e : Word) : Nat := (e.extractLsb' 8 4).toNat
def entRights (e : Word) : Byte := e.extractLsb' 0 8

/-- Two chip fields agree: 0x1FF is read as the holder's own module (05 R142). -/
def chipAgrees (own a b : Nat) : Bool :=
  decide ((if a = 0x1FF then own else a) = (if b = 0x1FF then own else b))

/-- An entry as it is kept: its reserved bits read as zero (00 R9, 05 R140) (log 106, DEDUCED). -/
def entKept (e : Word) : Word := e &&& 0x01FFFFFFFFFF0FFF#64

/-- An entry that is malformed under 05 R158. -/
def entBad (e : Word) : Bool :=
  let k := entKind e
  let above := match k with
    | 1 => entTarget e / 2 ^ 28 | 2 => entTarget e / 2 ^ 20 | 4 => entTarget e / 2 ^ 14 | 5 => entTarget e / 2 ^ 28 | _ => 0
  decide (k = 0) || decide (6 ≤ k) || decide (entRights e = 0) || (entRights e).getLsbD 7
    || ((entRights e).getLsbD 5 && decide (k ≠ 4)) || decide (above ≠ 0)
    || (decide (287 < entChip e) && decide (entChip e ≠ 0x1FF))

/-- An entry of kind 1, 2 or 4 covers thread `tid` of chip `chip` (decided from numbers alone, 05 R142). -/
def entCoversHere (own chip tid : Nat) (e : Word) : Bool :=
  chipAgrees own (entChip e) chip &&
    (match entKind e with
     | 1 => decide (entTarget e = tid)
     | 2 => decide (entTarget e = tid / 256)
     | 4 => decide (entTarget e = clusterOf (tid / 256))
     | _ => false)

/-- An entry of kind 3 or 5 covers a thread of module `chip` whose load number and parent field (05 R132) are given
(decided at the target, 05 R142). -/
def entCoversThere (own chip load parent : Nat) (e : Word) : Bool :=
  chipAgrees own (entChip e) chip &&
    (match entKind e with
     | 3 => decide (entTarget e = load)
     | 5 => decide (parent = chip % 512 * 2 ^ 28 + entTarget e)
     | _ => false)

/-- The entry carries every right of `r`. -/
def entHas (r : Byte) (e : Word) : Bool := decide (r &&& ~~~entRights e = 0)

/-- E is contained in G (05 R143), for an entry G held on module `own` and an E to be held on module `theirs`, from where its
chip of 0x1FF is read (R158). -/
def entContains (own theirs : Nat) (g e : Word) : Bool :=
  let gt := entTarget g
  let et := entTarget e
  decide (entRights e &&& ~~~entRights g = 0) &&
    decide ((if entChip g = 0x1FF then own else entChip g) = (if entChip e = 0x1FF then theirs else entChip e)) &&
    (match entKind e with
     | 1 => (entKind g = 1 ∧ gt = et) ∨ (entKind g = 2 ∧ gt = et / 256) ∨ (entKind g = 4 ∧ gt = clusterOf (et / 256))
     | 2 => (entKind g = 2 ∧ gt = et) ∨ (entKind g = 4 ∧ gt = clusterOf et)
     | 3 => (entKind g = 3 ∧ gt = et) ∨ (entKind g = 4 ∧ gt = et / 2 ^ 18)
     | 4 => entKind g = 4 ∧ gt = et
     | 5 => (entKind g = 5 ∧ gt = et) ∨ (entKind g = 4 ∧ gt = clusterOf (et / 256))
     | _ => False : Bool)

/-- The thread holds right `r` over thread `tid` of this module, its load and parent known (05 R142). -/
def Thread.mayOver (t : Thread) (own tid load parent : Nat) (r : Byte) : Bool :=
  t.auth.any (fun e => entHas r e && (entCoversHere own own tid e || entCoversThere own own load parent e))

/-- Right `r` over a thread of this module that stands in its slot. -/
def State.mayOver (s : State) (issuer target : Nat) (r : Byte) : Bool :=
  match s.thread? issuer, s.thread? target with
  | some t, some u => t.mayOver s.bridge.chip target u.load u.parentWord r
  | _, _ => false

/-- A thread with every register zero and nothing pending, ready in the park tier: what installation starts from
(06 R181, 05 R155) (log 98, DEDUCED). -/
def Thread.blank : Thread :=
  { state := .ready, tier := .parked, part := 0, load := 0, parentChip := 0, parentTid := 0
    regs := List.replicate 32 Reg.zero, pcc := Reg.zero, line := none, lcore := 0, seed := 0, life := 0, hid := 0, depth := 0
    fpcsr := 0, faultrec := 0, ctx := 0, ctxHost := false, authGen := 0, auth := List.replicate 32 0, cls := 0, ceil := 0
    pend := false, fired := 0, watch := List.replicate 8 ⟨false, 0, 0⟩, sfq := [], ovf := 0, last := 0, held := false
    nextSeq := 1, resv := none, window := [], stores := [], order := 0, wait := .none, fault := none, ask := .none
    hidden := none, hiddenFired := false, unionPend := [], latch := ⟨0, 0, 0, 0, 0⟩, leaving := false, justYielded := 0
    since := 0, lastIssue := 0 }

end Sys2Proof.Machine
end

