-- ==== Sys2Proof/Machine/Slice.lean ====
section
/-!
DEFINITION. Sys2Proof/Machine/Slice.lean: reads and writes at their points of coherence (07 R188): hypothesis views and
versions (15 R404 to R409), watches and reservations (07 R201, R208), copies in caches and the directory (08), and local
memory (01 R18 to R22).
-/
namespace Sys2Proof.Machine

/-! ## Hypothesis views (15 R388, R406) -/

/-- The node an ID stands for: merged nodes lead to the node they merged into (15 R388). -/
def effectiveIn (nodes : Table HypNode) : Nat → Nat → Nat
  | 0, id => id
  | fuel + 1, id =>
    match tget nodes id with
    | some n => if n.state = .merged then effectiveIn nodes fuel n.parent else id
    | none => id

/-- The nodes of a partition's tree. -/
def State.nodes (s : State) (part : Nat) : Table HypNode := ((tget s.parts part).map Partition.nodes).getD []

def State.effective (s : State) (part hid : Nat) : Nat := effectiveIn (s.nodes part) 4096 hid

/-- The ID's effective node is refuted. -/
def State.refuted (s : State) (part hid : Nat) : Bool :=
  match tget (s.nodes part) (s.effective part hid) with
  | some n => n.state == .refuted
  | none => false

/-- Nodes from `id` up to the root, the root left out. -/
def pathIn (nodes : Table HypNode) : Nat → Nat → List Nat
  | 0, _ => []
  | fuel + 1, id =>
    if id = 0 then []
    else match tget nodes id with
      | some n => id :: pathIn nodes fuel (effectiveIn nodes 4096 n.parent)
      | none => [id]

/-- The path of a view: its effective node and that node's ancestors below the root. -/
def State.viewPath (s : State) (part hid : Nat) : List Nat :=
  if hid = 0 then [] else pathIn (s.nodes part) 17 (s.effective part hid)

/-- The version line of a node at a slice. -/
def Cluster.version? (k : Cluster) (part line hid : Nat) : Option VersionLine :=
  k.versions.find? (fun v => v.part = part ∧ v.line = line ∧ v.hid = hid)

/-- The nearest node of a path whose version masks byte `y` of the line, 0 for the root (15 R406). -/
def Cluster.holder (k : Cluster) (part line y : Nat) : List Nat → Nat
  | [] => 0
  | h :: r =>
    match k.version? part line h with
    | some v => if (v.bytes.getD y none).isSome then h else k.holder part line y r
    | none => k.holder part line y r

/-- A byte as a view sees it, from the root's byte. -/
def Cluster.viewByte (k : Cluster) (part line : Nat) (path : List Nat) (y : Nat) (root : Byte) : Byte :=
  let h := k.holder part line y path
  if h = 0 then root else ((k.version? part line h).bind (fun v => v.bytes.getD y none)).getD root

/-- The memory tag of quad `q` of a line as a view sees it: the version's where one version gives all 16 bytes, the root's
where none gives any, else clear (15 R415). -/
def Cluster.viewTag (k : Cluster) (part line : Nat) (path : List Nat) (q : Nat) (root : Bool) : Bool :=
  let hs := (List.range 16).map (fun i => k.holder part line (16 * q + i) path)
  match hs.eraseDups with
  | [0] => root
  | [h] => ((k.version? part line h).map (fun v => v.tags.getD q false)).getD false
  | _ => false

/-- Any version of the line at the slice. -/
def Cluster.hasVersion (k : Cluster) (part line : Nat) : Bool :=
  k.versions.any (fun v => v.part = part ∧ v.line = line)

/-! ## Watches and reservations -/

/-- A unit (partition, virtual line) is the line written: named by the writer's own partition, or by another partition
that maps the same memory (01 R15: shared pages). -/
def State.sameLine (s : State) (part line flat part' line' : Nat) : Bool :=
  (decide (part' = part) && decide (line' = line)) || (decide (part' ≠ part) && decide (s.flatLine part' line' = some (flat / 64)))

/-- Records of a unit fired by a write that `sees` says each of them can see: those records leave; the sequence rises by
one (07 R208, 08 R245). -/
def WatchUnit.fire (w : WatchUnit) (sees : WatchRec → Bool) : WatchUnit × List WatchRec :=
  ({ w with seq := w.seq + 1, recs := w.recs.filter (fun r => !sees r) }, w.recs.filter sees)

/-- Units with no record are forgotten with their sequence (07 R206). -/
def liveUnits (ws : List WatchUnit) : List WatchUnit := ws.filter (fun w => decide (w.recs ≠ []))

/-- Sends a firing to its thread: over the link when it is another module's (18 R462). -/
def State.sendFiring (s : State) (line : Nat) (r : WatchRec) : State :=
  if r.chip = s.bridge.chip then { s with firings := s.firings ++ [⟨r.tid, r.slot, r.hidden, line⟩] }
  else s.emit (.toPeer r.chip (BitVec.ofNat 64 (64 * line)) 0)

/-- Fires the watches of a global line at every slice that holds some (07 R208, 08 R245, R246). `sees` gives, for a
record's partition and hypothesis, whether the write is visible to it; `wh` is the writer's hypothesis and depth. -/
def State.fireGlobal (s : State) (part line flat : Nat) (sees : Nat → Nat → Bool) (wh : Nat × Nat) : State :=
  s.clusters.foldl (fun s (cl, k) =>
    let hit (p l : Nat) : Bool := s.sameLine part line flat p l
    if k.watches.any (fun w => hit w.part w.unit) || k.ovfLines.any (fun o => hit o.part o.line) then
      let fired := k.watches.flatMap (fun w =>
        if hit w.part w.unit then (w.fire (fun r => sees w.part r.hid)).2.map (fun r => (w.unit, r)) else [])
      let ws := k.watches.map (fun w => if hit w.part w.unit then (w.fire (fun r => sees w.part r.hid)).1 else w)
      let ovf := k.ovfLines.map (fun o => if hit o.part o.line then { o with seq := o.seq + 1 } else o)
      let q := k.ovfLines.flatMap (fun o => if hit o.part o.line then
        [⟨5, BitVec.ofNat 64 (64 * o.line), BitVec.ofNat 64 (o.seq + 1), 0, 0, false, wh.1, wh.2, false, 0, 0⟩] else [])
      let s := s.setCluster cl { k with watches := liveUnits ws, ovfLines := ovf, ovfQ := k.ovfQ ++ q }
      fired.foldl (fun s (l, r) => s.sendFiring l r) s
    else s) s

/-- Fires the watches of local memory on the units given: 64-byte lines of TCM by their flat address, scratch pairs by the
flat address of the lower word, whose record stands half at each word's owner (07 R206). Local memory is not versioned, so
every record sees the write. -/
def State.fireLocal (s : State) (units : List Nat) : State :=
  let hit (w : WatchUnit) : Bool := units.contains w.unit
  if s.cores.any (fun (_, k) => k.watches.any hit) then
    let fired := (s.cores.flatMap (fun (_, k) =>
      k.watches.flatMap (fun w => if hit w then w.recs.map (fun r => (w.unit / 64, r)) else []))).eraseDups
    let s : State := { s with cores := s.cores.map (fun (c, k) => (c, { k with watches := k.watches.filter (fun w => !hit w) })) }
    fired.foldl (fun s (l, r) => s.sendFiring l r) s
  else s

/-- Drops every reservation that a write loses, of this module's threads and of others (07 R201). -/
def State.dropResv (s : State) (hit : Resv → Bool) : State :=
  let s : State := if s.bridge.peerResv.any (fun v => hit v.resv) then
      { s with bridge := { s.bridge with peerResv := s.bridge.peerResv.filter (fun v => !hit v.resv) } }
    else s
  s.allThreads.foldl (fun s (tid, t) =>
    match t.resv with
    | some r => if hit r then s.modThread tid (fun t => { t with resv := none }) else s
    | none => s) s

/-- Another thread's `lres` hold on the unit is in force (07 R202). -/
def State.heldByOther (s : State) (me : Option Nat) (hit : Resv → Bool) : Bool :=
  s.allThreads.any (fun (tid, t) =>
    decide (some tid ≠ me) && (match t.resv with | some r => hit r && decide (s.cycle < r.holdEnd) | none => false))
    || s.bridge.peerResv.any (fun v => hit v.resv && decide (s.cycle < v.resv.holdEnd))

/-- A thread of another module holds a reservation of that address and width (07 R201). -/
def State.peerReserved (s : State) (chip tid : Nat) (addr : Word) (len : Nat) : Bool :=
  s.bridge.peerResv.any (fun v => decide (v.chip = chip ∧ v.tid = tid ∧ v.resv.addr = addr ∧ v.resv.width = len))

/-- A thread of another module holds no reservation here. -/
def State.dropPeerResv (s : State) (chip tid : Nat) : State :=
  { s with bridge := { s.bridge with peerResv := s.bridge.peerResv.filter (fun v => !decide (v.chip = chip ∧ v.tid = tid)) } }

/-- A thread of another module takes its single reservation, with the hold of 128 cycles (07 R201, R202). -/
def State.addPeerResv (s : State) (chip tid : Nat) (r : Resv) : State :=
  let s := s.dropPeerResv chip tid
  { s with bridge := { s.bridge with peerResv := s.bridge.peerResv ++ [⟨chip, tid, { r with holdEnd := s.cycle + 128 }⟩] } }

/-- A reservation on the global line. -/
def State.resvOnLine (s : State) (part line flat : Nat) (r : Resv) : Bool :=
  r.glob && s.sameLine part line flat r.part (r.start / 64)

/-- A reservation on any of the flat bytes `[a, a + n)` of local memory. -/
def resvOnFlat (a n : Nat) (r : Resv) : Bool := !r.glob && decide (r.start < a + n) && decide (a < r.start + r.len)

/-! ## Copies in L1s and slices -/

/-- Keeps the L1 copies that the test lets stay, in every core. -/
def State.filterL1 (s : State) (keep : Nat → L1Line → Bool) : State :=
  { s with cores := s.cores.map (fun (c, k) => (c, { k with l1 := k.l1.filter (keep c), victims := k.victims.filter (keep c) })) }

/-- Every L1 copy of a line goes, whatever its ID (15 R408). -/
def State.dropCopies (s : State) (part line : Nat) : State :=
  s.filterL1 (fun _ l => !(l.part = part ∧ l.line = line))

/-- The tracked unit that holds a line. -/
def Cluster.unit? (k : Cluster) (part line : Nat) : Option DirUnit :=
  k.dir.find? (fun u => u.part = part ∧ u.base ≤ line ∧ line < u.base + 2 ^ u.k)

/-- The entries a split of `u` down to `line` makes, without the single line itself (08 R232). -/
def splitHalves (u : DirUnit) (line : Nat) : Nat → List DirUnit
  | 0 => []
  | j + 1 =>
    let base := line / 2 ^ (j + 1) * 2 ^ (j + 1)
    let lo := line / 2 ^ j * 2 ^ j
    { u with base := if lo = base then base + 2 ^ j else base, k := j } :: splitHalves u line j

/-- The directory with the line's unit split to the line and that line untracked (08 R229, R232). -/
def untrackLine (dir : List DirUnit) (part line : Nat) : List DirUnit :=
  dir.flatMap (fun u =>
    if u.part = part ∧ u.base ≤ line ∧ line < u.base + 2 ^ u.k then splitHalves u line u.k else [u])

/-- The entry holds the line. -/
def DirUnit.has (u : DirUnit) (part line : Nat) : Bool := decide (u.part = part ∧ u.base ≤ line ∧ line < u.base + 2 ^ u.k)

/-- An invalidation of the unit must wait for the darner's ticket (08 R237); on a lost unit it is done by broadcast (R244). -/
def DirUnit.needsTicket (u : DirUnit) : Bool :=
  match u.state with
  | .shared _ _ true false => true
  | _ => false

/-- The home slice of a line of a partition. -/
def State.homeOfLine (s : State) (part line : Nat) : Nat := ((tget s.parts part).map (fun p => p.homeOf (64 * line))).getD 0

/-- Some core's L1 holds the line modified. -/
def State.modifiedInL1 (s : State) (part line : Nat) : Bool :=
  s.cores.any (fun (_, k) => k.l1.any (fun l => l.part = part ∧ l.line = line ∧ l.state = .M))

/-- The slice's data part holds the line. -/
def Cluster.holdsData (k : Cluster) (part line : Nat) : Bool := k.data.any (fun l => l.part = part ∧ l.line = line)

/-- Modified data that leaves an L1 goes to the slice when it holds the line, else to memory. -/
def State.spill (s : State) (part line : Nat) : State :=
  if (s.cluster (s.homeOfLine part line)).holdsData part line then s
  else match s.flatLine part line with
    | some f => s.writeBack f
    | none => s

/-- The pointer by which a core's shared copies are named (08 R253). -/
def State.ptrOf (s : State) (core : Nat) : Ptr := if (s.core core).pooled then .group (groupOf core) else .core core

/-- The cores a pointer reaches: every L1 part and victim line of the group for a group pointer, and for a core that has
joined its group's pool since. -/
def State.ptrCores (s : State) : Ptr → List Nat
  | .core c => if (s.core c).pooled then (List.range 16).map (· + 16 * groupOf c) else [c]
  | .group g => (List.range 16).map (· + 16 * g)

/-- The cores whose L1s a unit's state names. -/
def State.unitCores (s : State) (u : DirUnit) : List Nat :=
  match u.state with
  | .owned c => [c]
  | .shared ps _ _ _ => ps.flatMap s.ptrCores

/-- A fill of the line is on its way to the core (08 R236). -/
def State.fillOnWay (s : State) (core part line : Nat) : Bool :=
  s.reqs.any (fun (_, r) => r.fill.isSome && decide (coreOf r.tid = core ∧ r.part = part ∧ r.addr.toNat / 64 = line))

/-- A core holds a copy of the line in its L1 or its victim lines, or one is on its way to it. -/
def State.hasCopy (s : State) (core part line : Nat) : Bool :=
  let k := s.core core
  (k.l1 ++ k.victims).any (fun l => l.part = part ∧ l.line = line) || s.fillOnWay core part line

/-- A core holds the line in E or M, or such a fill is on its way. -/
def State.holdsOwned (s : State) (core part line : Nat) : Bool :=
  (s.core core).l1.any (fun l => l.part = part ∧ l.line = line ∧ (l.state = .E ∨ l.state = .M)) ||
    s.reqs.any (fun (_, r) => decide (r.fill = some .E ∧ coreOf r.tid = core ∧ r.part = part ∧ r.addr.toNat / 64 = line))

/-- A lost copy of a whole unit: every L1 and victim part of the module drops its lines, with the fills on their way (08 R234,
R236, R244). -/
def State.broadcastDrop (s : State) (part base k : Nat) : State :=
  let inUnit (l : L1Line) : Bool := decide (l.part = part ∧ base ≤ l.line ∧ l.line < base + 2 ^ k)
  let owned := s.cores.flatMap (fun (_, c) => c.l1.filter (fun l => inUnit l && l.state == .M))
  let s := s.filterL1 (fun _ l => !inUnit l)
  let s := { s with reqs := s.reqs.map (fun (n, r) =>
    (n, if r.part = part ∧ base ≤ r.addr.toNat / 64 ∧ r.addr.toNat / 64 < base + 2 ^ k then { r with fill := none } else r)) }
  owned.foldl (fun s l => s.spill l.part l.line) s

/-- DIRECTORY_RECALL (08 R234): an entry is recalled, owners writing modified lines back; reservations on its lines are lost
(R235) (log 22, DEDUCED). -/
def State.recallEntry (s : State) (cl : Nat) (u : DirUnit) : State :=
  let k := s.cluster cl
  let s := s.setCluster cl { k with dir := k.dir.filter (· ≠ u) }
  let s := s.broadcastDrop u.part u.base u.k
  s.dropResv (fun r => r.glob && decide (r.part = u.part ∧ u.base ≤ r.start / 64 ∧ r.start / 64 < u.base + 2 ^ u.k))

/-- The least recently used entry, the line's own apart. -/
def Cluster.oldest (k : Cluster) (part line : Nat) : Option DirUnit :=
  (k.dir.filter (fun u => !u.has part line)).foldl (fun (b : Option DirUnit) u =>
    match b with | some v => if u.seen < v.seen then some u else b | none => some u) none

/-- Recalls entries until the directory has room for `n` more of its 32,768. It stops at an entry that must first be
invalidated by the darner (08 R237), and gives that entry. -/
def State.dirRoom (s : State) (cl part line n : Nat) : Nat → State × Option DirUnit
  | 0 => (s, none)
  | fuel + 1 =>
    if (s.cluster cl).dir.length + n ≤ 32768 then (s, none)
    else match (s.cluster cl).oldest part line with
      | none => (s, none)
      | some u => if u.needsTicket then (s, some u) else (s.recallEntry cl u).dirRoom cl part line n fuel

/-- Entries that a split of the line's unit, or a new unit, adds: `keeps` says that the line has an entry afterwards. -/
def Cluster.entriesFor (k : Cluster) (part line : Nat) (keeps : Bool) : Nat :=
  match k.unit? part line with
  | some u => if keeps then u.k else u.k - 1
  | none => if keeps then 1 else 0

/-- Room for the entries of a split or a new unit (08 R234). -/
def State.roomFor (s : State) (cl part line : Nat) (keeps : Bool) : State × Option DirUnit :=
  let n := (s.cluster cl).entriesFor part line keeps
  s.dirRoom cl part line n n

/-- Splits the line's unit to the line and gives that line the state given, none for untracked (08 R232). -/
def State.splitTo (s : State) (cl part line : Nat) (st : Option DirState) : State :=
  let k := s.cluster cl
  let readAt := ((k.unit? part line).map DirUnit.readAt).getD 0
  let rest := untrackLine k.dir part line
  s.setCluster cl { k with dir := match st with | some d => ⟨part, line, 0, d, s.cycle, readAt⟩ :: rest | none => rest }

/-- Splits the line's unit to the line, its state unchanged. -/
def State.splitOff (s : State) (cl part line : Nat) : State :=
  match (s.cluster cl).unit? part line with
  | some u => if u.k = 0 then s else s.splitTo cl part line (some u.state)
  | none => s

/-- The widest aligned unit of at most 64 KiB around a line that meets no tracked unit. -/
def freeUnit (dir : List DirUnit) (part line : Nat) : Nat → Nat × Nat
  | 0 => (line, 0)
  | k + 1 =>
    let base := line / 2 ^ (k + 1) * 2 ^ (k + 1)
    if dir.any (fun u => u.part = part ∧ u.base < base + 2 ^ (k + 1) ∧ base < u.base + 2 ^ u.k) then freeUnit dir part line k
    else (base, k + 1)

/-- A new unit for an untracked line (08 R229) (log 46, DEDUCED). -/
def State.newUnit (s : State) (cl part line : Nat) (st : DirState) : State :=
  let k := s.cluster cl
  let (base, n) := freeUnit k.dir part line 10
  s.setCluster cl { k with dir := ⟨part, base, n, st, s.cycle, s.cycle⟩ :: k.dir }

/-- A ticket number no outstanding ticket of the slice has: the slice chooses it (08 R237). -/
def State.newTicket (s : State) (cl : Nat) : State × Nat :=
  let first := (Config.ticket s.free).toNat
  let used := (s.cluster cl).tickets.map Ticket.id
  ({ s with free := s.free + 1 },
   (((List.range 65536).map (fun i => (first + i) % 65536)).find? (fun n => !used.contains n)).getD first)

/-- The ticket outstanding for a unit. -/
def Cluster.ticket? (k : Cluster) (part base n : Nat) : Option Ticket :=
  k.tickets.find? (fun t => t.part = part ∧ t.base = base ∧ t.k = n)

/-- Queues the invalidate-all record of a unit with a new ticket, on which the request `req` waits (08 R237). -/
def State.queueTicket (s : State) (cl part base n req : Nat) : State × Nat :=
  let (s, t) := s.newTicket cl
  let k := s.cluster cl
  (s.setCluster cl { k with
    ovfQ := k.ovfQ ++ [⟨2, BitVec.ofNat 64 (64 * base + n), 0, 0, 0, false, 0, 0, false, 0, t⟩]
    tickets := k.tickets ++ [⟨t, req, part, base, n, s.cycle⟩] }, t)

/-- The copies of one line go, whatever their ID, with the fills on their way (08 R229, R236); modified data stands for the
slice to take. -/
def State.dropLineCopies (s : State) (part line : Nat) : State :=
  let s := s.dropCopies part line
  { s with reqs := s.reqs.map (fun (n, r) => (n, if r.part = part ∧ r.addr.toNat / 64 = line then { r with fill := none } else r)) }

/-- A core gives a line up and keeps a copy: E and M become S, and so does such a fill on its way (08 R228, R229, R236). -/
def State.demote (s : State) (core part line : Nat) : State :=
  let k := s.core core
  let s := s.setCore core { k with l1 := k.l1.map (fun x =>
    if x.part = part ∧ x.line = line ∧ (x.state = .E ∨ x.state = .M) then { x with state := .S } else x) }
  { s with reqs := s.reqs.map (fun (n, r) =>
    (n, if r.fill = some .E ∧ coreOf r.tid = core ∧ r.part = part ∧ r.addr.toNat / 64 = line then { r with fill := some .S } else r)) }

/-- What must still be invalidated by the darner before a party can act on a line: the unit of the line itself, or an entry
in the way of its split (08 R234, R237). -/
inductive InWay where
  | nothing
  | unit (base k : Nat)
  deriving DecidableEq, Repr

/-- A write at the home by a party that is no thread: every copy of the line is taken back in the party's own step (08 R229)
(log 16, DESIGN CHOICE), after the ticket that an overflow unit waits for (R237). -/
def State.clearLine (s : State) (cl part line : Nat) : State × InWay :=
  match (s.cluster cl).unit? part line with
  | none => (s, .nothing)
  | some u =>
    match s.roomFor cl part line false with
    | (s, some v) => (s, .unit v.base v.k)
    | (s, none) =>
      if u.needsTicket then (s, .unit line 0)
      else ((s.dropLineCopies part line).splitTo cl part line none, .nothing)

/-- A read at the home by a party that is no thread: an owner gives the line up first (08 R227, R229) (log 16, DESIGN
CHOICE). -/
def State.recallOwner (s : State) (cl part line : Nat) : State × InWay :=
  match (s.cluster cl).unit? part line with
  | none => (s, .nothing)
  | some u =>
    match u.state with
    | .shared _ _ _ _ => (s, .nothing)
    | .owned p =>
      match s.roomFor cl part line true with
      | (s, some v) => (s, .unit v.base v.k)
      | (s, none) =>
        let m := s.modifiedInL1 part line
        let s := (s.splitTo cl part line (some (.shared [s.ptrOf p] none false false))).demote p part line
        (if m then s.spill part line else s, .nothing)

/-- Every copy of a line goes at once, an overflow unit's by broadcast (log 16, DESIGN CHOICE). -/
def State.takeBack (s : State) (cl part line : Nat) : State :=
  match (s.cluster cl).unit? part line with
  | some _ => (s.dropLineCopies part line).splitTo cl part line none
  | none => s

/-! ## Performing on a global line -/

/-- A global location at its home: partition, virtual address, home slice, flat address of the byte, whether caches may
hold the line. -/
structure Loc where
  part : Nat
  va : Nat
  cl : Nat
  flat : Nat
  cached : Bool
  deriving DecidableEq, Repr

def Loc.line (l : Loc) : Nat := l.va / 64

/-- A byte at a location: of a page that is not cached, as memory itself holds it (09 R266). -/
def State.byteOf (s : State) (l : Loc) (a : Nat) : Byte := if l.cached then s.byteAt a else memGet s.mem a

/-- The memory tag at a location. -/
def State.tagOf (s : State) (l : Loc) : Bool := if l.cached then s.tagAt l.flat else s.tags.contains (l.flat / 16)

/-- `n` bytes of one line as a view sees them, and the tag of the quad that holds them. -/
def State.viewRead (s : State) (l : Loc) (hid n : Nat) : List Byte × Bool :=
  let k := s.cluster l.cl
  let path := s.viewPath l.part hid
  ((List.range n).map (fun i => k.viewByte l.part l.line path (l.va % 64 + i) (s.byteOf l (l.flat + i))),
   k.viewTag l.part l.line path (l.va % 64 / 16) (s.tagOf l && decide (l.flat < dramEnd)))

/-- Some of `n` bytes that a view sees come from marked data. -/
def State.viewPoisoned (s : State) (l : Loc) (hid n : Nat) : Bool :=
  let k := s.cluster l.cl
  let path := s.viewPath l.part hid
  (List.range n).any (fun i => s.poison.contains (l.flat + i) && decide (k.holder l.part l.line (l.va % 64 + i) path = 0))

/-- Depth of a node, 0 for the root. -/
def State.depthOf (s : State) (part hid : Nat) : Nat := ((tget (s.nodes part) hid).map HypNode.depth).getD 0

/-- A write of bytes at `y` of the line made under `h` is visible under view `g`: some byte of it would be read (15 R409). -/
def State.visible (s : State) (l : Loc) (h y n : Nat) (p g : Nat) : Bool :=
  if p ≠ l.part then decide (h = 0)
  else if s.refuted p g then false
  else
    let k := s.cluster l.cl
    let path := s.viewPath p g
    (List.range n).any (fun i => k.holder p l.line (y + i) path = h)

/-- The room a partition has for version lines at a slice (15 R410). -/
def State.versionRoom (s : State) (cl part : Nat) : Bool :=
  decide (((s.cluster cl).versions.filter (fun v => v.part = part)).length < ((tget s.parts part).map Partition.verLines).getD 0)

/-- A write under node `h` would need a new version line and there is no room (15 R411). -/
def State.needsRoom (s : State) (l : Loc) (h : Nat) : Bool :=
  decide (h ≠ 0) && ((s.cluster l.cl).version? l.part l.line h).isNone && !s.versionRoom l.cl l.part

/-- Merges bytes into a version line, allocating it (15 R405); the tag of each quad written is `tag` where the write covers
the whole quad, else clear (15 R415). -/
def mergeVersion (vs : List VersionLine) (part line h y : Nat) (bs : List Byte) (tag : Bool) : List VersionLine :=
  let old := (vs.find? (fun v => v.part = part ∧ v.line = line ∧ v.hid = h)).getD
    ⟨part, line, h, List.replicate 64 none, List.replicate 4 false⟩
  let bytes := (List.range 64).map (fun i => if y ≤ i ∧ i < y + bs.length then some (bs.getD (i - y) 0) else old.bytes.getD i none)
  let qs := quadsOf y bs.length
  let tags := (List.range 4).map (fun q => if qs.contains q then tag else old.tags.getD q false)
  vs.filter (fun v => !(v.part = part ∧ v.line = line ∧ v.hid = h)) ++ [⟨part, line, h, bytes, tags⟩]

/-- A write of bytes in one line applied under node `h` (already effective), with the watches it fires and the reservations
lost by it; copies in L1s are the caller's. -/
def State.applyWrite (s : State) (l : Loc) (h : Nat) (bs : List Byte) (tag : Bool) : State :=
  let s := if h = 0 then s.putBytes l.cached l.flat bs (tag && decide (l.flat < dramEnd))
    else
      let k := s.cluster l.cl
      s.setCluster l.cl { k with versions := mergeVersion k.versions l.part l.line h (l.va % 64) bs tag }
  let sees := s.visible l h (l.va % 64) bs.length
  let s' := s.fireGlobal l.part l.line l.flat sees (h, s.depthOf l.part h)
  s'.dropResv (fun r => s.resvOnLine l.part l.line l.flat r && sees r.part r.hid)

/-- Data written at the slice stays there where the data part holds the line, else it goes to memory. -/
def State.settleData (s : State) (l : Loc) : State :=
  if l.cached && !(s.cluster l.cl).holdsData l.part l.line then s.writeBack (l.flat / 64) else s

/-- A write performed at its home in one step: every copy is taken back first (log 104, DESIGN CHOICE; log 118, DEDUCED). -/
def State.performWrite (s : State) (l : Loc) (h : Nat) (bs : List Byte) (tag : Bool) : State :=
  ((s.takeBack l.cl l.part l.line).applyWrite l h bs tag).settleData l

/-- A kind 5 record of a write to the line could not be queued: the write waits at the slice (08 R246). -/
def State.ovfFullAt (s : State) (part line flat : Nat) : Bool :=
  s.clusters.any (fun (_, k) => decide (1024 ≤ k.ovfQ.length) && k.ovfLines.any (fun o => s.sameLine part line flat o.part o.line))

def State.ovfFull (s : State) (l : Loc) : Bool := s.ovfFullAt l.part l.line l.flat

/-! ## Local memory -/

/-- Flat addresses of `n` bytes of a window of this module, or the cause (01 R18, R22; 05 R165). The warm-context area is
not among them (log 12, DESIGN CHOICE). -/
def State.localFlat (s : State) (p : Place) (n : Nat) : Except Byte (List Nat) :=
  match p with
  | .core c off =>
    let k := s.core c
    if k.quarantined then .error 0x39
    else if off + n ≤ k.tcmPlain then .ok ((List.range n).map (fun i => flatTcm c off + i))
    else .error 0x10
  | .clu cl off =>
    if (List.range n).any (fun i => let (c, o) := scratchOwner cl (off + i); decide ((s.core c).shareBytes ≤ o)) then .error 0x10
    else if (List.range n).any (fun i => (s.core (scratchOwner cl (off + i)).1).quarantined) then .error 0x39
    else .ok ((List.range n).map (fun i => let (c, o) := scratchOwner cl (off + i); flatScratch c o))
  | _ => .error 0x10

/-- The warm context a window offset falls in: its core, place and offset within the 1 KiB. -/
def State.warmAt (s : State) (p : Place) : Option (Nat × Nat × Nat) :=
  match p with
  | .core c off =>
    let k := s.core c
    if k.tcmPlain ≤ off ∧ off < k.tcmBytes then some (c, (off - k.tcmPlain) / 1024, (off - k.tcmPlain) % 1024) else none
  | _ => none

/-- Whether bytes at flat addresses are TCM, which carries tags (07 R191). -/
def isTcmFlat (a : Nat) : Bool := decide (flatTcm 0 0 ≤ a) && decide (a < flatScratch 0 0)

/-- The watch unit of a byte of local memory: the flat address of its TCM line, or of the lower word of its scratch pair
(07 R206). -/
def localUnit (p : Place) (i : Nat) : Nat :=
  match p with
  | .core c off => flatTcm c ((off + i) / 64 * 64)
  | .clu cl off =>
    let (c, o) := scratchOwner cl ((off + i) / 8 * 8)
    flatScratch c o
  | _ => 0

/-- The cores that hold a watch on a place: the target core, or the owner of each word of the pair, the lower one first
(07 R206) (log 45, DEDUCED). -/
def localHolders (p : Place) : List Nat :=
  match p with
  | .core c _ => [c]
  | .clu cl off => [(scratchOwner cl (off / 8 * 8)).1, (scratchOwner cl (off / 8 * 8 + 4)).1]
  | _ => []

/-- A write of local memory with its watches and reservations; a tag is kept only in TCM. -/
def State.writeLocal (s : State) (p : Place) (fs : List Nat) (bs : List Byte) (tag : Bool) : State :=
  let s := match p with
    | .core c off => s.putBytes false (flatTcm c off) bs tag
    | _ => { s with mem := (fs.zip bs).foldl (fun m (a, b) => memPut m a b) s.mem, poison := s.poison.filter (fun b => !fs.contains b) }
  let s := s.fireLocal ((List.range bs.length).map (localUnit p))
  s.dropResv (fun r => fs.any (fun a => resvOnFlat a 1 r))

/-- Some of the local bytes are marked poisoned. -/
def State.poisonedAt (s : State) (fs : List Nat) : Bool := fs.any (fun a => s.poison.contains a)

/-- Bytes of local memory with the tag of their quad. -/
def State.readLocal (s : State) (fs : List Nat) : List Byte × Bool :=
  (fs.map s.byteAt, match fs with | a :: _ => isTcmFlat a && s.tagAt a | [] => false)

/-! ## The warm-context area (01 R19) -/

/-- The thread whose context stands in a warm place. -/
def State.warmHolder (s : State) (c place : Nat) : Option (Nat × Thread) :=
  match (s.core c).warm.getD place none with
  | none => none
  | some slot => (s.thread? (c * 256 + slot)).map (fun t => (c * 256 + slot, t))

/-- The rows of 01 R19 that stop a load (no context: none, and it reads zero). -/
def State.warmNoLoad (s : State) (issuer c place : Nat) : Option Byte :=
  match s.warmHolder c place with
  | none => none
  | some (tid, _) => if s.mayOver issuer tid rREAD then none else some 0x28

/-- The rows of 01 R19 that stop a store. -/
def State.warmNoStore (s : State) (issuer c place : Nat) : Option Byte :=
  match s.warmHolder c place with
  | none => some 0x28
  | some (tid, t) =>
    if !s.mayOver issuer tid rREWRITE then some 0x28
    else if t.state ≠ .stopped ∧ t.state ≠ .faulted ∧ t.state ≠ .orphaned then some 0x29
    else none

/-- Bytes of a warm context, zero where the place holds none. -/
def State.warmBytes (s : State) (c place off n : Nat) : List Byte :=
  match s.warmHolder c place with
  | none => zeroBytes n
  | some (tid, t) => ((t.hotImage tid).drop off).take n

/-- The flat address of a byte of the warm-context area. -/
def State.warmFlat (s : State) (c place off : Nat) : Nat := flatTcm c ((s.core c).tcmPlain + place * 1024 + off)

/-- A read through a window of `n` bytes of a warm context. -/
def State.warmRead (s : State) (issuer c place off n : Nat) : Except Byte (List Byte) :=
  match s.warmNoLoad issuer c place with
  | some e => .error e
  | none => .ok (s.warmBytes c place off n)

/-- What a store into a warm context changes: registers (their tags clear, 04 R101), and the fields `twrite` may write;
`pcc` and the fields of R157's last paragraph keep their values (04 R102, 05 R144; log 20, DEDUCED). -/
def Thread.ofHot (t : Thread) (img : List Byte) (off n : Nat) : Thread :=
  let touched (a len : Nat) : Bool := decide (a < off + n) && decide (off < a + len)
  let regs := (List.range 32).map (fun i => if i ≠ 0 ∧ touched (16 * i) 16 then ⟨imgQuad img (16 * i), false⟩ else t.regs.getD i Reg.zero)
  let fp := imgWord img 0x240 &&& 0xFFFFFFFFFFFF071F#64
  let cls := (imgWord img 0x258).toNat % 4
  { t with regs := regs
           fpcsr := if touched 0x240 8 ∧ (fp.toNat / 256 % 8) ≤ 5 then fp else t.fpcsr
           faultrec := if touched 0x248 8 then imgWord img 0x248 &&& ~~~63#64 else t.faultrec
           cls := if touched 0x258 8 ∧ cls ≤ t.ceil then cls else t.cls
           fired := if touched 0x260 8 then (imgWord img 0x260).setWidth 8 else t.fired
           pend := if touched 0x260 8 then (imgWord img 0x260).getLsbD 8 else t.pend }

/-- A store through a window into a warm context, by the first matching row of 01 R19; it fires the watches and loses the
reservations of its line. -/
def State.warmWrite (s : State) (issuer c place off : Nat) (bs : List Byte) : Except Byte State :=
  match s.warmNoStore issuer c place, s.warmHolder c place with
  | some e, _ => .error e
  | none, none => .error 0x28
  | none, some (tid, t) =>
    let flat := s.warmFlat c place off
    let s := s.setThread tid (t.ofHot (patchBytes (t.hotImage tid) off bs) off bs.length)
    .ok ((s.fireLocal [flat / 64 * 64]).dropResv (resvOnFlat flat bs.length))


end Sys2Proof.Machine
end

