-- ==== Sys2Proof/Machine/Access.lean ====
section
/-!
DEFINITION. Sys2Proof/Machine/Access.lean: the accesses that engines, agents and the host make for commands: what holds them
(09 R271 to R274, 17 R440), where they are performed, and the cells they write (01 R33 to R38).
-/
namespace Sys2Proof.Machine

/-! ## Budgets (08 R255) -/

/-- One token of a budget, whose count rises by the rate each period up to rate + depth; none left: nothing. With `more`,
what an engine's one action needs beside the token it just took is taken ahead of the count (log 18, DESIGN CHOICE). -/
def takeToken (ts : List Tokens) (key cycle period : Nat) (budget : Word) (more : Bool) : Option (List Tokens) :=
  let rate := budget.toNat % 2 ^ 32
  let depth := budget.toNat / 2 ^ 32 % 2 ^ 16
  if rate = 0 then some ts
  else
    let e := (ts.find? (fun t => t.key = key)).getD ⟨key, cycle / period, 0, cycle + 1⟩
    let used := e.used - (cycle / period - e.period) * rate
    if used < rate + depth ∨ (more ∧ e.at_ = cycle) then
      some (⟨key, cycle / period, used + 1, cycle⟩ :: ts.filter (fun t => decide (t.key ≠ key)))
    else none

/-- A request of a class of a partition passes its budgets at a slice: the request queue's, and the memory port's when the
slice does not hold the line (log 18, DESIGN CHOICE). -/
def State.admitted (s : State) (cl part cls line : Nat) : Option State :=
  match tget s.parts part with
  | none => some s
  | some p =>
    let k := s.cluster cl
    match takeToken k.tokens ((part * 4 + cls) * 2) s.cycle 256 (p.budgets.getD cls 0) (decide (cls = 2)) with
    | none => none
    | some ts =>
      if k.holdsData part line then some (s.setCluster cl { k with tokens := ts })
      else match takeToken ts ((part * 4 + cls) * 2 + 1) s.cycle 65536 (p.memBudgets.getD cls 0) (decide (cls = 2)) with
        | none => none
        | some ts => some (s.setCluster cl { k with tokens := ts })

/-! ## Holding and asking (09 R271 to R274) -/

/-- The hold is one of those that a slice counts (09 R271). -/
def HoldWhy.counted : HoldWhy → Bool
  | .retry => false
  | _ => true

/-- Accesses held at a slice, of threads, fetches and engines (09 R271). -/
def State.heldCount (s : State) (cl : Nat) : Nat :=
  (s.reqs.filter (fun (_, r) => r.target = .home cl ∧
    (match r.phase with | .migrating _ | .paging _ | .ats _ | .version _ => True | _ => False : Bool))).length
    + ((s.cluster cl).engHolds.filter (fun h => h.why.counted)).length

/-- A page request for the 4 KiB page, unless one is outstanding; none where 64 are (09 R274) (log 88, DEDUCED). -/
def State.askPage (s : State) (cl part va lvl : Nat) (e : Word) (write fetch watch : Bool) (tid load : Nat) : Option State :=
  let k := s.cluster cl
  if k.pageReqs.any (fun q => q.part = part ∧ q.page = va / 4096) then some s
  else if 64 ≤ k.pageReqs.length then none
  else
    let free (n : Nat) : Bool := !k.pageReqs.any (fun q => q.id = n)
    let id := (((List.range 65536).map (fun i => (k.nextReqId + i) % 65536)).find? free).getD k.nextReqId
    some (s.setCluster cl { k with nextReqId := (id + 1) % 65536, pageReqs := k.pageReqs ++
      [⟨id, part, va / 4096, lvl, e, write, fetch, watch, tid, load, s.cycle, false⟩] })

/-! ## Accesses of engines, agents and the host -/

/-- Whom a command's engine accesses memory for. -/
def Cmd.party (c : Cmd) : Party := ⟨c.part, c.hid, c.core, c.tid, c.load, false, none⟩

/-- A party that belongs to no thread: the agent, the dispatch engine or the host, at the root of a partition. -/
def rootParty (part : Nat) : Party := ⟨part, 0, 0, 2 ^ 29, 0, false, none⟩

/-- The answer of an engine's access: it was made, it fails with a cause, or it is held for now. -/
inductive Acc (α : Type) where
  | ok (v : α)
  | fault (cause : Byte)
  | hold
  deriving DecidableEq, Repr

/-- The partition's hold limit (09 R258). -/
def State.holdLimit (s : State) (part : Nat) : Nat := ((tget s.parts part).map Partition.holdLimit).getD (2 ^ 22)

/-- The hold of an engine's access, if it is held. -/
def Cluster.engHold? (k : Cluster) (p : Party) (va : Nat) : Option EngHold :=
  k.engHolds.find? (fun h => h.who = { p with cls := none } ∧ h.line = va / 64)

/-- Applies a change to the holds of every slice. -/
def State.mapHolds (s : State) (f : EngHold → Option EngHold) : State :=
  { s with clusters := s.clusters.map (fun (c, k) => (c, { k with engHolds := k.engHolds.filterMap f })) }

/-- A hold ends. -/
def State.dropHold (s : State) (cl : Nat) (h : EngHold) : State :=
  let k := s.cluster cl
  s.setCluster cl { k with engHolds := k.engHolds.filter (· ≠ h) }

/-- An engine's access is held: among the slice's 512, or, where there is no room, returned for 64 cycles (09 R271). -/
def State.engHoldAt (s : State) (p : Party) (cl va : Nat) (why : HoldWhy) : State :=
  let k := s.cluster cl
  let why := if 512 ≤ s.heldCount cl then HoldWhy.retry else why
  ({ s with nextReq := s.nextReq + 1 } : State).setCluster cl { k with engHolds := k.engHolds ++ [⟨s.nextReq, { p with cls := none }, va / 64, why, s.cycle, none⟩] }

/-- What a held access finds when it is looked at again: it stays held, it faults, or it is translated again
(09 R271, R272, R277; 15 R411; 17 R440). -/
inductive HoldEnd where
  | stay
  | fault (cause : Byte)
  | again
  deriving DecidableEq, Repr

def State.holdEnd (s : State) (cl : Nat) (p : Party) (va : Nat) (kind : TKind) (host : Bool) (h : EngHold) : HoldEnd :=
  match h.ended with
  | some c => .fault c
  | none =>
    match h.why with
    | .move =>
      if s.holdLimit p.part ≤ s.cycle - h.since then .fault 0x13
      else if s.peekTrans p.part va kind host = .migrating then .stay else .again
    | .page => if (s.cluster cl).pageReqs.any (fun q => q.part = p.part ∧ q.page = va / 4096) then .stay else .again
    | .ats _ _ _ => .stay
    | .version => if s.holdLimit p.part ≤ s.cycle - h.since then .fault 0x21 else .again
    | .ticket base n => if ((s.cluster cl).ticket? p.part base n).isSome then .stay else .again
    | .retry => if h.since + 64 ≤ s.cycle then .again else .stay

/-- An engine's access to an absent page raises or joins a page request (09 R274). -/
def State.engAsking (s : State) (p : Party) (cl va lvl : Nat) (e : Word) (kind : TKind) : State :=
  let held := s.engHoldAt p cl va .page
  if 512 ≤ s.heldCount cl then held
  else (held.askPage cl p.part va lvl e kind.writes p.fetch (kind == .watch) p.tid (if p.fetch then p.load else 0)).getD held

/-- The bridge's translation of a PCIe page for an engine's access to `va` (17 R440, R441). -/
def State.engAts (s : State) (p : Party) (cl va page : Nat) (write : Bool) : State × Acc Nat :=
  let b := s.bridge
  if b.hostUp = false then (s, .fault 0x15)
  else if b.atsOn.getLsbD p.part = false then (s, .fault 0x14)
  else
    match b.atc.find? (fun e => e.part = p.part ∧ e.page = page ∧ (if write then e.wr else e.rd && (e.ex || !p.fetch))) with
    | some e => (s, .ok (e.hpage * 4096))
    | none =>
      let held := s.engHoldAt p cl va (.ats page write p.fetch)
      if 512 ≤ s.heldCount cl ∨ b.ats.any (fun a => a.part = p.part ∧ a.page = page ∧ a.write = write ∧ a.exec = p.fetch) then (held, .hold)
      else ({ held with bridge := { b with ats := b.ats ++ [⟨p.part, page, write, false, false, s.cycle, p.fetch⟩] } }, .hold)

/-- Where an engine's access to one line of the global space is performed. A peer's line has no flat address. -/
inductive EngLoc where
  | here (l : Loc)
  | zeros
  | peer (chip pa : Nat)
  deriving DecidableEq, Repr

/-- Translates an engine's access to a global address (09 R268), with the host bridge and the link (17 R440, 18 R464). -/
def State.engTranslate (s : State) (p : Party) (cl va : Nat) (kind : TKind) (host : Bool) : State × Acc EngLoc :=
  match s.translate p.part va kind host kind.dirties with
  | (s, .fault c) => (s, .fault c)
  | (s, .zeros) => (s, .ok .zeros)
  | (s, .migrating) => (s.engHoldAt p cl va .move, .hold)
  | (s, .ask lvl e) => (s.engAsking p cl va lvl e kind, .hold)
  | (s, .ok pa e) =>
    if kind.cc ∧ (pteTgt e = 2 ∨ pteTgt e = 3) then (s, .ok .zeros)  -- passed over without effect
    else match pteTgt e with
    | 1 => if s.bridge.hostUp then (s, .ok (.here ⟨p.part, va, cl, flatHost pa, cacheable e⟩)) else (s, .fault 0x15)
    | 2 =>
      match s.engAts p cl va (pa / 4096) kind.writes with
      | (s, .ok h) => (s, .ok (.here ⟨p.part, va, cl, flatHost (h + pa % 4096), false⟩))
      | (s, .fault c) => (s, .fault c)
      | (s, .hold) => (s, .hold)
    | 3 =>
      let chip := pa / 2 ^ 47
      if chip = s.bridge.chip then (s, .ok (.here ⟨p.part, va, cl, pa % 2 ^ 43, false⟩))
      else if s.reachable chip then (s, .ok (.peer chip (pa % 2 ^ 43)))
      else (s, .fault 0x10)
    | _ => (s, .ok (.here ⟨p.part, va, cl, pa, cacheable e⟩))

/-- An access whose class has a budget takes a token of it, or is returned for 64 cycles (08 R255). -/
def State.engEnter (s : State) (p : Party) (cl va : Nat) (kind : TKind) (host : Bool) : State × Acc EngLoc :=
  match p.cls with
  | none => s.engTranslate p cl va kind host
  | some c =>
    match s.admitted cl p.part c (va / 64) with
    | some s => s.engTranslate p cl va kind host
    | none => (s.engHoldAt p cl va .retry, .hold)

/-- An engine's access to a global address: one that is held first looks at what holds it. -/
def State.engLocate (s : State) (p : Party) (va : Nat) (kind : TKind) (host : Bool) : State × Acc EngLoc :=
  let cl := s.homeOfLine p.part (va / 64)
  match (s.cluster cl).engHold? p va with
  | none => s.engEnter p cl va kind host
  | some h =>
    match s.holdEnd cl p va kind host h with
    | .stay => (s, .hold)
    | .fault c => (s.dropHold cl h, .fault c)
    | .again =>
      if h.why = .retry then (s.dropHold cl h).engEnter p cl va kind host
      else (s.dropHold cl h).engTranslate p cl va kind host

/-- An engine's write waits for version room at its home, from when it first did (15 R411). -/
def State.engNoRoom (s : State) (p : Party) (l : Loc) (before : Option EngHold) : State :=
  match before with
  | some h =>
    if h.why = .version then
      let k := s.cluster l.cl
      s.setCluster l.cl { k with engHolds := k.engHolds ++ [h] }
    else s.engHoldAt p l.cl l.va .version
  | none => s.engHoldAt p l.cl l.va .version

/-- Bytes read from another module: outside this one, so free values (18 R460) (log 115, DESIGN CHOICE). -/
def State.peerBytes (s : State) (n : Nat) : State × List Byte :=
  ({ s with free := s.free + n }, (List.range n).map (fun i => Config.peerByte (s.free + i)))

/-- Data read by an engine, unless it is marked poisoned (05 R163). -/
def sound {α : Type} (s : State) (bad : Bool) (v : α) : State × Acc α := (s, if bad then .fault 0x38 else .ok v)

/-- An owner gives a line up before an engine reads it (08 R227); a fetch of the owner's own core leaves it. -/
def State.engRecall (s : State) (p : Party) (l : Loc) : State × InWay :=
  let own := p.fetch && (match (s.cluster l.cl).unit? l.part l.line with | some u => u.state == .owned p.core | none => false)
  if l.cached && !own then s.recallOwner l.cl l.part l.line else (s, .nothing)

/-- One read of an engine as an access of `kind` (a read, or the arming of the engine's watch): at most one line of the global
space, or a run of one window (01 R14 to R23). The tag is that of the quad the run starts in. -/
def State.engReadAs (s : State) (kind : TKind) (p : Party) (a : Word) (n : Nat) (host : Bool) : State × Acc (List Byte × Bool) :=
  if !canonical a then (s, .fault 0x16)
  else if touchesAgent a n then (s, .fault 0x28)
  else
    match placeOf s.bridge.chip p.core a with
    | .far chip => if s.reachable chip then let (s, bs) := s.peerBytes n; (s, .ok (bs, false)) else (s, .fault 0x10)
    | .glob va =>
      match s.engLocate p va kind host with
      | (s, .fault c) => (s, .fault c)
      | (s, .hold) => (s, .hold)
      | (s, .ok .zeros) => (s, .ok (zeroBytes n, false))
      | (s, .ok (.peer _ _)) => let (s, bs) := s.peerBytes n; (s, .ok (bs, false))
      | (s, .ok (.here l)) =>
        match s.engRecall p l with
        | (s, .unit b k) => (s.engHoldAt p l.cl l.va (.ticket b k), .hold)
        | (s, .nothing) => sound s (s.viewPoisoned l p.hid n) (s.viewRead l p.hid n)
    | pl =>
      match s.warmAt pl with
      | some (c, w, off) =>
        (match s.warmRead p.tid c w off n with | .ok bs => (s, .ok (bs, false)) | .error c => (s, .fault c))
      | none => (match s.localFlat pl n with | .ok fs => sound s (s.poisonedAt fs) (s.readLocal fs) | .error c => (s, .fault c))

/-- One read of an engine. -/
def State.engRead1 (s : State) (p : Party) (a : Word) (n : Nat) (host : Bool) : State × Acc (List Byte × Bool) :=
  s.engReadAs .read p a n host

/-- A write of an engine that a unit's hold by another thread keeps waiting (07 R202). -/
def State.engWriteHeld (s : State) (l : Loc) : Bool :=
  s.heldByOther none (s.resvOnLine l.part l.line l.flat) || s.ovfFull l

/-- What an engine writes: bytes, or the 8 bytes there with a number added (01 R35). -/
inductive Change where
  | put (bs : List Byte)
  | add (n : Nat)
  deriving DecidableEq, Repr

def Change.size : Change → Nat
  | .put bs => bs.length
  | .add _ => 8

/-- What the access is for translation: the add is an atomic (09 R268 step 6). -/
def Change.tkind : Change → TKind
  | .put _ => .write
  | .add _ => .amo

/-- The bytes that stand there after it. -/
def Change.after (c : Change) (old : List Byte) : List Byte :=
  match c with
  | .put bs => bs
  | .add n => leBytes 8 ((leNat old + n) % 2 ^ 64)

/-- An add needs sound data to add to. -/
def Change.stops (c : Change) (bad : Bool) : Bool :=
  match c with
  | .put _ => false
  | .add _ => bad

/-- The bytes a change leaves in a word of a warm context's area. -/
def State.warmChanged (s : State) (p : Party) (ch : Change) (c w off : Nat) : Except Byte (List Byte) :=
  match ch with
  | .put bs => .ok bs
  | .add _ => (s.warmRead p.tid c w off 8).map ch.after

/-- One change by an engine: within one line, or a run of one window. `unv`: the UNV bit of the capability that named the
address; `raw`: a write that its chapter names as unversioned (01 R41), performed at the root. -/
def State.engChange (s : State) (p : Party) (a : Word) (ch : Change) (tag host unv raw : Bool) : State × Acc Unit :=
  let hid := if raw then 0 else p.hid
  if !canonical a then (s, .fault 0x16)
  else if touchesAgent a ch.size then (s, .fault 0x28)
  else
    match placeOf s.bridge.chip p.core a with
    | .far chip =>
      if hid ≠ 0 ∧ unv = false then (s, .fault 0x20)
      else if s.reachable chip then (s.emit (.toPeer chip a ch.size), .ok ()) else (s, .fault 0x10)
    | .glob va =>
      -- from the moment a slice has a refuted set it acknowledges its stores without effect (15 R412)
      if s.refuted p.part hid then (s, .ok ())
      else
      let before := (s.cluster (s.homeOfLine p.part (va / 64))).engHold? p va
      match s.engLocate p va ch.tkind host with
      | (s, .fault c) => (s, .fault c)
      | (s, .hold) => (s, .hold)
      | (s, .ok .zeros) => (s, .fault 0x12)
      | (s, .ok (.peer chip pa)) =>
        if hid ≠ 0 ∧ unv = false then (s, .fault 0x20)
        else (s.emit (.toPeer chip (BitVec.ofNat 64 pa) ch.size), .ok ())
      | (s, .ok (.here l)) =>
        let h := s.effective p.part hid
        let bs := ch.after (s.viewRead l hid ch.size).1
        if s.engWriteHeld l then (s, .hold)
        else if ch.stops (s.viewPoisoned l hid ch.size) then (s, .fault 0x38)
        else if h ≠ 0 ∧ l.cached = false then
          (if unv then (s.performWrite l 0 bs tag, .ok ()) else (s, .fault 0x20))
        else if s.needsRoom l h then (s.engNoRoom p l before, .hold)
        else match s.clearLine l.cl l.part l.line with
          | (s, .unit b k) => (s.engHoldAt p l.cl l.va (.ticket b k), .hold)
          | (s, .nothing) => (s.performWrite l h bs tag, .ok ())
    | pl =>
      if hid ≠ 0 ∧ unv = false then (s, .fault 0x20)
      else
        match s.warmAt pl with
        | some (c, w, off) =>
          (match s.warmChanged p ch c w off with
           | .error e => (s, .fault e)
           | .ok bs =>
             if s.heldByOther none (resvOnFlat (s.warmFlat c w off) bs.length) then (s, .hold)
             else match s.warmWrite p.tid c w off bs with | .ok s' => (s', .ok ()) | .error c => (s, .fault c))
        | none =>
          match s.localFlat pl ch.size with
          | .ok fs =>
            if s.heldByOther none (fun r => fs.any (fun a => resvOnFlat a 1 r)) then (s, .hold)
            else if ch.stops (s.poisonedAt fs) then (s, .fault 0x38)
            else (s.writeLocal pl fs (ch.after (s.readLocal fs).1) tag, .ok ())
          | .error c => (s, .fault c)

/-- One write of an engine. -/
def State.engWrite1 (s : State) (p : Party) (a : Word) (bs : List Byte) (tag host unv raw : Bool) : State × Acc Unit :=
  s.engChange p a (.put bs) tag host unv raw

/-- Bytes from `a` to the next 64-byte boundary, at most `n`. -/
def chunkOf (a : Word) (n : Nat) : Nat := min n (64 - a.toNat % 64)

/-- A read of `n` bytes by an engine, line by line in ascending order; on a failure, the offset of the failing piece. -/
def State.engReadFrom (s : State) (p : Party) (a : Word) (host : Bool) : Nat → Nat → Nat → List Byte → State × Acc (List Byte) × Nat
  | 0, _, off, acc => (s, .ok acc, off)
  | fuel + 1, n, off, acc =>
    if n = 0 then (s, .ok acc, off)
    else
      match s.engRead1 p (a + BitVec.ofNat 64 off) (chunkOf (a + BitVec.ofNat 64 off) n) host with
      | (s, .ok (bs, _)) => s.engReadFrom p a host fuel (n - bs.length) (off + bs.length) (acc ++ bs)
      | (s, .fault c) => (s, .fault c, off)
      | (s, .hold) => (s, .hold, off)

/-- An engine's read of a span. -/
def State.engRead (s : State) (p : Party) (a : Word) (n : Nat) (host : Bool) : State × Acc (List Byte) :=
  let r := s.engReadFrom p a host (n / 64 + 2) n 0 []
  (r.1, r.2.1)

/-- An engine's read of whole quads at a quad-aligned address: bytes and memory tags. -/
def State.engReadQuads (s : State) (p : Party) (a : Word) (host : Bool) : Nat → State × Acc (List (Quad × Bool))
  | 0 => (s, .ok [])
  | n + 1 =>
    match s.engRead1 p a 16 host with
    | (s, .ok (bs, t)) =>
      match s.engReadQuads p (a + 16) host n with
      | (s, .ok r) => (s, .ok ((BitVec.ofNat 128 (leNat bs), t) :: r))
      | (s, .fault c) => (s, .fault c)
      | (s, .hold) => (s, .hold)
    | (s, .fault c) => (s, .fault c)
    | (s, .hold) => (s, .hold)

/-- A write of a span by an engine, line by line in ascending order; on a failure, the offset of the failing piece. -/
def State.engWriteFrom (s : State) (p : Party) (a : Word) (host unv raw : Bool) : Nat → List Byte → Nat → State × Acc Unit × Nat
  | 0, _, off => (s, .ok (), off)
  | fuel + 1, bs, off =>
    if bs = [] then (s, .ok (), off)
    else
      let c := chunkOf (a + BitVec.ofNat 64 off) bs.length
      match s.engWrite1 p (a + BitVec.ofNat 64 off) (bs.take c) false host unv raw with
      | (s, .ok ()) => s.engWriteFrom p a host unv raw fuel (bs.drop c) (off + c)
      | (s, .fault c) => (s, .fault c, off)
      | (s, .hold) => (s, .hold, off)

/-- An engine's write of a span. -/
def State.engWrite (s : State) (p : Party) (a : Word) (bs : List Byte) (host unv raw : Bool) : State × Acc Unit :=
  let r := s.engWriteFrom p a host unv raw (bs.length / 64 + 2) bs 0
  (r.1, r.2.1)

/-- The invalidation that a held access waits for is asked of the darner, once: of a line after its unit is split to it
(08 R232, R237); where the overflow queue is full, later. -/
def State.askTicket (s : State) (cl part base n : Nat) : State :=
  let k := s.cluster cl
  if (k.ticket? part base n).isSome || decide (1024 ≤ k.ovfQ.length) then s
  else match k.unit? part base with
    | some u =>
      if u.needsTicket then
        ({ (if n = 0 then s.splitOff cl part base else s).queueTicket cl part base n s.nextReq |>.1 with nextReq := s.nextReq + 1 })
      else s
    | none => s

/-- The tickets that held accesses wait for are asked. -/
def State.askTickets (s : State) : State :=
  (s.clusters.flatMap (fun (c, k) => k.engHolds.map (fun h => (c, h)))).foldl (fun s (c, h) =>
    match h.why with
    | .ticket base n => s.askTicket c h.who.part base n
    | _ => s) s

/-- Tries an action that an engine may have to wait for: when it is held, only what the waiting itself leaves (a page
request raised, a hold noted, a ticket asked) stays, and the rest of the step is undone. -/
def State.keepWaiting (s waited : State) : State :=
  ({ s with clusters := waited.clusters.map (fun (n, w) =>
              (n, { s.cluster n with pageReqs := w.pageReqs, engHolds := w.engHolds, nextReqId := w.nextReqId }))
            bridge := { s.bridge with ats := waited.bridge.ats }, nextReq := waited.nextReq } : State).askTickets

/-! ## Completion cells (01 R33 to R38, R477) -/

/-- Tries a cell's two writes: the status word at offset 8, then the increment added at offset 0 (01 R35). `raw`: the cell
is one its chapter names as unversioned (01 R41). A notice line's further fields are written between the two (15 R402). The
number is the offset of the write that the answer is about. -/
def State.tryCell (s : State) (p : Party) (c : CellRef) (w : CellWrite) (raw : Bool) : State × Acc Unit × Nat :=
  match s.engWrite1 p (c.addr + 8) (wordBytes w.status) false c.host c.unv raw with
  | (s1, .ok ()) =>
    (match (if w.more = [] then (s1, .ok ()) else s1.engWrite p (c.addr + 16) w.more c.host c.unv raw) with
     | (s2, .ok ()) =>
       (match s2.engChange p c.addr (.add w.inc) false c.host c.unv raw with
        | (s3, .hold) => (s.keepWaiting s3, .hold, 0)
        | (s3, r) => (s3, r, 0))
     | (s2, .fault e) => (s2, .fault e, 16)
     | (s2, .hold) => (s.keepWaiting s2, .hold, 16))
  | (s1, .fault e) => (s1, .fault e, 8)
  | (s1, .hold) => (s.keepWaiting s1, .hold, 8)

/-- Writes a cell unless its write is held: then only the waiting is left, and the answer is false. A write that fails is
queued (CELL_WRITE_FAILURE deals with it). `raw` is kept in the entry's kind: kinds from 16 on are unversioned. -/
def State.endCell (s : State) (w : CellWrite) : State × Bool :=
  match w.cmd.cell with
  | none => (s, true)
  | some c =>
    match s.tryCell w.cmd.party c w (decide (16 ≤ w.kind)) with
    | (s, .ok (), _) => (s, true)
    | (s, .fault e, off) => ({ s with cellQ := s.cellQ ++ [{ w with failed := some (e, off) }] }, true)
    | (s, .hold, _) => (s, false)

/-- A cell write that is still to be made stands in the lane. -/
def cellsWait (q : List CellWrite) (l : Lane) : Bool := decide (l ≠ .open_) && q.any (fun w => decide (w.cmd.lane = l))

/-- Writes a cell, or queues the write where it is held or stands behind an earlier one of its lane. -/
def State.writeCell (s : State) (w : CellWrite) : State :=
  if cellsWait s.cellQ w.cmd.lane then { s with cellQ := s.cellQ ++ [w] }
  else
    match s.endCell w with
    | (s, true) => s
    | (s, false) => { s with cellQ := s.cellQ ++ [w] }

/-- A status word: code, cause and detail (01 R34). -/
def statusWord (code : Nat) (cause : Byte) (detail : Nat) : Word :=
  BitVec.ofNat 64 (code + cause.toNat * 256 + detail % 2 ^ 48 * 2 ^ 16)

/-- The status of a command stopped by a fault. -/
def faultStatus (cause : Byte) (detail : Nat) : Word := statusWord 1 cause detail

/-- The cell of a command that ends with a status: under a refuted hypothesis the code is 0x02 (01 R41). `raw` as in
`endCell`. -/
def State.cellOf (s : State) (c : Cmd) (status : Word) (inc : Nat) (raw : Bool) : CellWrite :=
  let st := if s.refuted c.part c.hid ∧ raw = false ∧ status.toNat % 256 ≠ 2 then 2 else status
  ⟨c, st, inc, none, if raw then 16 else 0, 0, []⟩

/-- A command of a thread completes (01 R35). -/
def State.completeAs (s : State) (c : Cmd) (status : Word) (inc : Nat) (raw : Bool) : State := s.writeCell (s.cellOf c status inc raw)

def State.complete (s : State) (c : Cmd) (status : Word) : State := s.completeAs c status 1 false

/-- A command completes if its cell can be written now. -/
def State.completing (s : State) (c : Cmd) (status : Word) : State × Bool := s.endCell (s.cellOf c status 1 false)

/-! ## The lost-packet count (06 R167, 01 R477) -/

/-- Writes the count to the descriptor's word, with a release at system scope; held, it stays to be written. -/
def State.writeLost (s : State) (queue : Nat) : State :=
  match tget s.queues queue with
  | some q =>
    (match s.engWrite (rootParty q.part) (q.addr + 0x38) (leBytes 8 q.lost) true true true with
     | (s', .hold) =>
       let cmd : Cmd := ⟨0, 0, .open_, 0, q.part, 0, 0, 0, .sys, none, 0⟩
       { s.keepWaiting s' with cellQ := s.cellQ ++ [⟨cmd, 0, 0, none, 21, queue, []⟩] }
     | (s', _) => s')
  | none => s

/-- The lost-packet count rises by one. -/
def State.lostPacket (s : State) (queue : Nat) : State :=
  match tget s.queues queue with
  | some q => (s.setQueue queue { q with lost := q.lost + 1 }).writeLost queue
  | none => s

end Sys2Proof.Machine
end

