-- ==== Sys2Proof/Machine/Issue.lean ====
section
/-!
DEFINITION. Sys2Proof/Machine/Issue.lean: entering a line (02 R49, R51; 04 R110), which instructions may issue (04 R115,
R116; 07 R195), the choice of the context that issues (04 R115), and what every program instruction's meaning goes through.
-/
namespace Sys2Proof.Machine

/-! ## Lines -/

/-- The party of a thread's own accesses. -/
def Thread.party (t : Thread) (tid : Nat) : Party := ⟨t.part, t.hid, coreOf tid, tid, t.load, false, none⟩

/-- The end of an attempt to enter a line: the line, a fault with the head its record holds, or a hold. -/
inductive Entry where
  | ok (line : LineCopy)
  | fault (cause : Byte) (head : BitVec 16)
  | hold
  deriving DecidableEq, Repr

/-- `fetch_check`, the checks on the capability that control would run under (04 R110); a sealed one cannot be used to fetch
(04 R106) (log 122, DEDUCED). -/
def fetchCause (c : Reg) (base : Word) : Option Byte :=
  if c.tag = false then some 0x05
  else if c.sealed_ then some 0x06
  else if c.has permEX = false then some 0x08
  else if (base.toNat : Int) < (boundsOf c).1 ∨ (boundsOf c).2 < base.toNat + 64 then some 0x07
  else if base.getLsbD 63 then some 0x10
  else if canonical base = false then some 0x16
  else none

/-- `enter_line` on the bytes of a line for index `k` (02 R49). -/
def lineCause (bytes : List Byte) (k : Nat) : Option Byte :=
  match lineOk bytes with
  | none => some 0x01
  | some n => if k = 0 ∨ n < k then some 0x04 else none

/-- Enters the line of `target` for thread `tid`: bit 0 of an instruction address is 0 (02 R48, R49) (log 123, DEDUCED); the
fetch checks read `cap`, then the line is fetched under the thread's hypothesis and checked (04 R110, 02 R49) (log 17, DESIGN CHOICE). -/
def State.enterLine (s : State) (tid : Nat) (t : Thread) (cap : Reg) (target : Word) : State × Entry :=
  let base := target &&& ~~~63#64
  if target.getLsbD 0 then (s, .fault 0x04 0)
  else match fetchCause cap base with
  | some c => (s, .fault c 0)
  | none =>
    match s.engRead1 { t.party tid with fetch := true, cls := some 0 } base 64 cap.hostBit with
    | (s', .ok (bytes, _)) =>
      match lineCause bytes (target.toNat % 64 / 2) with
      | some c => (s', .fault c (lineHalf bytes 0))
      | none => (s', .ok ⟨base, bytes⟩)
    | (s', .fault c) => (s', .fault c 0)
    | (s', .hold) => (s.keepWaiting s', .hold)

/-- The thread holds the line its pcc points into. -/
def Thread.heldLine (t : Thread) : Option LineCopy :=
  match t.line with
  | some l => if l.base = t.pcc.lo &&& ~~~63#64 then some l else none
  | none => none

/-- The next instruction of a thread that holds its line, or the cause of its decoding (02 R50). -/
def Thread.nextInstr (t : Thread) : Option (Except DecodeError Instr) :=
  t.heldLine.map (fun l => decodeAt l.bytes (t.pcc.lo.toNat % 64 / 2))

/-! ## Which instructions may issue -/

/-- Instructions that may issue behind loads that have not retired (04 R116). -/
def behindLoads (i : Instr) : Bool :=
  match i with
  | .nop | .yield | .jmp _ => true
  | .kputFpcsr _ | .kputFaultrec _ | .kputPrio _ | .kputWake _ | .kputCarve _ => false
  | .stB .. | .stH .. | .stW .. | .stD .. | .stQ .. => false
  | i => decide (regsOf i ≠ [])

/-- Registers that await a load (04 R116). -/
def Thread.busy (t : Thread) (r : RegNo) : Bool := decide (r ≠ 0) && t.window.any (fun u => u.d = r)

/-- Instructions issued and not retired, from the oldest unretired load on (04 R116). -/
def Thread.unretired (t : Thread) : Nat :=
  match t.window with
  | [] => 0
  | u :: _ => t.order - u.order

/-- The instruction may issue now (04 R115, R116; 07 R195 item 2). -/
def Thread.mayIssue (t : Thread) (i : Instr) : Bool :=
  (if behindLoads i then decide (t.unretired < 8) && !((regsOf i).any t.busy) else decide (t.window = []))
    && t.stores.all (fun x => decide (x.after < 31))

/-! ## What an instruction does -/

/-- What an instruction does when it issues. -/
inductive Eff where
  /-- It retires, or goes on its way as an unretired load; pcc moves to the following instruction. -/
  | retire (s : State)
  /-- It retires and pcc is replaced; the thread holds the target's line. -/
  | jump (s : State) (pcc : Reg) (line : LineCopy)
  /-- A precise fault (04 R117), charged to this instruction. -/
  | trap (t : Trap)
  /-- A fault of a transfer's target line, charged to the transferring instruction (02 R49). -/
  | badTarget (s : State) (t : Trap)
  /-- It has issued and waits: pcc stays at it. -/
  | wait (s : State)
  /-- A command that its engine has taken and whose access is held: it retires, and the command goes on when it can. -/
  | pend (s : State) (cmd : Cmd)
  /-- Its fetch is held: it waits and will issue again (09 R273). -/
  | held (s : State)
  /-- It does not issue yet, and stands in line for what it waits for. -/
  | queued (s : State)
  /-- It does not issue yet: nothing changes. -/
  | stall

/-- The thread whose instruction the step executes: resident, running, waiting for nothing (04 R115). -/
def State.runner (s : State) : Option Thread :=
  match s.thread? s.cur with
  | some t =>
    if t.state = .running ∧ t.tier = .resident ∧ t.wait = .none ∧ t.fault = none ∧ t.leaving = false then some t else none
  | none => none

/-- The thread sleeps on a held access of its own (09 R273, 05 R137). -/
def State.sleepOnAccess (s : State) (tid : Nat) : State :=
  s.modThread tid (fun u => { u with wait := .access, state := if u.state = .running then .sleeping else u.state })

/-- The thread counts as the one that issued last in its class (04 R115). -/
def State.noteIssue (s : State) (t : Thread) : State :=
  let k := s.core (coreOf s.cur)
  match (List.range 4).find? (fun p => k.resident.getD p none = some (slotOf s.cur)) with
  | some pos => s.setCore (coreOf s.cur) { k with lastPos := lset k.lastPos (min t.cls 3) pos }
  | none => s

/-- The instruction cannot issue in this cycle after all: the thread is no candidate in the next and its turn has passed, so
that others issue (log 64, DEDUCED). -/
def State.standAside (s : State) (t : Thread) : State :=
  (s.modThread s.cur (fun u => { u with justYielded := s.cycle + 2 })).noteIssue t

/-- A thread whose fetch is held sleeps (09 R273); behind unretired loads, or where the slice has returned the fetch for 64
cycles (08 R255), it only waits. -/
def State.waitFetch (s held : State) (tid : Nat) (t : Thread) : State :=
  let returned := held.clusters.any (fun (_, k) =>
    k.engHolds.any (fun h => decide (h.who.tid = tid) && h.who.fetch && decide (h.why = .retry)))
  if t.window ≠ [] then s.standAside t else if returned then held.standAside t else held.sleepOnAccess tid

/-- Carries out an instruction of the current thread. A precise fault behind an unretired load waits for that load, since
the load may fault first (04 R117). -/
def State.finish (s : State) (i : Instr) (t : Thread) : Eff → State
  | .retire s' => ((s'.modThread s.cur (fun u => (u.countIssue s.cycle).advance)).showFlags s.cur).noteIssue t
  | .jump s' pcc line =>
    ((s'.modThread s.cur (fun u => { u.countIssue s.cycle with pcc := pcc, line := some line })).showFlags s.cur).noteIssue t
  | .trap x => if t.window = [] then (s.takeFault s.cur x.cause x.addr x.kind x.size t.headAt .faulted).noteIssue t else s.standAside t
  | .badTarget s' x => if t.window = [] then (s'.takeFault s.cur x.cause x.addr x.kind x.size t.headAt .faulted).noteIssue t else s.standAside t
  | .pend s' cmd =>
    ((({ s' with heldCmds := s'.heldCmds ++ [⟨cmd, i, t, (tget s'.loads cmd.load).map Load.basket⟩] } : State).modThread s.cur (fun u => (u.countIssue s.cycle).advance)).showFlags s.cur).noteIssue t
  | .wait s' => (s'.modThread s.cur (fun u => u.countIssue s.cycle)).noteIssue t
  | .held s' => (s.waitFetch s' s.cur t).noteIssue t
  | .queued s' => if t.window = [] then s'.standAside t else s.standAside t
  | .stall => s.standAside t

/-- The shape of every program instruction's meaning: the current thread issues it. With no such thread, or where it may
not issue yet, nothing happens. -/
def State.issue (s : State) (i : Instr) (f : Thread → Eff) : Host.Outcome State Fault Refusal :=
  match s.runner with
  | some t => if t.mayIssue i then .next (s.finish i t (f t)) else .next s
  | none => .next s

/-- An instruction's effect when a list of checks lets it pass; else the first failing check's fault (00 R12). -/
def Eff.checked (checks : List (Option Trap)) (f : Unit → Eff) : Eff :=
  match firstOf checks with
  | some t => .trap t
  | none => f ()

/-- An instruction that only writes register `d`. -/
def State.writes (s : State) (d : RegNo) (v : Reg) : Eff := .retire (s.modThread s.cur (fun t => t.setReg d v))

/-! ## Choosing the context (04 R115) -/

/-- A context that could issue: running and resident, its next instruction free to issue. A thread that holds no line may
enter one behind its loads (04 R116); one whose next instruction does not decode needs nothing unretired (04 R117). -/
def State.candidate (s : State) (t : Thread) : Bool :=
  decide (t.state = .running) && decide (t.tier = .resident) && decide (t.wait = .none) && decide (t.fault = none)
    && !t.leaving && decide (t.justYielded ≠ s.cycle + 1)
    && (match t.nextInstr with
        | some (.ok i) => t.mayIssue i
        | some (.error _) => decide (t.window = [])
        | none => decide (t.unretired < 8))

/-- The thread at a resident position of a core. -/
def State.atPos (s : State) (c pos : Nat) : Option (Nat × Thread) :=
  match (s.core c).resident.getD pos none with
  | some slot => (s.thread? (c * 256 + slot)).map (fun t => (c * 256 + slot, t))
  | none => none

/-- The candidate positions of a core with their classes. -/
def State.candidates (s : State) (c : Nat) : List (Nat × Nat) :=
  (List.range 4).filterMap (fun pos =>
    match s.atPos c pos with
    | some (_, t) => if s.candidate t then some (pos, t.cls) else none
    | none => none)

/-- The position that issues: of the highest class, the first after the one that issued last in that class. -/
def State.chosen (s : State) (c : Nat) : Option Nat :=
  let cs := s.candidates c
  let top := cs.foldl (fun m x => max m x.2) 0
  let last := (s.core c).lastPos.getD top 3
  ((List.range 4).map (fun k => (last + 1 + k) % 4)).find? (fun pos => cs.contains (pos, top))

/-- Prepares an issue of core `c`: chooses the context, enters its line when it holds none, decodes. The instruction to
execute is none where no context issues, or where the entry or the decoding itself ended in a fault or a hold. -/
def State.prepare (s : State) (c : Nat) : State × Option Instr :=
  match s.chosen c with
  | none => (s, none)
  | some pos =>
    match s.atPos c pos with
    | none => (s, none)
    | some (tid, t) =>
      let s := { s with cur := tid }
      let entered := match t.heldLine with
        | some l => (s, Entry.ok l)
        | none => s.enterLine tid t t.pcc t.pcc.lo
      match entered with
      -- a fault behind an unretired load waits for that load, which may fault first
      | (s, .fault c h) => (if t.window = [] then s.takeFault tid c t.pcc.lo .fetch 5 h .faulted else s.standAside t, none)
      | (s, .hold) => (s.waitFetch s tid t, none)
      | (s, .ok l) =>
        let s := s.modThread tid (fun t => { t with line := some l })
        match decodeAt l.bytes (t.pcc.lo.toNat % 64 / 2) with
        | .ok i => (s, some i)
        | .error e => (if t.window ≠ [] then s.standAside t else s.takeFault tid e.cause 0 .none 7 (lineHalf l.bytes (t.pcc.lo.toNat % 64 / 2)) .faulted, none)

end Sys2Proof.Machine
end

