-- ==== Sys2Proof/Machine/Placement.lean ====
section
/-!
DEFINITION. Sys2Proof/Machine/Placement.lean: the tiers (05 R138, R139): which ready context comes in, which leaves.
-/
namespace Sys2Proof.Machine

/-- A thread becomes able to run: running where its context is resident, ready elsewhere (05 R137). -/
def Thread.wake (t : Thread) (cycle : Nat) : Thread :=
  if t.tier = .resident ∧ t.held = false then { t with state := .running } else { t with state := .ready, since := cycle }

/-- A sleeping thread wakes; any other state is kept (05 R137). -/
def Thread.wakeIfSleeping (t : Thread) (cycle : Nat) : Thread := if t.state = .sleeping then t.wake cycle else t

/-- The context may come into the resident tier: ready outside it, not held or stowed (rule 5). -/
def Thread.mayEnter (t : Thread) : Bool :=
  decide (t.state = .ready ∧ t.tier ≠ .resident ∧ t.tier ≠ .stowed ∧ t.held = false ∧ t.fault = none)

/-- Rule 1: of the ready threads outside the resident tier, the highest class, then the longest ready, then the lowest
slot. -/
def Core.pickReady (k : Core) : Option (Nat × Thread) :=
  k.threads.foldl (fun best (i, t) =>
    if t.mayEnter then
      match best with
      | none => some (i, t)
      | some (_, b) => if b.cls < t.cls ∨ (b.cls = t.cls ∧ t.since < b.since) then some (i, t) else best
    else best) none

/-- The first place of a list that holds nothing, below `n`. -/
def freePlace (l : List (Option Nat)) (n : Nat) : Option Nat :=
  (List.range n).find? (fun i => (l.getD i none).isNone)

/-- A context leaves the resident tier: to warm where warm has room, otherwise to the park region (rule 2); its
reservation is lost (07 R201). -/
def Core.moveOut (k : Core) (slot : Nat) (cycle : Nat) : Core :=
  match tget k.threads slot with
  | none => k
  | some t =>
    let t := { t with leaving := false, resv := none
                      state := if t.state = TState.running then TState.ready else t.state
                      since := if t.state = TState.running then cycle else t.since }
    let res := k.resident.map (fun r => if r = some slot then none else r)
    match freePlace k.warm k.warmSlots with
    | some w => { k with resident := res, warm := lset k.warm w (some slot), threads := tput k.threads slot { t with tier := .warm } }
    | none => { k with resident := res, threads := tput k.threads slot { t with tier := .parked } }

/-- A ready context takes a resident position and runs (05 R137). -/
def Core.moveIn (k : Core) (pos slot : Nat) : Core :=
  match tget k.threads slot with
  | none => k
  | some t =>
    { k with resident := lset k.resident pos (some slot), warm := k.warm.map (fun r => if r = some slot then none else r)
             threads := tput k.threads slot { t with tier := .resident, state := if t.state = .ready then .running else t.state } }

/-- The thread of a resident position. -/
def Core.posThread (k : Core) (pos : Nat) : Option (Nat × Thread) :=
  match k.resident.getD pos none with
  | some slot => (tget k.threads slot).map (fun t => (slot, t))
  | none => none

/-- A position that rule 2 gives away: an empty one, else one whose thread is not running. -/
def Core.openPos (k : Core) : Option Nat :=
  match (List.range 4).find? (fun p => (k.posThread p).isNone) with
  | some p => some p
  | none => (List.range 4).find? (fun p =>
      match k.posThread p with
      | some (_, t) => decide (t.state ≠ .running) && decide (t.fault = none)
      | none => false)

/-- Rule 3's victim: the lowest class, then the one that issued least recently. -/
def Core.victimPos (k : Core) : Option (Nat × Thread) :=
  (List.range 4).foldl (fun best p =>
    match k.posThread p with
    | some (_, t) =>
      (match best with
       | none => some (p, t)
       | some (_, b) => if t.cls < b.cls ∨ (t.cls = b.cls ∧ t.lastIssue < b.lastIssue) then some (p, t) else best)
    | none => best) none

/-- One application of the rules of 05 R138 (log 42, DEDUCED). -/
def Core.placeOne (k : Core) (cycle : Nat) : Core :=
  match k.pickReady with
  | none => k
  | some (slot, t) =>
    match k.openPos with
    | some p =>
      let k := match k.resident.getD p none with | some old => k.moveOut old cycle | none => k
      k.moveIn p slot
    | none =>
      match k.victimPos with
      | some (p, v) =>
        if v.cls < t.cls ∧ !(List.range 4).any (fun q => match k.posThread q with | some (_, u) => u.leaving | none => false) then
          match k.resident.getD p none with
          | some vs => { k with threads := tput k.threads vs { v with leaving := true } }
          | none => k
        else k
      | none => k

/-- The rules applied until nothing moves, at most once per position. -/
def Core.place (k : Core) (cycle : Nat) : Core :=
  if k.quarantined then k
  else (((k.placeOne cycle).placeOne cycle).placeOne cycle).placeOne cycle

/-- Rule 4: at a `yield` the context leaves when the chosen thread's class is at least its own. -/
def Core.yieldOut (k : Core) (slot : Nat) : Core :=
  match k.pickReady, tget k.threads slot with
  | some (_, r), some t => if t.cls ≤ r.cls then { k with threads := tput k.threads slot { t with leaving := true } } else k
  | _, _ => k

/-- A leaving context that has nothing issued left goes, and the chosen thread takes its position (CONTEXT_DISPLACE). -/
def Core.displace (k : Core) (pos cycle : Nat) : Core :=
  match k.posThread pos with
  | some (slot, t) =>
    if t.leaving ∧ t.window = [] ∧ t.wait = .none ∧ t.fault = none then
      let k := k.moveOut slot cycle
      -- the one that left is not chosen again before the others
      match k.pickReady with
      | some (r, _) => k.moveIn pos r
      | none => k
    else k
  | none => k

/-- CONTEXT_DISPLACE (05 R138). -/
def execContextDisplace (core pos : Nat) (s : State) : Host.Outcome State Fault Refusal :=
  .next (s.setCore core ((s.core core).displace pos s.cycle))

end Sys2Proof.Machine
end

