-- ==== Sys2Proof/Machine/Watch.lean ====
section
/-!
DEFINITION. Sys2Proof/Machine/Watch.lean: watch records: placing, removing and delivering them (07 R206 to R214, 08 R245,
R246).
-/
namespace Sys2Proof.Machine

/-! ## Local holders -/

/-- A core has a free record for a watch: one of the 1,024 shared where the thread is another core's (07 R206). -/
def Core.recordFree (k : Core) (own core : Nat) (r : WatchRec) : Bool :=
  let foreign (x : WatchRec) : Bool := decide (coreOf x.tid ≠ core ∨ x.chip ≠ own)
  !foreign r || decide ((k.watches.flatMap (fun w => w.recs.filter foreign)).length < 1024)

/-- A core's records with one more on a unit. -/
def Core.withRecord (k : Core) (unit : Nat) (r : WatchRec) : Core :=
  if k.watches.any (fun w => w.unit = unit) then
    { k with watches := k.watches.map (fun x => if x.unit = unit then { x with recs := x.recs ++ [r] } else x) }
  else { k with watches := k.watches ++ [⟨0, unit, 0, [r]⟩] }

/-- Places a record at every holder of a place; nothing when one of them has no record free (07 R206). Gives the arming
sequence, which the first of them keeps: no write has fired a unit that still holds a record. -/
def State.placeLocal (s : State) (p : Place) (r : WatchRec) : Option (State × Nat) :=
  let cores := (localHolders p).eraseDups
  if cores.all (fun c => (s.core c).recordFree s.bridge.chip c r) then
    some (cores.foldl (fun s c => s.setCore c ((s.core c).withRecord (localUnit p 0) r)) s,
      (((s.core (cores.headD 0)).watches.find? (fun w => w.unit = localUnit p 0)).map WatchUnit.seq).getD 0)
  else none

/-! ## Home slices -/

/-- Records held in a slice's watch store. -/
def Cluster.recordCount (k : Cluster) : Nat := (k.watches.map (fun w => w.recs.length)).foldl (· + ·) 0

/-- A line with watch records, at the slice or with the darner (08 R228). -/
def Cluster.watched (k : Cluster) (part line : Nat) : Bool :=
  k.watches.any (fun w => w.part = part ∧ w.unit = line) || k.ovfLines.any (fun o => o.part = part ∧ o.line = line)

/-- The overflow record of a watch that is placed with the darner (08 R239). -/
def watchRecord (line seq : Nat) (r : WatchRec) : OvfRec :=
  ⟨3, BitVec.ofNat 64 (64 * line), BitVec.ofNat 64 seq, r.chip, r.tid, false, r.hid, r.depth, r.hidden, r.slot, 0⟩

/-- The overflow record of a watch that is removed: no sequence and no hypothesis (08 R239). -/
def goneRecord (line : Nat) (r : WatchRec) : OvfRec :=
  ⟨4, BitVec.ofNat 64 (64 * line), 0, r.chip, r.tid, false, 0, 0, r.hidden, r.slot, 0⟩

/-- Places a record on a global line at its home slice, or hands it to the darner when the store is full; nothing when
neither has room, and the arming waits (08 R245, R246). Gives the line's arming sequence. -/
def State.placeGlobal (s : State) (cl part line : Nat) (r : WatchRec) : Option (State × Nat) :=
  let k := s.cluster cl
  let ovf := k.ovfLines.find? (fun o => o.part = part ∧ o.line = line)
  if k.recordCount < 65536 then
    match k.watches.find? (fun w => w.part = part ∧ w.unit = line) with
    | some w => some (s.setCluster cl { k with watches := k.watches.map (fun x =>
        if x.part = part ∧ x.unit = line then { x with recs := x.recs ++ [r] } else x) }, (ovf.map OvfLine.seq).getD w.seq)
    | none =>
      let seq := (ovf.map OvfLine.seq).getD 0
      some (s.setCluster cl { k with watches := k.watches ++ [⟨part, line, seq, [r]⟩] }, seq)
  else if 1024 ≤ k.ovfQ.length then none
  else
    match ovf with
    | some o => some (s.setCluster cl { k with
        ovfLines := k.ovfLines.map (fun x =>
          if x.part = part ∧ x.line = line then { x with placed := x.placed + 1, lies := x.lies ++ [r] } else x)
        ovfQ := k.ovfQ ++ [watchRecord line o.seq r] }, o.seq)
    | none =>
      if 8192 ≤ k.ovfLines.length then none
      else
        -- the sequence moves from the line's watch entry to its overflow-line entry
        let seq := ((k.watches.find? (fun w => w.part = part ∧ w.unit = line)).map WatchUnit.seq).getD 0
        some (s.setCluster cl { k with ovfLines := k.ovfLines ++ [⟨part, line, seq, 1, 0, [r]⟩]
                                       ovfQ := k.ovfQ ++ [watchRecord line seq r] }, seq)

/-- An overflow-line entry is freed once as many watches are gone from the darner as were placed (08 R246). -/
def liveOvf (os : List OvfLine) : List OvfLine := os.filter (fun o => decide (o.gone < o.placed))

/-! ## Removing -/

/-- The record is the thread's watch of a slot, or its hidden watch. -/
def WatchRec.isOf (r : WatchRec) (chip tid slot : Nat) (hidden : Bool) : Bool :=
  decide (r.chip = chip) && decide (r.tid = tid) && r.hidden == hidden && (hidden || decide (r.slot = slot))

/-- Takes the records a test names out of every holder of this module. -/
def State.purgeRecords (s : State) (gone : WatchRec → Bool) : State :=
  let purge (ws : List WatchUnit) : List WatchUnit :=
    if ws.any (fun w => w.recs.any gone) then liveUnits (ws.map (fun w => { w with recs := w.recs.filter (fun r => !gone r) })) else ws
  { s with clusters := s.clusters.map (fun (n, k) => (n, { k with watches := purge k.watches }))
           cores := s.cores.map (fun (n, k) => (n, { k with watches := purge k.watches })) }

/-- A holder of this module has a record the test names. -/
def State.hasRecord (s : State) (test : WatchRec → Bool) : Bool :=
  s.clusters.any (fun (_, k) => k.watches.any (fun w => w.recs.any test)) ||
    s.cores.any (fun (_, k) => k.watches.any (fun w => w.recs.any test))

/-- The record that a test names, where it lies with a darner: its slice, its line's entry and the record. -/
def State.darnerRecord (s : State) (test : WatchRec → Bool) : Option (Nat × OvfLine × WatchRec) :=
  s.clusters.findSome? (fun (cl, k) => k.ovfLines.findSome? (fun o => (o.lies.find? test).map (fun r => (cl, o, r))))

/-- A watch leaves the darner: its kind 4 record is queued (08 R246). -/
def State.darnerForgets (s : State) (cl : Nat) (o : OvfLine) (r : WatchRec) : State :=
  let k := s.cluster cl
  s.setCluster cl { k with
    ovfLines := liveOvf (k.ovfLines.map (fun x => if x = o then { x with gone := x.gone + 1, lies := x.lies.erase r } else x))
    ovfQ := k.ovfQ ++ [goneRecord o.line r] }

/-- Takes the record that a test names away from its holder of this module, the darner among them; nothing where the kind 4
record finds the overflow queue full and may wait (`waits`); one that may not wait stands behind the full queue (08 R246)
(log 41, DEDUCED). -/
def State.forgetRecord (s : State) (test : WatchRec → Bool) (waits : Bool) : Option State :=
  if s.hasRecord test then some (s.purgeRecords test)
  else match s.darnerRecord test with
    | some (cl, o, r) => if waits ∧ 1024 ≤ (s.cluster cl).ovfQ.length then none else some (s.darnerForgets cl o r)
    | none => some s

/-- Removes the watch of a slot, or the hidden watch, from its holder. A peer's holder is told over the link. -/
def State.removeWatch (s : State) (tid slot : Nat) (hidden : Bool) (addr : Word) (waits : Bool) : Option State :=
  match placeOf s.bridge.chip (coreOf tid) addr with
  | .far chip => some (s.emit (.toPeer chip addr 0))
  | _ => s.forgetRecord (fun r => r.isOf s.bridge.chip tid slot hidden) waits

/-- The same where nothing waits. -/
def State.removeNow (s : State) (tid slot : Nat) (hidden : Bool) (addr : Word) : State :=
  (s.removeWatch tid slot hidden addr false).getD s

/-- Every watch of a thread goes: `exit` and retire (07 R214). -/
def State.dropWatches (s : State) (tid : Nat) : State :=
  match s.thread? tid with
  | none => s
  | some t =>
    let s := (List.range 8).foldl (fun s i =>
      match t.watch[i]? with
      | some w => if w.armed then s.removeNow tid i false (BitVec.ofNat 64 (64 * w.line)) else s
      | none => s) s
    let s := match t.hidden with
      | some a => s.removeNow tid 0 true a
      | none => s
    { s with firings := s.firings.filter (fun f => decide (f.tid ≠ tid)) }

/-! ## Delivering (07 R208) -/

/-- A slot fires: it is disarmed, fired[i] and pend are set, and a thread in `sleep` becomes ready. -/
def Thread.fireSlot (t : Thread) (slot cycle : Nat) : Thread :=
  match t.watch[slot]? with
  | some w =>
    if w.armed then
      let t := { t with watch := lput ⟨false, 0, 0⟩ t.watch slot { w with armed := false }, pend := true
                        fired := t.fired ||| BitVec.ofNat 8 (2 ^ slot) }
      if t.wait = .sleep then t.wakeIfSleeping cycle else t
    else t
  | none => t

/-- The hidden watch fires: a thread asleep in `waitge` becomes ready. -/
def Thread.fireHidden (t : Thread) (cycle : Nat) : Thread :=
  match t.wait with
  | .waitge _ asleep =>
    let t := { t with hiddenFired := true, hidden := none }
    if asleep then t.wakeIfSleeping cycle else t
  | _ => t

/-- A firing reaches its thread. -/
def State.deliver (s : State) (f : Firing) : State :=
  s.modThread f.tid (fun t => if f.hidden then t.fireHidden s.cycle else t.fireSlot f.slot s.cycle)

/-- Delivers what is on its way to a slot, or to the hidden watch, of a thread. -/
def State.deliverTo (s : State) (tid slot : Nat) (hidden : Bool) : State :=
  let mine (f : Firing) : Bool := decide (f.tid = tid) && f.hidden == hidden && (hidden || decide (f.slot = slot))
  let s' := (s.firings.filter mine).foldl State.deliver s
  { s' with firings := s'.firings.filter (fun f => !mine f) }

/-- The watch of a slot goes (07 R207, R209): a firing on its way to the slot arrives first, else its record is removed; nothing when
the removal must wait (08 R246). -/
def State.disarm (s : State) (tid slot : Nat) : Option State :=
  let s := s.deliverTo tid slot false
  match s.thread? tid with
  | none => some s
  | some t =>
    match t.watch[slot]? with
    | some w =>
      if w.armed then
        (s.removeWatch tid slot false (BitVec.ofNat 64 (64 * w.line)) true).map (fun s =>
          s.modThread tid (fun t => { t with watch := lput ⟨false, 0, 0⟩ t.watch slot { w with armed := false } }))
      else some s
    | none => some s

/-- The watch-set entry of an arming (05 R133), written as the record is placed. -/
def Thread.armEntry (t : Thread) (slot : Nat) (addr : Word) (seq : Nat) : Thread :=
  { t with watch := lput ⟨false, 0, 0⟩ t.watch slot ⟨true, addr.toNat / 64, BitVec.ofNat 64 seq⟩ }

/-- The record of a slot is placed by `place`, after the one it replaces has gone, and the slot's entry names it; a hidden watch
replaces nothing. -/
def State.arming (s : State) (tid slot : Nat) (hidden : Bool) (addr : Word) (place : State → Option (State × Nat)) :
    Option (State × Nat) :=
  if hidden then place s
  else
    match s.disarm tid slot with
    | none => none
    | some s =>
      match place s with
      | none => none
      | some (s, seq) => some (s.modThread tid (fun t => t.armEntry slot addr seq), seq)

/-! ## The watches of engines (06 R169, R175; 13 R337) -/

/-- The number that stands for an engine's own watch where records name threads: no thread has it (MODEL). -/
def watcherTid (id : Nat) : Nat := 2 ^ 28 + id

/-- The engine's watch is armed and has not fired, or its firing is on its way. -/
def State.watching (s : State) (id : Nat) : Bool :=
  s.hasRecord (fun r => decide (r.tid = watcherTid id)) || s.firings.any (fun f => decide (f.tid = watcherTid id))

/-- The engine's watch goes. -/
def State.endWatch (s : State) (id : Nat) : State :=
  { s.purgeRecords (fun r => decide (r.tid = watcherTid id)) with firings := s.firings.filter (fun f => decide (f.tid ≠ watcherTid id)) }

/-- An engine arms its own watch on a place and then reads it. Where the place is another module's, or its holder has no record
free, it only reads, and reads again at each turn (log 68, DEDUCED). -/
def State.engWatch (s : State) (p : Party) (depth : Nat) (a : Word) (n : Nat) (host : Bool) (id : Nat) : State × Acc (List Byte) :=
  match s.engReadAs .watch p a n host with
  | (s, .fault c) => (s, .fault c)
  | (s, .hold) => (s, .hold)
  | (s, .ok (bs, _)) =>
    let r : WatchRec := ⟨s.bridge.chip, watcherTid id, 0, true, p.hid, depth⟩
    let placed := match placeOf s.bridge.chip p.core a with
      | .glob va =>
        (match s.peekTrans p.part va .watch host with
         | .ok _ e =>
           let cl := s.homeOfLine p.part (va / 64)
           if pteTgt e = 3 ∨ 65536 ≤ (s.cluster cl).recordCount then none else s.placeGlobal cl p.part (va / 64) r
         | _ => none)
      | .far _ => none
      | pl => s.placeLocal pl r
    ((placed.map Prod.fst).getD s, .ok bs)

/-- A firing that another module sends for a watch of this module's thread that it holds (18 R460, R462): the slot is armed, or the
hidden watch set, and no holder of this module has its record. -/
def State.peerFire (s : State) (tid slot : Nat) (hidden : Bool) : State :=
  match s.thread? tid with
  | none => s
  | some t =>
    if s.hasRecord (fun r => r.isOf s.bridge.chip tid slot hidden) then s
    else s.deliver ⟨tid, slot, hidden, if hidden then ((t.hidden.getD 0).toNat / 64) else ((t.watch.getD slot ⟨false, 0, 0⟩).line)⟩

/-- WATCH_FIRE: the `i`-th firing on its way reaches its thread, or one that another module sends does. -/
def execWatchFire (f : FireSrc) (s : State) : Host.Outcome State Fault Refusal :=
  match f with
  | .mine i =>
    (match s.firings[i]? with
     | some f => .next ({ s with firings := s.firings.eraseIdx i }.deliver f)
     | none => .next s)
  | .peer tid slot hidden => .next (s.peerFire tid slot.toNat hidden)

end Sys2Proof.Machine
end

