-- ==== Sys2Proof/Machine/Cache.lean ====
section
/-!
DEFINITION. Sys2Proof/Machine/Cache.lean: what the L1s, the victim pools and the slices' data parts hold (08 R227, R249,
R253), and the directory's units (08 R229 to R238). Which line falls in which set is a free value of Config.
-/
namespace Sys2Proof.Machine

/-! ## Replacement (08 R249) -/

/-- The victim among lines of one set, most recently used first: the least recently used streaming, then default, then
sticky line. -/
def victimOf {α : Type} (hint : α → Hint) (l : List α) : Option α :=
  let r := l.reverse
  match r.find? (fun x => hint x == .s || hint x == .b) with
  | some x => some x
  | none =>
    match r.find? (fun x => hint x == .none) with
    | some x => some x
    | none => r.head?

/-- The hint a held line gets from an access: no hint leaves it, `.b` acts as `.s`. -/
def hintOver (new old : Hint) : Hint :=
  match new with
  | .none => old
  | .b => .s
  | h => h

/-- Sets of an L1 part: 8 ways of 64 bytes. -/
def Core.l1Sets (k : Core) : Nat := max 1 (k.l1Bytes / 512)

def Core.setOf (k : Core) (line : Nat) : Nat := Config.l1Set k.l1Sets line

/-- The cores of a group whose L1 parts are in its pool, in rising ring position (08 R253). -/
def State.pooledCores (s : State) (g : Nat) : List Nat :=
  ((List.range 16).map (· + 16 * g)).filter (fun c => (s.core c).pooled)

/-- The lines of one set of a core's L1 part, its own before the pool's. -/
def Core.inSet (k : Core) (line : Nat) : List L1Line :=
  (k.l1 ++ k.victims).filter (fun l => k.setOf l.line = k.setOf line)

/-- A line leaves the L1 part of a core: modified data is written back. -/
def State.evictL1 (s : State) (core : Nat) (x : L1Line) : State :=
  let k := s.core core
  let s := s.setCore core { k with l1 := k.l1.filter (· ≠ x), victims := k.victims.filter (· ≠ x) }
  if x.state = .M then s.spill x.part x.line else s

/-- Room in the set of a line: the victim is evicted when all 8 ways are taken. -/
def State.makeRoom (s : State) (core line : Nat) : State × Option L1Line :=
  let k := s.core core
  let set := k.inSet line
  if set.length < 8 then (s, none)
  else
    match victimOf L1Line.hint set with
    | some v => (s.evictL1 core v, if k.l1.contains v then some v else none)
    | none => (s, none)

/-- VICTIM_POOL_INSERT (08 R253): a line that a pooled core held in S or F goes to the pooled core its address names; a line
of that core that it displaces goes on in the same way. -/
def State.toPool (s : State) (core : Nat) (x : L1Line) : Nat → State
  | 0 => s
  | fuel + 1 =>
    let ps := s.pooledCores (groupOf core)
    if (s.core core).pooled ∧ (x.state = .S ∨ x.state = .F) ∧ ps ≠ [] then
      let target := ps.getD (x.line % 2 ^ 14 % ps.length) core
      let (s, out) := s.makeRoom target x.line
      let s := match out with | some v => s.toPool target v fuel | none => s
      let k := s.core target
      s.setCore target { k with victims := { x with state := .S } :: k.victims.filter (fun l => !(l.part = x.part ∧ l.line = x.line ∧ l.hid = x.hid)) }
    else s

/-- The copy of a line that an access under `hid` hits in a core's L1 (15 R408). -/
def Core.copy? (k : Core) (part line hid : Nat) : Option L1Line :=
  k.l1.find? (fun l => l.part = part ∧ l.line = line ∧ l.hid = hid)

/-- What a fill leaves of a line that the core holds already: a modified copy stays so, and the hint is overwritten only by
another (08 R249). -/
def L1Line.over (x : L1Line) (held : Option L1Line) : L1Line :=
  match held with
  | some y => { x with state := if y.state = .M then .M else x.state, hint := hintOver x.hint y.hint }
  | none => x

/-- Fills a line into a core's L1 in a state, as its most recently used. -/
def State.fillL1 (s : State) (core : Nat) (x : L1Line) : State :=
  let same (l : L1Line) : Bool := decide (l.part = x.part ∧ l.line = x.line ∧ l.hid = x.hid)
  let k := s.core core
  let x := x.over (k.copy? x.part x.line x.hid)
  let s := s.setCore core { k with l1 := k.l1.filter (fun l => !same l) }
  let (s, out) := s.makeRoom core x.line
  let s := match out with | some v => s.toPool core v 16 | none => s
  let k := s.core core
  let sticky := (k.inSet x.line).filter (fun l => l.hint = .k)
  s.setCore core { k with l1 := { x with hint := if x.hint = .k ∧ 6 ≤ sticky.length then .none else x.hint } :: k.l1 }

/-- Use of a line a core holds. -/
def State.touchL1 (s : State) (core : Nat) (x : L1Line) (h : Hint) : State :=
  let k := s.core core
  s.setCore core { k with l1 := { x with hint := hintOver h x.hint } :: k.l1.filter (· ≠ x) }

/-- A hit in the pool of a pooled core's group: the line moves into the requester's L1 in S (08 R253), with the access's hint
(R249). -/
def State.poolHit (s : State) (core part line hid : Nat) (h : Hint) : Option State :=
  if (s.core core).pooled then
    (s.pooledCores (groupOf core)).findSome? (fun c =>
      match (s.core c).victims.find? (fun l => l.part = part ∧ l.line = line ∧ l.hid = hid) with
      | some x =>
        let k := s.core c
        some ((s.setCore c { k with victims := k.victims.filter (· ≠ x) }).fillL1 core { x with state := .S, hint := hintOver h x.hint })
      | none => none)
  else none

/-! ## The slice's data part (08 R226) -/

/-- Sets of a slice's data part: 16 ways of what the park region and the version store leave of 2 MiB. -/
def Cluster.dataSets (k : Cluster) : Nat := max 1 ((2 ^ 21 - 65536 * k.park - 64 * k.versions.length) / 1024)

/-- A line leaves the slice's data part: modified data goes to memory unless an L1 holds it, and reservations on the line
are lost (08 R235). -/
def State.evictData (s : State) (cl : Nat) (x : SliceLine) : State :=
  let k := s.cluster cl
  let s := s.setCluster cl { k with data := k.data.filter (· ≠ x) }
  let s := s.dropResv (fun r => r.glob && decide (r.part = x.part ∧ r.start / 64 = x.line))
  if s.modifiedInL1 x.part x.line then s
  else match s.flatLine x.part x.line with
    | some f => s.writeBack f
    | none => s

/-- Evicts lines of a set of the data part until fewer than `n` stand in it. -/
def State.trimSet (s : State) (cl line n : Nat) : Nat → State
  | 0 => s
  | fuel + 1 =>
    let k := s.cluster cl
    let set := k.data.filter (fun l => decide (Config.sliceSet k.dataSets l.line = Config.sliceSet k.dataSets line))
    if set.length < n then s
    else match victimOf SliceLine.hint set with
      | some v => (s.evictData cl v).trimSet cl line n fuel
      | none => s

/-- After the data part has become smaller, lines that have no way left are evicted (08 R226). -/
def State.fitData (s : State) (cl : Nat) : State :=
  (s.cluster cl).data.foldl (fun s l => s.trimSet cl l.line 17 (s.cluster cl).data.length) s

/-- An access allocates or uses a line in the slice's data part. -/
def State.useData (s : State) (cl part line : Nat) (h : Hint) : State :=
  let k := s.cluster cl
  match k.data.find? (fun l => l.part = part ∧ l.line = line) with
  | some x => s.setCluster cl { k with data := { x with hint := hintOver h x.hint } :: k.data.filter (· ≠ x) }
  | none =>
    if h = .b then s
    else
      let s := s.trimSet cl line 16 k.data.length
      let k := s.cluster cl
      let sticky := k.data.filter (fun l => decide (Config.sliceSet k.dataSets l.line = Config.sliceSet k.dataSets line) && l.hint == .k)
      s.setCluster cl { k with data := ⟨part, line, if h = .k ∧ 12 ≤ sticky.length then .none else h⟩ :: k.data }

/-! ## The directory (08 R229 to R238) -/

/-- Notes a request on the line's unit, or on a line that no unit tracks (08 R233). -/
def State.seeUnit (s : State) (cl part line : Nat) (read : Bool) : State :=
  let k := s.cluster cl
  match k.unit? part line with
  | some u => s.setCluster cl { k with dir := k.dir.map (fun v =>
      if v = u then { v with seen := s.cycle, readAt := if read then s.cycle else v.readAt } else v) }
  | none =>
    let rest := k.lineSeen.filter (fun (p, l, c) => !(p = part ∧ l = line) && decide (s.cycle < c + 65536))
    s.setCluster cl { k with lineSeen := (part, line, s.cycle) :: rest }

/-- Adds a sharer to the line's shared unit and moves the forward pointer: none where a fifth sharer finds the overflow
queue full, and the read is then served without allocation (08 R237). -/
def State.addSharer (s : State) (cl part line core : Nat) : Option State :=
  let k := s.cluster cl
  match k.unit? part line with
  | some u =>
    match u.state with
    | .shared ps _ ovf lost =>
      let p := s.ptrOf core
      let put (d : DirState) (q : List OvfRec) : State :=
        s.setCluster cl { k with dir := k.dir.map (fun v => if v = u then { v with state := d, seen := s.cycle, readAt := s.cycle } else v), ovfQ := q }
      if ps.contains p then some (put (.shared ps (some core) ovf lost) k.ovfQ)
      else if ps.length < 4 then some (put (.shared (ps ++ [p]) (some core) ovf lost) k.ovfQ)
      else if 1024 ≤ k.ovfQ.length then none
      else
        let rec_ : OvfRec := ⟨1, BitVec.ofNat 64 (64 * u.base + u.k), 0, s.bridge.chip, core, (s.core core).pooled, 0, 0, false, 0, 0⟩
        some (put (.shared ps (some core) true lost) (k.ovfQ ++ [rec_]))
    | .owned _ => none
  | none => none

/-! ## The darner (08 R238) -/

/-- DARNER_UNBIND: units whose overflow bit is set are lost, every watch that lay with the darner fires, and the
overflow-line entries are freed. -/
def State.unbindDarner (s : State) (cl : Nat) : State :=
  let k := s.cluster cl
  let lose (u : DirUnit) : DirUnit :=
    match u.state with
    | .shared ps f true _ => { u with state := .shared ps f true true }
    | _ => u
  let s := s.setCluster cl { k with darner := none, dir := k.dir.map lose, ovfLines := [] }
  k.ovfLines.foldl (fun s o => o.lies.foldl (fun s r => s.sendFiring o.line r) s) s

/-- The thread is no darner any more (08 R238). -/
def State.noDarner (s : State) (tid : Nat) : State :=
  let cl := clusterOf (coreOf tid)
  if (s.cluster cl).darner = some tid then s.unbindDarner cl else s

end Sys2Proof.Machine
end

