-- ==== Sys2Proof/Machine/Requests.lean ====
section
/-!
DEFINITION. Sys2Proof/Machine/Requests.lean: accesses that leave their core (07 R188, R192, R193): making a request,
answering it, retiring loads in order (04 R116, R117), settling stores (07 R195 to R197).
-/
namespace Sys2Proof.Machine

/-- The width code of an access of `n` bytes (02 R53). -/
def widthCode (n : Nat) : Nat :=
  match n with
  | 1 => 0 | 2 => 1 | 4 => 2 | 8 => 3 | 16 => 4 | _ => 5

/-- The access kind a request's fault record shows (05 R162). -/
def ReqKind.akind : ReqKind → AKind
  | .load => .load
  | .store => .store
  | .watch _ _ => .watch
  | _ => .atomic

/-- Requests that return a register result. -/
def ReqKind.returns : ReqKind → Bool
  | .store | .watch _ _ => false
  | _ => true

/-- Atomics, which are performed once and whole (07 R199 to R201). -/
def ReqKind.atomic : ReqKind → Bool
  | .amo _ | .cas _ _ | .lres | .scond => true
  | _ => false

/-- Adds a request and gives its number. -/
def State.addReq (s : State) (r : Req) : State × Nat :=
  ({ s with reqs := s.reqs ++ [(s.nextReq, r)], nextReq := s.nextReq + 1 }, s.nextReq)

/-- Two spans of bytes meet. -/
def overlaps (a n b m : Nat) : Bool := decide (a < b + m) && decide (b < a + n)

/-- Two spans named by one core meet, whatever aliases name them (01 R17). -/
def spansMeet (own me : Nat) (a : Word) (n : Nat) (b : Word) (m : Nat) : Bool :=
  match placeOf own me a, placeOf own me b with
  | .glob x, .glob y => overlaps x n y m
  | .core c x, .core c' y => decide (c = c') && overlaps x n y m
  | .clu c x, .clu c' y => decide (c = c') && overlaps x n y m
  | .far c, .far c' => decide (c = c') && overlaps a.toNat n b.toNat m
  | _, _ => false

/-- A store of the thread that has not settled overlaps the span (07 R192). -/
def State.ownStoreOver (s : State) (tid : Nat) (t : Thread) (a : Word) (n : Nat) : Bool :=
  t.stores.any (fun x => match tget s.reqs x.req with
    | some r => spansMeet s.bridge.chip (coreOf tid) r.addr r.len a n
    | none => false)

/-- A load or atomic of the thread that has not been performed overlaps the span: a later load waits its turn (07 R216). -/
def State.ownLoadOver (s : State) (tid : Nat) (t : Thread) (a : Word) (n : Nat) : Bool :=
  t.window.any (fun x => match tget s.reqs x.req with
    | some r => spansMeet s.bridge.chip (coreOf tid) r.addr r.len a n
    | none => false)

/-- An acquire load or atomic of the thread has not returned: no later access is made before it (07 R220). -/
def State.acquirePending (s : State) (t : Thread) : Bool :=
  t.window.any (fun u => match tget s.reqs u.req with | some r => r.acq | none => false)

/-- A release store or atomic of the thread has not been performed: no later acquire is made before it (07 R218 item 7). -/
def State.releasePending (s : State) (t : Thread) : Bool :=
  let rel (n : Nat) : Bool := match tget s.reqs n with | some r => r.rel | none => false
  t.stores.any (fun x => rel x.req) || t.window.any (fun u => rel u.req)

/-- A load or atomic goes on its way: its register waits (04 R116). -/
def State.sendLoad (s : State) (tid : Nat) (t : Thread) (d : RegNo) (r : Req) : State :=
  let (s, id) := s.addReq r
  s.modThread tid (fun u => { u with window := u.window ++ [⟨id, d, u.order, false, none, t.checkpoint⟩] })

/-- A store goes on its way (07 R193): it counts until it settles. -/
def State.sendStore (s : State) (tid : Nat) (r : Req) : State :=
  let (s, id) := s.addReq r
  let s := s.modThread tid (fun u => { u with stores := u.stores ++ [⟨id, u.order, 0⟩] })
  if r.counted then
    let k := s.core (coreOf tid)
    s.setCore (coreOf tid) { k with unack := k.unack + 1 }
  else s

/-! ## Loads returning (04 R116, R117) -/

/-- The value a returned load or atomic writes: quads keep a tag, narrower ones are extended (07 R192, R199). -/
def Req.result (r : Req) (bits : Quad) (tag : Bool) : Reg :=
  match r.kind with
  | .load =>
    if r.len = 16 then ⟨bits, tag && r.ldc⟩
    else
      let v := BitVec.ofNat (8 * r.len) bits.toNat
      Reg.ofWord (if r.signed then v.signExtend 64 else v.setWidth 64)
  | .scond => Reg.ofNat bits.toNat
  | _ => if r.len = 16 then ⟨bits, tag && r.ldc⟩ else Reg.ofNat (bits.toNat % 2 ^ (8 * r.len))

/-- Writes a returned result: into the registers now and into the boundaries of the younger unretired loads; the flags of
an `amo.fadd` likewise. -/
def Thread.arrive (t : Thread) (req : Nat) (v : Reg) (f : FlagSet) : Thread :=
  match t.window.find? (fun u => u.req = req) with
  | none => t
  | some u =>
    let put (regs : List Reg) : List Reg := if u.d = 0 then regs else lput Reg.zero regs u.d.toNat v
    let t := t.raiseFlags u.order f
    { t with regs := put t.regs
             window := t.window.map (fun w =>
               if w.req = req then { w with arrived := true }
               else if u.order < w.order then
                 { w with before := { w.before with regs := put w.before.regs, fpcsr := w.before.fpcsr ||| f.setWidth 64 } }
               else w) }

/-- Retires arrived loads in program order. -/
def retireFront : List Unretired → List Unretired
  | [] => []
  | u :: r => if u.arrived then retireFront r else u :: r

/-- After an answer: the oldest loads that have arrived retire; a fault of the oldest is taken (04 R117); the thread, when
it slept on the access, wakes (05 R137). -/
def State.retireLoads (s : State) (tid : Nat) : State :=
  let s := (s.modThread tid (fun t => { t with window := retireFront t.window })).showFlags tid
  match s.thread? tid with
  | none => s
  | some t =>
    match t.window with
    | u :: _ =>
      match u.fault with
      | some c =>
        match tget s.reqs u.req with
        | some r =>
          let head := (t.restore u.before).headAt
          s.takeFault tid c r.addr r.kind.akind (widthCode r.len) head .faulted
        | none => s
      | none => s
    | [] => (s.modThread tid (fun t => if t.wait = .none then t.wakeIfSleeping s.cycle else t))

/-- A load's or atomic's answer reaches its thread: its value, or its fault. -/
def State.answer (s : State) (req : Nat) (r : Req) (a : Except Byte (Quad × Bool × FlagSet)) : State :=
  match a with
  | .ok (bits, tag, f) =>
    let s := s.modThread r.tid (fun t => t.arrive req (r.result bits tag) f)
    (s.dropReq req).retireLoads r.tid
  | .error c =>
    if (s.thread? r.tid).any (fun t => t.window.any (fun u => u.req = req)) then
      (s.modThread r.tid (fun t => { t with window := t.window.map (fun u =>
        if u.req = req then { u with fault := some c } else u) })).retireLoads r.tid
    else s.dropReq req

/-! ## Stores settling (07 R195 to R197) -/

/-- A store leaves the thread's count and, for a window store, the core's. -/
def State.settleStore (s : State) (req : Nat) (r : Req) : State :=
  let s := s.modThread r.tid (fun t => { t with stores := t.stores.filter (fun x => x.req ≠ req) })
  let s := if r.counted then
      let k := s.core (coreOf r.tid)
      s.setCore (coreOf r.tid) { k with unack := k.unack - 1 }
    else s
  let s := s.dropReq req
  s.modThread r.tid (fun t => if t.wait = .none ∧ t.window = [] ∧ t.fault = none then t.wakeIfSleeping s.cycle else t)

/-- Insertion in program order. -/
def sfInsert : List SfEntry → SfEntry → List SfEntry
  | [], e => [e]
  | x :: r, e => if e.order < x.order then e :: x :: r else x :: sfInsert r e

/-- A store fault enters the queue; the youngest of five is dropped and counted (05 R151, 07 R196). -/
def Thread.queueFault (t : Thread) (e : SfEntry) : Thread :=
  let q := sfInsert t.sfq e
  if q.length ≤ 4 then { t with sfq := q } else { t with sfq := q.take 4, ovf := t.ovf + 1 }

/-! ## An arming answered (07 R207) -/

/-- What the oldest instruction waited for has come: it retires. -/
def State.resume (s : State) (tid : Nat) (f : Thread → Thread) : State :=
  (s.modThread tid (fun t => (({ f t with wait := .none } : Thread).advance).wakeIfSleeping s.cycle)).showFlags tid

/-- A `warm` whose arming is answered writes its sequence and retires; the record of a peer's unit replaces the slot's now. -/
def State.armed (s : State) (tid id : Nat) (d : RegNo) (slot : Nat) (r : Req) (v : Quad) : State :=
  let done (s : State) : State := (s.dropReq id).resume tid (fun t => t.setReg d (Reg.ofNat v.toNat))
  match r.phase with
  | .atHost =>
    (match s.disarm tid slot with
     | some s => done (s.modThread tid (fun t => t.armEntry slot r.addr v.toNat))
     | none => s)
  | _ => done s

/-- A `warm` whose record is placed is whole: at a stop its answer counts as arrived (log 21, DEDUCED). -/
def State.deliverArming (s : State) (tid : Nat) : State :=
  match s.thread? tid with
  | none => s
  | some t =>
    match t.wait with
    | .warm id d slot =>
      (match tget s.reqs id with
       | some r => (match r.phase with
         | .done v _ _ => s.armed tid id d slot r v
         | _ => s)
       | none => s)
    | _ => s

/-! ## Applying pending answers at a stop -/

/-- An atomic that has been performed is whole: at a stop its answer counts as arrived (log 21, DEDUCED). -/
def State.deliverAtomics (s : State) (tid : Nat) : State :=
  match s.thread? tid with
  | none => s
  | some t =>
    match t.window with
    | u :: _ =>
      match tget s.reqs u.req with
      | some r =>
        match r.phase with
        | .done bits tag f => if r.kind.atomic then s.answer u.req r (.ok (bits, tag, f)) else s
        | _ => s
      | none => s
    | [] => s

/-- The head of the instruction at a thread's boundary, whose line is read where the thread does not hold it; zero where it
cannot be read now (07 R196) (log 129, DESIGN CHOICE). -/
def State.headOf (s : State) (tid : Nat) (t : Thread) : BitVec 16 :=
  match t.heldLine with
  | some _ => t.headAt
  | none =>
    match (s.enterLine tid t t.pcc t.pcc.lo).2 with
    | .ok l => lineHalf l.bytes (t.pcc.lo.toNat % 64 / 2)
    | .fault _ h => h
    | .hold => 0

/-- The stop for queued store faults takes effect at the boundary before the oldest unretired instruction (07 R196). -/
def State.stopForStores (s : State) (tid : Nat) : State :=
  let s := (s.deliverArming tid).deliverAtomics tid
  match s.thread? tid with
  | none => s
  | some t =>
    match t.sfq with
    | [] => s
    | e :: _ =>
      if t.fault.isSome then s else
      let at_ := match t.window with | u :: _ => t.restore u.before | [] => t
      s.takeFault tid 0x18 e.addr .store e.width (s.headOf tid at_) .faulted

/-- A store fault reaches its thread (07 R196, R197): by the thread's state it stops the thread or is only queued. -/
def State.storeFault (s : State) (tid : Nat) (e : SfEntry) : State :=
  let s := s.modThread tid (fun t => t.queueFault e)
  match s.thread? tid with
  | none => s
  | some t =>
    if t.fault.isSome then s
    else match t.state with
      | .running | .ready | .sleeping => s.stopForStores tid
      | .stopped => if t.ask ≠ .none then s.stopForStores tid else s
      | _ => s

/-- The queue entry of a store request (05 R134). -/
def Req.sfEntry (r : Req) (cause : Byte) : SfEntry :=
  ⟨r.order, r.addr, r.data, r.tag, widthCode r.len, cause, r.hid, r.depth⟩

/-- A stop from the thread agent: the thread stands at the boundary before its oldest unretired instruction, later ones
are discarded, and a hidden watch goes with its `waitge` (04 R117, 07 R211). `state` is what it becomes. -/
def State.stopAt (s : State) (tid : Nat) (state : TState) : State :=
  let s := ((s.deliverArming tid).deliverAtomics tid).dropIssued tid
  s.modThread tid (fun t => { t.toBoundary with state := state, hidden := none, hiddenFired := false, leaving := false })

/-! ## The replies (07) -/

/-- The read was sent to the host. -/
def State.sentToHost (s : State) (req : Nat) : Bool :=
  s.bridge.out.any (fun o => match o with | .readReq _ _ n => decide (n = req) | _ => false)

/-- The place in another module carries tags: a device page, or TCM; a scratchpad does not (07 R191). -/
def Req.peerTags (r : Req) : Bool :=
  match r.target with
  | .peer _ => !r.addr.getLsbD 62
  | _ => true

/-- LOAD_REPLY: the answer of a load or atomic reaches its core. A request of a peer is answered from outside; one of the
host's ends with its completion (17 R443). -/
def State.replyOf (s : State) (req : Nat) (r : Req) (ext : ExtReply) : Option (Except Byte (Quad × Bool × FlagSet)) :=
  match r.phase, ext with
  | .done bits tag f, _ => some (.ok (bits, tag, f))
  | .fault c, _ => some (.error c)
  | .atHost, .data v tag => if s.sentToHost req then none else some (.ok (v, tag && r.peerTags, 0))
  | .atHost, .fault c => if s.sentToHost req then none else some (.error c)
  | _, _ => none

end Sys2Proof.Machine
end

