-- ==== Sys2Proof/Machine/Atomic.lean ====
section
/-!
DEFINITION. Sys2Proof/Machine/Atomic.lean: what an atomic computes at its point of coherence (07 R199 to R201), and
accesses to local memory by a thread or for one.
-/
namespace Sys2Proof.Machine

/-- Bytes of an atomic's width. -/
def widthBytes : AWidth → Nat
  | .w => 4 | .d => 8 | .q => 16

/-- The signed value of the low `w` bits. -/
def signedOf (w v : Nat) : Int := (BitVec.ofNat w v).toInt

/-- The new value of an `amo` of `n` bytes and the flags of the add of `fadd` (07 R199). -/
def amoNew (kind n old b : Nat) : Nat × FlagSet :=
  let w := 8 * n
  let o := old % 2 ^ w
  let v := b % 2 ^ w
  match kind with
  | 0 => ((o + v) % 2 ^ w, 0)
  | 1 => (o &&& v, 0)
  | 2 => (o ||| v, 0)
  | 3 => (o ^^^ v, 0)
  | 4 => (if signedOf w o < signedOf w v then o else v, 0)
  | 5 => (if signedOf w v < signedOf w o then o else v, 0)
  | 6 => (Nat.min o v, 0)
  | 7 => (Nat.max o v, 0)
  | 8 => (v, 0)
  | _ =>
    let r := fpAdd layF32 .rne 0 (fpRead layF32 o) (fpRead layF32 v)
    (r.bits, r.flags)

/-- What an atomic writes, if anything, with the tag; and what it returns. -/
structure AtomicOut where
  write : Option (Nat × Bool)
  bits : Quad
  tag : Bool
  flags : FlagSet
  deriving DecidableEq, Repr

/-- The effect of an atomic on the value it finds; `resv`: the thread's reservation is held and names this address and
width (07 R199 to R201). -/
def Req.atomicOut (r : Req) (resv : Bool) (old : Nat) (oldTag : Bool) : AtomicOut :=
  let ret : Quad := BitVec.ofNat 128 old
  match r.kind with
  | .amo k =>
    let (v, f) := amoNew k r.len old r.data.toNat
    ⟨some (v, k == 8 && r.tag), ret, oldTag, f⟩
  | .cas e et =>
    if old = e.toNat % 2 ^ (8 * r.len) ∧ (r.len = 16 → oldTag = et) then
      ⟨some (r.data.toNat % 2 ^ (8 * r.len), r.tag), ret, oldTag, 0⟩
    else ⟨none, ret, oldTag, 0⟩
  | .scond => if resv then ⟨some (r.data.toNat % 2 ^ (8 * r.len), r.tag), 1, false, 0⟩ else ⟨none, 0, false, 0⟩
  | _ => ⟨none, ret, oldTag, 0⟩

/-- The thread's reservation serves this `scond` (07 R201). -/
def State.resvFor (s : State) (r : Req) : Bool :=
  match (s.thread? r.tid).bind Thread.resv with
  | some v => decide (v.addr = r.addr ∧ v.width = r.len)
  | none => false

/-- What an `lres` or `scond` does to the thread's reservation once performed: it is taken, dropped with success, or its
hold ends (07 R201, R202). -/
def State.afterAtomic (s : State) (r : Req) (v : Resv) : State :=
  match r.kind with
  | .lres => s.modThread r.tid (fun t => { t with resv := some { v with holdEnd := s.cycle + 128 } })
  | .scond => s.modThread r.tid (fun t =>
      { t with resv := if s.resvFor r then none else t.resv.map (fun x => { x with holdEnd := s.cycle }) })
  | _ => s

/-- The reservation an `lres` of local memory takes: the TCM line, or the scratch word. -/
def Req.localResv (r : Req) (p : Place) (flat : Nat) : Resv :=
  match p with
  | .core _ _ => ⟨r.addr, r.len, r.part, false, flat / 64 * 64, 64, r.hid, 0⟩
  | _ => ⟨r.addr, r.len, r.part, false, flat, 4, r.hid, 0⟩

/-- Another thread's hold covers one of the local bytes (07 R202). -/
def State.localHeld (s : State) (tid : Nat) (fs : List Nat) : Bool :=
  s.heldByOther (some tid) (fun r => fs.any (fun a => resvOnFlat a 1 r))

/-- A little-endian value as bytes. -/
def valueBytes (n : Nat) (v : Quad) : List Byte := leBytes n v.toNat

/-- The first row of 01 R19 that stops an atomic on a warm context: `lres` is a load, `scond` a store, the others are both. -/
def State.warmNoAtomic (s : State) (kind : ReqKind) (tid c w : Nat) : Option Byte :=
  let load := if kind = .scond then none else s.warmNoLoad tid c w
  match load with
  | some e => some e
  | none => if kind = .lres then none else s.warmNoStore tid c w

/-- An atomic performed on a warm context (01 R19, 07 R201 to R203). -/
def State.warmAtomic (s : State) (r : Req) (p : Place) (c w off : Nat) : State × Acc (Quad × Bool × FlagSet) :=
  match s.warmNoAtomic r.kind r.tid c w with
  | some e => (s, .fault e)
  | none =>
    if s.heldByOther (some r.tid) (resvOnFlat (s.warmFlat c w off) r.len) then (s, .hold)
    else
      let o := r.atomicOut (s.resvFor r) (leNat (s.warmBytes c w off r.len)) false
      let s' := s.afterAtomic r (r.localResv p (s.warmFlat c w off))
      match o.write with
      | none => (s', .ok (o.bits, o.tag, o.flags))
      | some (v, _) =>
        match s'.warmWrite r.tid c w off (leBytes r.len v) with
        | .error e => (s, .fault e)
        | .ok s' => (s', .ok (o.bits, o.tag, o.flags))

/-- An atomic performed on local memory (07 R203). -/
def State.localAtomic (s : State) (r : Req) (p : Place) : State × Acc (Quad × Bool × FlagSet) :=
  match s.warmAt p with
  | some (c, w, off) => s.warmAtomic r p c w off
  | none =>
    match s.localFlat p r.len with
    | .error e => (s, .fault e)
    | .ok fs =>
      if s.localHeld r.tid fs then (s, .hold)
      else if s.poisonedAt fs then (s, .fault 0x38)
      else
        let (bs, t) := s.readLocal fs
        let o := r.atomicOut (s.resvFor r) (leNat bs) t
        let s' := s.afterAtomic r (r.localResv p (fs.headD 0))
        match o.write with
        | none => (s', .ok (o.bits, o.tag, o.flags))
        | some (v, vt) => (s'.writeLocal p fs (leBytes r.len v) vt, .ok (o.bits, o.tag, o.flags))

/-- A load of local memory. -/
def State.localLoad (s : State) (tid : Nat) (p : Place) (n : Nat) : Except Byte (Quad × Bool) :=
  match s.warmAt p with
  | some (c, w, off) => (s.warmRead tid c w off n).map (fun bs => (BitVec.ofNat 128 (leNat bs), false))
  | none =>
    match s.localFlat p n with
    | .error e => .error e
    | .ok fs => if s.poisonedAt fs then .error 0x38 else .ok (BitVec.ofNat 128 (leNat (s.readLocal fs).1), (s.readLocal fs).2)

/-- A store to local memory. -/
def State.localStore (s : State) (tid : Nat) (p : Place) (bs : List Byte) (tag : Bool) : State × Acc Unit :=
  match s.warmAt p with
  | some (c, w, off) =>
    if s.heldByOther (some tid) (resvOnFlat (s.warmFlat c w off) bs.length) then (s, .hold)
    else (match s.warmWrite tid c w off bs with | .ok s' => (s', .ok ()) | .error e => (s, .fault e))
  | none =>
    match s.localFlat p bs.length with
    | .error e => (s, .fault e)
    | .ok fs => if s.localHeld tid fs then (s, .hold) else (s.writeLocal p fs bs tag, .ok ())

/-! ## Agent registers (05 R166) -/

/-- Issuer's rights over a core: an entry of kind 2 or 4 that covers it with every right of `r`, any right where `r` is 0. -/
def Thread.mayOverCore (t : Thread) (own core : Nat) (r : Byte) : Bool :=
  t.auth.any (fun e => entHas r e && decide (entRights e ≠ 0) && chipAgrees own (entChip e) own &&
    (decide (entKind e = 2 ∧ entTarget e = core) || decide (entKind e = 4 ∧ entTarget e = clusterOf core)))

/-- The core word: quarantined, resident contexts in use, warm capacity, warm contexts in use. -/
def Core.word (k : Core) : Word :=
  BitVec.ofNat 64 ((if k.quarantined then 1 else 0) + (k.resident.filter Option.isSome).length * 2 + k.warmSlots * 16
    + (k.warm.filter Option.isSome).length * 256)

/-- The word a slot shows: the state word with its upper half replaced by the load number; 0 for a free slot. -/
def State.slotWord (s : State) (tid : Nat) : Word :=
  match s.thread? tid with
  | some u => BitVec.ofNat 32 u.load ++ u.stateWord.setWidth 32
  | none => 0

/-- What stands at an offset of a core's agent registers, rights aside. -/
def State.agentShows (s : State) (core off : Nat) : Word :=
  if off < 0x800 then s.slotWord (core * 256 + off / 8) else if off = 0x800 then (s.core core).word else 0

/-- The issuer may read that word. -/
def State.agentMayRead (s : State) (me : Thread) (core off : Nat) : Bool :=
  if off < 0x800 then
    match s.thread? (core * 256 + off / 8) with
    | some u => me.mayOver s.bridge.chip (core * 256 + off / 8) u.load u.parentWord rREAD
    | none => me.mayOverCore s.bridge.chip core rREAD
  else if off = 0x800 then me.mayOverCore s.bridge.chip core 0
  else true

/-- The word a load of the agent registers of a core reads, or 0x28. -/
def State.agentWord (s : State) (issuer core off : Nat) : Except Byte Word :=
  match s.thread? issuer with
  | none => .error 0x28
  | some me => if s.agentMayRead me core off then .ok (s.agentShows core off) else .error 0x28

end Sys2Proof.Machine
end

