-- ==== Sys2Proof/Machine/AccessInstr.lean ====
section
/-!
DEFINITION. Sys2Proof/Machine/AccessInstr.lean: the instructions of the access engine (07): loads, stores, atomics, fences,
`drain`, watches, `sleep` and `waitge`.
-/
namespace Sys2Proof.Machine

/-! ## Addresses and requests -/

/-- The address of an access as an unbounded sum (04 R109). -/
def effAddr (c : Reg) (off : BitVec 17) : Int := (c.cursor.toNat : Int) + off.toInt

/-- A request of the current thread, to be completed by its maker. -/
def State.reqOf (s : State) (t : Thread) (kind : ReqKind) (c : Reg) (a : Word) (n : Nat) : Req :=
  { tid := s.cur, order := t.order, part := t.part, kind := kind, target := .core (coreOf s.cur), addr := a, len := n
    data := 0, tag := false, hid := t.hid, depth := t.depth, host := c.hostBit, unv := c.unv, ldc := c.has permLDC
    signed := false, hint := .none, scope := .mod, acq := false, rel := false, counted := false, sentAt := s.cycle, fill := none
    pos := 0, got := 0, phase := .sent }

/-- The home slice of a virtual address of the thread's partition. -/
def State.homeFor (s : State) (part va : Nat) : Target := .home (((tget s.parts part).map (fun p => p.homeOf va)).getD 0)

/-- The current thread's registers take a returned result at once. -/
def State.loaded (s : State) (r : Req) (d : RegNo) (bits : Quad) (tag : Bool) (f : FlagSet) : Eff :=
  .retire (s.modThread s.cur (fun t => (t.setReg d (r.result bits tag)).raiseFlags r.order f))

/-- The load goes on its way to where it is performed. -/
def State.sent (s : State) (t : Thread) (d : RegNo) (r : Req) (target : Target) (phase : Phase) : Eff :=
  .retire (s.sendLoad s.cur t d { r with target := target, phase := phase })

/-! ## Loads (07 R192) -/

/-- A hit in the own core's L1, or in the pool of its group: the copy must have been filled under the access's ID (15 R408)
and its page must still let the access pass. -/
def State.l1Read (s : State) (r : Req) (va : Nat) : Option (State × List Byte × Bool) :=
  let me := coreOf r.tid
  match s.peekTrans r.part va .read r.host with
  | .ok pa e =>
    match s.flatOf pa e with
    | some flat =>
      if cacheable e then
        let l : Loc := ⟨r.part, va, s.homeOfLine r.part (va / 64), flat, true⟩
        let v := s.viewRead l r.hid r.len
        if s.viewPoisoned l r.hid r.len then none  -- marked data answers at the home slice (05 R163)
        else match (s.core me).copy? r.part (va / 64) r.hid with
        | some x => some (s.touchL1 me x r.hint, v)
        | none => (s.poolHit me r.part (va / 64) r.hid r.hint).map (fun s' => (s', v))
      else none
    | none => none
  | _ => none

/-- A checked load is routed (01 R14 to R23) (log 28, DESIGN CHOICE). -/
def State.routeLoad (s : State) (t : Thread) (d : RegNo) (r : Req) : Eff :=
  let me := coreOf s.cur
  let trap (c : Byte) : Eff := .trap ⟨c, r.addr, .load, widthCode r.len⟩
  match placeOf s.bridge.chip me r.addr with
  | .glob va =>
    match if s.ownLoadOver s.cur t r.addr r.len then none else s.l1Read r va with
    | some (s', bs, tag) => s'.loaded r d (BitVec.ofNat 128 (leNat bs)) tag 0
    | none => s.sent t d r (s.homeFor t.part va) .sent
  | .core c off =>
    if touchesAgent r.addr r.len then
      -- 05 R166: 8-byte loads only, never an acquire; 04 R116: after every earlier instruction has retired
      if t.window ≠ [] then .stall
      else if r.len ≠ 8 then trap 0x09
      else if c = me then
        match s.agentWord s.cur c (off - agentBase) with
        | .ok v => s.loaded r d (v.setWidth 128) false 0
        | .error e => trap e
      else s.sent t d { r with acq := false } (.core c) .sent
    else if c = me then
      match s.localLoad s.cur (.core c off) r.len with
      | .ok (v, tag) => s.loaded r d v tag 0
      | .error e => trap e
    else s.sent t d r (.core c) .sent
  | .clu k off =>
    if k = clusterOf me then
      match s.localLoad s.cur (.clu k off) r.len with
      | .ok (v, tag) => s.loaded r d v tag 0
      | .error e => trap e
    else s.sent t d r (.scratch k) .sent
  | .far chip =>
    -- an agent-register range of another module is read in the same way (05 R166, 04 R116)
    if touchesAgent r.addr r.len ∧ t.window ≠ [] then .stall
    else if touchesAgent r.addr r.len ∧ r.len ≠ 8 then trap 0x09
    else if s.reachable chip then
      match s.sent t d { r with acq := r.acq && !touchesAgent r.addr r.len } (.peer chip) .atHost with
      | .retire s' => .retire (s'.emit (.toPeer chip r.addr r.len))
      | e => e
    else trap 0x10

/-- `load` of R192 (log 137, DESIGN CHOICE). -/
def State.load (s : State) (i : Instr) (n : Nat) (signed : Bool) (d a : RegNo) (off : BitVec 17) (acq : Option Scope) (h : Hint) :
    Host.Outcome State Fault Refusal :=
  s.issue i (fun t =>
    let c := t.reg a
    let x := effAddr c off
    let addr := BitVec.ofInt 64 x
    let w := widthCode n
    .checked [checkCap c permLD x n .load w, need (decide (addr.toNat % n = 0)) ⟨0x09, addr, .load, w⟩,
              need (canonical addr) ⟨0x16, addr, .load, w⟩] (fun _ =>
      if s.acquirePending t then .stall
      else if acq.isSome ∧ s.releasePending t then .stall
      else if s.ownStoreOver s.cur t addr n then .stall
      else s.routeLoad t d { s.reqOf t .load c addr n with signed := signed, hint := h, scope := acq.getD .mod, acq := acq.isSome }))

def execLdB (d a : RegNo) (off : BitVec 17) (z : Bool) (acq : Option Scope) (h : Hint) (s : State) : Host.Outcome State Fault Refusal :=
  s.load (.ldB d a off z acq h) 1 (!z) d a off acq h
def execLdH (d a : RegNo) (off : BitVec 17) (z : Bool) (acq : Option Scope) (h : Hint) (s : State) : Host.Outcome State Fault Refusal :=
  s.load (.ldH d a off z acq h) 2 (!z) d a off acq h
def execLdW (d a : RegNo) (off : BitVec 17) (z : Bool) (acq : Option Scope) (h : Hint) (s : State) : Host.Outcome State Fault Refusal :=
  s.load (.ldW d a off z acq h) 4 (!z) d a off acq h
def execLdD (d a : RegNo) (off : BitVec 17) (acq : Option Scope) (h : Hint) (s : State) : Host.Outcome State Fault Refusal :=
  s.load (.ldD d a off acq h) 8 false d a off acq h
def execLdQ (d a : RegNo) (off : BitVec 17) (acq : Option Scope) (h : Hint) (s : State) : Host.Outcome State Fault Refusal :=
  s.load (.ldQ d a off acq h) 16 false d a off acq h

/-! ## Stores (07 R193) -/

/-- A write that may tag memory is allowed for a tagged value (07 R191): the capability carries STC, and the value carries
GLOBAL or goes to the own core's TCM. Scratch, of any module, and agent registers carry no tags. -/
def State.tagAllowed (s : State) (c v : Reg) (a : Word) : Bool :=
  if touchesAgent a 16 then false
  else match placeOf s.bridge.chip (coreOf s.cur) a with
    | .clu _ _ => false
    | .core k _ => c.has permSTC && (v.has permGLOBAL || decide (k = coreOf s.cur))
    | .far _ => !a.getLsbD 62 && c.has permSTC && v.has permGLOBAL
    | .glob _ => c.has permSTC && v.has permGLOBAL

/-- The first failing check of R193. -/
def State.storeCause (s : State) (t : Thread) (c v : Reg) (x : Int) (n : Nat) : Option Byte :=
  let a := BitVec.ofInt 64 x
  match capCause c permST x n with
  | some e => some e
  | none =>
    if a.toNat % n ≠ 0 then some 0x09
    else if canonical a = false then some 0x16
    else if n = 16 ∧ v.tag ∧ s.tagAllowed c v a = false then some 0x08
    else if t.hid ≠ 0 ∧ isWindow a ∧ c.unv = false then some 0x20
    else none

/-- A store whose fault is found at the core: its report goes to the queue (07 R196). -/
def State.faultedStore (s : State) (r : Req) (cause : Byte) : Eff := .retire (s.sendStore s.cur { r with phase := .fault cause })

/-- A store of the owner of a line is performed in its own L1 (08 R227): E becomes M. Nothing when the L1 is not the owner,
or the page does not let it pass. -/
def State.l1Write (s : State) (r : Req) (va : Nat) (bs : List Byte) : Option State :=
  let me := coreOf r.tid
  match (s.core me).copy? r.part (va / 64) 0 with
  | some x =>
    if r.hid = 0 ∧ (x.state = .E ∨ x.state = .M) then
      match s.translate r.part va .write r.host true with
      | (s', .ok pa e) =>
        match s'.flatOf pa e with
        | some flat =>
          let l : Loc := ⟨r.part, va, s.homeOfLine r.part (va / 64), flat, true⟩
          if cacheable e = false ∨ s'.heldByOther (some r.tid) (s'.resvOnLine r.part l.line flat) ∨ s'.ovfFull l
             ∨ (r.tag ∧ dramEnd ≤ flat) then none
          else
            let k := s'.core me
            let s' := s'.setCore me { k with l1 := { x with state := .M, hint := hintOver r.hint x.hint } :: k.l1.filter (· ≠ x) }
            some (s'.applyWrite l 0 bs r.tag)
        | none => none
      | _ => none
    else none
  | none => none

/-- A checked store is routed. -/
def State.routeStore (s : State) (t : Thread) (r : Req) (ovr : Bool) : Eff :=
  let me := coreOf s.cur
  let bs := valueBytes r.len r.data
  let away (r : Req) : Eff := if r.counted ∧ 1024 ≤ (s.core me).unack then .stall else .retire (s.sendStore s.cur r)
  let atOnce (p : Place) : Eff :=
    match s.localStore s.cur p bs r.tag with
    | (s', .ok ()) => .retire s'
    | (_, .hold) => .stall
    | (_, .fault e) => s.faultedStore r e
  match placeOf s.bridge.chip me r.addr with
  | .glob va =>
    match if ovr then none else s.l1Write r va bs with
    | some s' => .retire s'
    | none => away { r with target := s.homeFor t.part va }
  | .core c off =>
    if c = me then (if touchesAgent r.addr r.len then s.faultedStore r 0x28 else atOnce (.core c off))
    else away { r with target := .core c, counted := true }
  | .clu k off =>
    if k = clusterOf me then atOnce (.clu k off) else away { r with target := .scratch k, counted := true }
  | .far chip =>
    if s.reachable chip then
      match away { r with target := .peer chip, counted := true, phase := .atHost } with
      | .retire s' => .retire (s'.emit (.toPeer chip r.addr r.len))
      | e => e
    else s.faultedStore r 0x10

/-- `store` of R193, with the limits of R195. -/
def State.store (s : State) (i : Instr) (n : Nat) (d a : RegNo) (off : BitVec 17) (rel : Option Scope) (h : Hint) :
    Host.Outcome State Fault Refusal :=
  s.issue i (fun t =>
    if 16 ≤ t.stores.length then .stall
    else if rel.isSome ∧ t.stores ≠ [] then .stall
    else
      let c := t.reg a
      let v := t.reg d
      let x := effAddr c off
      let addr := BitVec.ofInt 64 x
      let r := { s.reqOf t .store c addr n with data := BitVec.ofNat 128 (v.bits.toNat % 2 ^ (8 * n)), tag := decide (n = 16) && v.tag
                                                hint := h, scope := rel.getD .mod, rel := rel.isSome }
      match s.storeCause t c v x n with
      | some e => s.faultedStore r e
      | none => s.routeStore t r (s.ownStoreOver s.cur t addr n))

def execStB (d a : RegNo) (off : BitVec 17) (rel : Option Scope) (h : Hint) (s : State) : Host.Outcome State Fault Refusal :=
  s.store (.stB d a off rel h) 1 d a off rel h
def execStH (d a : RegNo) (off : BitVec 17) (rel : Option Scope) (h : Hint) (s : State) : Host.Outcome State Fault Refusal :=
  s.store (.stH d a off rel h) 2 d a off rel h
def execStW (d a : RegNo) (off : BitVec 17) (rel : Option Scope) (h : Hint) (s : State) : Host.Outcome State Fault Refusal :=
  s.store (.stW d a off rel h) 4 d a off rel h
def execStD (d a : RegNo) (off : BitVec 17) (rel : Option Scope) (h : Hint) (s : State) : Host.Outcome State Fault Refusal :=
  s.store (.stD d a off rel h) 8 d a off rel h
def execStQ (d a : RegNo) (off : BitVec 17) (rel : Option Scope) (h : Hint) (s : State) : Host.Outcome State Fault Refusal :=
  s.store (.stQ d a off rel h) 16 d a off rel h

/-! ## Atomics (07 R199 to R203) -/

/-- A checked atomic is routed. -/
def State.routeAtomic (s : State) (t : Thread) (d : RegNo) (r : Req) : Eff :=
  let me := coreOf s.cur
  let trap (c : Byte) : Eff := .trap ⟨c, r.addr, .atomic, widthCode r.len⟩
  let atOnce (p : Place) : Eff :=
    match s.localAtomic r p with
    | (s', .ok (v, tag, f)) => s'.loaded r d v tag f
    | (_, .hold) => .stall
    | (_, .fault e) => trap e
  match placeOf s.bridge.chip me r.addr with
  | .glob va => s.sent t d r (s.homeFor t.part va) .sent
  | .core c off => if c = me then atOnce (.core c off) else s.sent t d r (.core c) .sent
  | .clu k off => if k = clusterOf me then atOnce (.clu k off) else s.sent t d r (.scratch k) .sent
  | .far chip =>
    if s.reachable chip then
      match s.sent t d r (.peer chip) .atHost with
      | .retire s' => .retire (s'.emit (.toPeer chip r.addr r.len))
      | e => e
    else trap 0x10

/-- Checks and routing of `amo`, `cas`, `lres` and `scond`, in the order of R203; `v` is the value that may be written. -/
def State.atomicOp (s : State) (t : Thread) (kind : ReqKind) (perms : BitVec 14) (w : AWidth) (d a : RegNo) (v : Reg) (o : Ord3) : Eff :=
  let n := widthBytes w
  let c := t.reg a
  let addr := c.cursor
  let trap (x : Byte) : Trap := ⟨x, addr, .atomic, widthCode n⟩
  let tag := decide (n = 16) && v.tag && (match kind with | .lres => false | _ => true)
  if s.acquirePending t then .stall
  else if o.rel ∧ t.stores ≠ [] then .stall
  else if o.acq ∧ s.releasePending t then .stall
  else if s.ownStoreOver s.cur t addr n then .stall
  else
    .checked [checkCap c perms addr.toNat n .atomic (widthCode n), need (decide (addr.toNat % n = 0)) (trap 0x09),
              need (canonical addr) (trap 0x16), need (!touchesAgent addr n) (trap 0x28),
              need (!(addr.getLsbD 63 && addr.getLsbD 62) || decide (n = 4)) (trap 0x09),
              need (!tag || s.tagAllowed c v addr) (trap 0x08),
              need (decide (t.hid = 0) || !isWindow addr || c.unv) (trap 0x20)] (fun _ =>
      s.routeAtomic t d { s.reqOf t kind c addr n with
        data := BitVec.ofNat 128 (v.bits.toNat % 2 ^ (8 * n)), tag := tag, scope := o.scope, acq := o.acq, rel := o.rel })

/-- `amo` of R199. -/
def State.amo (s : State) (i : Instr) (kind : Nat) (w : AWidth) (d a b : RegNo) (o : Ord3) : Host.Outcome State Fault Refusal :=
  s.issue i (fun t =>
    let v := t.reg b
    s.atomicOp t (.amo kind) (permLD ||| permST ||| permAMO) w d a { v with tag := v.tag && kind == 8 } o)

def execAmoAdd (w : AWidth) (d a b : RegNo) (o : Ord3) (s : State) : Host.Outcome State Fault Refusal := s.amo (.amoAdd w d a b o) 0 w d a b o
def execAmoAnd (w : AWidth) (d a b : RegNo) (o : Ord3) (s : State) : Host.Outcome State Fault Refusal := s.amo (.amoAnd w d a b o) 1 w d a b o
def execAmoOr (w : AWidth) (d a b : RegNo) (o : Ord3) (s : State) : Host.Outcome State Fault Refusal := s.amo (.amoOr w d a b o) 2 w d a b o
def execAmoXor (w : AWidth) (d a b : RegNo) (o : Ord3) (s : State) : Host.Outcome State Fault Refusal := s.amo (.amoXor w d a b o) 3 w d a b o
def execAmoSmin (w : AWidth) (d a b : RegNo) (o : Ord3) (s : State) : Host.Outcome State Fault Refusal := s.amo (.amoSmin w d a b o) 4 w d a b o
def execAmoSmax (w : AWidth) (d a b : RegNo) (o : Ord3) (s : State) : Host.Outcome State Fault Refusal := s.amo (.amoSmax w d a b o) 5 w d a b o
def execAmoUmin (w : AWidth) (d a b : RegNo) (o : Ord3) (s : State) : Host.Outcome State Fault Refusal := s.amo (.amoUmin w d a b o) 6 w d a b o
def execAmoUmax (w : AWidth) (d a b : RegNo) (o : Ord3) (s : State) : Host.Outcome State Fault Refusal := s.amo (.amoUmax w d a b o) 7 w d a b o
def execAmoSwap (w : AWidth) (d a b : RegNo) (o : Ord3) (s : State) : Host.Outcome State Fault Refusal := s.amo (.amoSwap w d a b o) 8 w d a b o
def execAmoFadd (d a b : RegNo) (o : Ord3) (s : State) : Host.Outcome State Fault Refusal := s.amo (.amoFadd d a b o) 9 .w d a b o

/-- `cas` of R200: the expected value is d's. -/
def execCas (w : AWidth) (d a b : RegNo) (o : Ord3) (s : State) : Host.Outcome State Fault Refusal :=
  s.issue (.cas w d a b o) (fun t =>
    s.atomicOp t (.cas (t.reg d).bits (t.reg d).tag) (permLD ||| permST ||| permAMO) w d a (t.reg b) o)

/-- `lres` of R201. -/
def execLres (w : AWidth) (d a : RegNo) (sc : Scope) (acq : Bool) (s : State) : Host.Outcome State Fault Refusal :=
  s.issue (.lres w d a sc acq) (fun t => s.atomicOp t .lres (permLD ||| permAMO) w d a Reg.zero ⟨sc, acq, false⟩)

/-- `scond` of R201. -/
def execScond (w : AWidth) (d a b : RegNo) (sc : Scope) (rel : Bool) (s : State) : Host.Outcome State Fault Refusal :=
  s.issue (.scond w d a b sc rel) (fun t => s.atomicOp t .scond (permST ||| permAMO) w d a (t.reg b) ⟨sc, false, rel⟩)

/-- LRES_HOLD_EXPIRY (07 R202): a hold ends after 128 cycles. -/
def execLresHoldExpiry (tid : Nat) (s : State) : Host.Outcome State Fault Refusal :=
  .next (s.modThread tid (fun t => { t with resv := t.resv.map (fun r =>
    if r.holdEnd ≤ s.cycle then { r with holdEnd := 0 } else r) }))

/-! ## Fences and drain (07 R198, R204, R205) -/

/-- `fence`: with every earlier load returned, a kind sl or ss waits for the earlier stores (R195 item 3) (log 51, DEDUCED). -/
def execFence (kinds : BitVec 4) (sc : Scope) (s : State) : Host.Outcome State Fault Refusal :=
  s.issue (.fence kinds sc) (fun t => if (kinds.getLsbD 2 ∨ kinds.getLsbD 3) ∧ t.stores ≠ [] then .stall else .retire s)

/-- `fence.rs` retires when the core's count of unacknowledged window stores is zero. -/
def execFenceRs (s : State) : Host.Outcome State Fault Refusal :=
  s.issue .fenceRs (fun _ =>
    if (s.core (coreOf s.cur)).unack = 0 then .retire s else .wait (s.modThread s.cur (fun t => { t with wait := .fenceRs })))

/-- FENCE_RS_COMPLETE (07 R205). -/
def execFenceRsComplete (tid : Nat) (s : State) : Host.Outcome State Fault Refusal :=
  match s.thread? tid with
  | some t => if t.wait = .fenceRs ∧ t.fault = none ∧ (s.core (coreOf tid)).unack = 0 then .next (s.resume tid id) else .next s
  | none => .next s

/-- `drain` retires when every earlier store is acknowledged. -/
def execDrain (s : State) : Host.Outcome State Fault Refusal :=
  s.issue .drain (fun t => if t.stores = [] then .retire s else .wait (s.modThread s.cur (fun u => { u with wait := .drain })))

/-- DRAIN_COMPLETE (07 R198): with a fault among the stores the stop of R196 has taken the thread before the `drain`. -/
def execDrainComplete (tid : Nat) (s : State) : Host.Outcome State Fault Refusal :=
  match s.thread? tid with
  | some t => if t.wait = .drain ∧ t.fault = none ∧ t.stores = [] then .next (s.resume tid id) else .next s
  | none => .next s

/-! ## Watches (07 R206 to R211) -/

/-- The holder's record of a thread's watch. -/
def Req.watchRec (r : Req) (chip slot : Nat) (hidden : Bool) : WatchRec := ⟨chip, r.tid, slot, hidden, r.hid, r.depth⟩

/-- Arms a watch on local memory of this module: the sequence after placement, or the 8 bytes there for a hidden watch. -/
def State.armLocal (s : State) (r : Req) (slot : Nat) (hidden : Bool) (p : Place) : State × Acc Nat :=
  match s.localLoad r.tid p r.len with
  | .error e => (s, .fault e)
  | .ok (v, _) =>
    match s.arming r.tid slot hidden r.addr (fun s => s.placeLocal p (r.watchRec s.bridge.chip slot hidden)) with
    | some (s', seq) => (s', .ok (if hidden then v.toNat else seq))
    | none => (s, .hold)

/-- `warm` of R207. -/
def execWarm (d a : RegNo) (i : BitVec 3) (s : State) : Host.Outcome State Fault Refusal :=
  s.issue (.warm d a i) (fun t =>
    let c := t.reg a
    let addr := c.cursor
    let trap (x : Byte) : Trap := ⟨x, addr, .watch, 0⟩
    .checked [checkCap c (permLD ||| permWATCH) addr.toNat 1 .watch 0, need (canonical addr) (trap 0x16),
              need (!touchesAgent addr 1) (trap 0x08)] (fun _ =>
      let slot := i.toNat
      let r := s.reqOf t (.watch slot false) c addr 1
      let away (target : Target) (phase : Phase) : Eff :=
        let (s, id) := s.addReq { r with target := target, phase := phase }
        .wait (s.modThread s.cur (fun t => { t with wait := .warm id d slot }))
      let atOnce (p : Place) : Eff :=
        match s.armLocal r slot false p with
        | (s', .ok seq) => .retire (s'.modThread s.cur (fun t => t.setReg d (Reg.ofNat seq)))
        | (_, .hold) => .stall
        | (_, .fault e) => .trap (trap e)
      match placeOf s.bridge.chip (coreOf s.cur) addr with
      | .glob va => away (s.homeFor t.part va) .sent
      | .core k off => if k = coreOf s.cur then atOnce (.core k off) else away (.core k) .sent
      | .clu k off => if k = clusterOf (coreOf s.cur) then atOnce (.clu k off) else away (.scratch k) .sent
      | .far chip =>
        if s.reachable chip then
          match away (.peer chip) .atHost with
          | .wait s' => .wait (s'.emit (.toPeer chip addr 1))
          | e => e
        else .trap (trap 0x10)))

/-- `wdis` of R209. -/
def execWdis (i : BitVec 3) (s : State) : Host.Outcome State Fault Refusal :=
  s.issue (.wdis i) (fun t =>
    match t.watch[i.toNat]? with
    | some w =>
      if w.armed then
        .wait (({ s with nextReq := s.nextReq + 1 } : State).modThread s.cur (fun t => { t with wait := .wdis i.toNat s.nextReq }))
      else .retire s
    | none => .retire s)

/-! ### The order of traffic from one core to another (11 R311) -/

/-- The cores that local memory of a place belongs to. -/
def placeCores (p : Place) (n : Nat) : List Nat :=
  match p with
  | .core c _ => [c]
  | .clu k off => (List.range n).map (fun i => (scratchOwner k (off + i)).1)
  | _ => []

/-- The cores here that a request goes to, of those that hold its bytes. -/
def State.coresOf (s : State) (r : Req) : List Nat :=
  match r.target with
  | .core _ | .scratch _ => placeCores (placeOf s.bridge.chip (coreOf r.tid) r.addr) r.len
  | _ => []

/-- The cores that the watched unit of a thread's slot lies at. -/
def State.watchCores (s : State) (tid : Nat) (t : Thread) (slot : Nat) : List Nat :=
  match t.watch[slot]? with
  | some w => (placeCores (placeOf s.bridge.chip (coreOf tid) (BitVec.ofNat 64 (64 * w.line))) 64).filter (fun c => decide (c ≠ coreOf tid))
  | none => []

/-- A request from a core, sent before number `n` to one of some cores, has not been applied. -/
def State.sentBefore (s : State) (core n : Nat) (cores : List Nat) : Bool :=
  s.reqs.any (fun (m, q) => decide (m < n ∧ coreOf q.tid = core ∧ q.phase = .sent) && (s.coresOf q).any cores.contains)
    || (s.core core).threads.any (fun (i, t) =>
      match t.wait with
      | .wdis slot m => decide (m < n) && (s.watchCores (256 * core + i) t slot).any cores.contains
      | _ => false)

/-- The reply to a request has been sent and has not reached its thread. -/
def State.onReply (s : State) (n : Nat) (q : Req) : Bool :=
  (match q.phase with | .done _ _ _ | .fault _ => true | _ => false) &&
    (match s.thread? q.tid with
     | some t => !t.window.any (fun u => decide (u.req = n) && u.fault.isSome) && decide (t.wait ≠ .waitge n true)
     | none => true)

/-- An earlier reply of one of the same cores to the same core has not arrived: replies keep the order of what they answer. -/
def State.replyBehind (s : State) (n : Nat) (r : Req) : Bool :=
  s.reqs.any (fun (m, q) => decide (m < n ∧ coreOf q.tid = coreOf r.tid) && s.onReply m q && (s.coresOf q).any (s.coresOf r).contains)

/-- WDIS_REPLY (07 R209): the record is removed and the holder has replied; a firing that came first has fired the slot. -/
def execWdisReply (tid : Nat) (s : State) : Host.Outcome State Fault Refusal :=
  match s.thread? tid with
  | none => .next s
  | some t =>
    match t.wait with
    | .wdis slot n =>
      if t.fault.isSome ∨ s.sentBefore (coreOf tid) n (s.watchCores tid t slot) then .next s
      else match s.disarm tid slot with
        | some s => .next (s.resume tid id)
        | none => .next s
    | _ => .next s

/-- `sleep` of R210; a thread that sleeps loses its reservation (R201). -/
def execSleep (s : State) : Host.Outcome State Fault Refusal :=
  s.issue .sleep (fun t =>
    if t.pend then .retire (s.modThread s.cur (fun t => { t with pend := false }))
    else .wait (s.modThread s.cur (fun t => { t with wait := .sleep, state := .sleeping, resv := none })))

/-- SLEEP_WAKE (07 R210): pend has become 1. -/
def execSleepWake (tid : Nat) (s : State) : Host.Outcome State Fault Refusal :=
  match s.thread? tid with
  | some t =>
    if t.wait = .sleep ∧ t.pend ∧ t.fault = none ∧ t.held = false then .next (s.resume tid (fun t => { t with pend := false }))
    else .next s
  | none => .next s

/-- The hidden watch goes and `waitge` retires: its word has reached the value. -/
def State.waitMet (s : State) (tid : Nat) (id : Nat) : State :=
  let s := match s.thread? tid with
    | some t => (match t.hidden with | some a => s.removeNow tid 0 true a | none => s)
    | none => s
  let s := { s with firings := s.firings.filter (fun f => !(f.tid = tid ∧ f.hidden)) }
  (s.dropReq id).resume tid (fun t => { t with hidden := none, hiddenFired := false })

/-- The comparison of a `waitge` whose watch is armed: it retires, or sleeps until the hidden watch fires. -/
def State.waitCompare (s : State) (tid id : Nat) (v goal : Nat) : State :=
  if goal ≤ v then s.waitMet tid id
  else s.modThread tid (fun t =>
    { t with wait := .waitge id true, resv := none
             state := if t.hiddenFired then t.state else .sleeping })

/-- Arms the hidden watch of the current thread and looks, or sends the arming away; `id` is the request that keeps the
wait. -/
def State.armHidden (s : State) (tid id : Nat) (r : Req) : State × Acc Unit :=
  let s := { s with firings := s.firings.filter (fun f => !(f.tid = tid ∧ f.hidden)) }
  let s := s.modThread tid (fun t => { t with wait := .waitge id false, hidden := some r.addr, hiddenFired := false })
  let atOnce (p : Place) : State × Acc Unit :=
    match s.armLocal r 0 true p with
    | (s', .ok v) => (s'.waitCompare tid id v r.data.toNat, .ok ())
    | (s', .hold) => (s', .hold)
    | (s', .fault e) => (s', .fault e)
  match placeOf s.bridge.chip (coreOf tid) r.addr with
  | .glob va => (s.setReq id { r with target := s.homeFor r.part va, phase := .sent }, .ok ())
  | .core k off => if k = coreOf tid then atOnce (.core k off) else (s.setReq id { r with target := .core k, phase := .sent }, .ok ())
  | .clu k off =>
    if k = clusterOf (coreOf tid) then atOnce (.clu k off) else (s.setReq id { r with target := .scratch k, phase := .sent }, .ok ())
  | .far chip =>
    if s.reachable chip then (((s.setReq id { r with target := .peer chip, phase := .atHost }).emit (.toPeer chip r.addr 8)), .ok ())
    else (s, .fault 0x10)

/-- `waitge` of R211. The value waited for stands in the request that keeps the wait. -/
def execWaitge (a b : RegNo) (sc : Scope) (s : State) : Host.Outcome State Fault Refusal :=
  s.issue (.waitge a b sc) (fun t =>
    let c := t.reg a
    let addr := c.cursor
    let trap (x : Byte) : Trap := ⟨x, addr, .watch, 3⟩
    .checked [checkCap c (permLD ||| permWATCH) addr.toNat 8 .watch 3, need (decide (addr.toNat % 8 = 0)) (trap 0x09),
              need (canonical addr) (trap 0x16), need (!touchesAgent addr 8) (trap 0x08)] (fun _ =>
      if s.ownStoreOver s.cur t addr 8 ∨ s.releasePending t then .stall
      else
        let r := { s.reqOf t (.watch 0 true) c addr 8 with data := (t.reg b).lo.setWidth 128, scope := sc, acq := true
                                                           phase := .done 0 false 0 }
        let (s', id) := s.addReq r
        match s'.armHidden s.cur id r with
        | (s'', .ok ()) =>
          -- a wait that is met at once has already moved past the instruction
          (match (s''.thread? s.cur).map Thread.wait with
           | some .none => .jump s'' (((s''.thread? s.cur).map Thread.pcc).getD t.pcc) ((t.line).getD ⟨0, []⟩)
           | _ => .wait s'')
        | (_, .hold) => .stall
        | (_, .fault e) => .trap (trap e)))

/-- WATCH_ARM_REPLY (07 R207, R211): the holder's reply to an arming. -/
def execWatchArmReply (tid : Nat) (ext : ExtReply) (s : State) : Host.Outcome State Fault Refusal :=
  match s.thread? tid with
  | none => .next s
  | some t =>
    if t.fault.isSome then .next s
    else
      let go (id : Nat) (f : Req → Quad → State) : Host.Outcome State Fault Refusal :=
        match tget s.reqs id with
        | none => .next s
        | some r =>
          if s.replyBehind id r then .next s
          else match s.replyOf id r ext with
          | some (.ok (v, _, _)) => .next (f r v)
          | some (.error c) => .next (s.takeFault tid c r.addr .watch (widthCode r.len) t.headAt .faulted)
          | none => .next s
      match t.wait with
      | .warm id d slot => go id (fun r v => s.armed tid id d slot r v)
      | .waitge id false => go id (fun r v => s.waitCompare tid id (v.toNat % 2 ^ 64) r.data.toNat)
      | _ => .next s

/-- WAITGE_RECHECK (07 R211): the hidden watch has fired; `waitge` arms it again and looks again. A peer's word and arming
come with the reply. -/
def execWaitgeRecheck (tid : Nat) (ext : ExtReply) (s : State) : Host.Outcome State Fault Refusal :=
  match s.thread? tid with
  | none => .next s
  | some t =>
    match t.wait with
    | .waitge id true =>
      if t.hiddenFired = false ∨ t.state ≠ .running ∨ t.fault.isSome then .next s
      else
        match tget s.reqs id with
        | none => .next s
        | some r =>
          match r.target, ext with
          | .peer _, .data v _ =>
            let s := s.modThread tid (fun t => { t with hidden := some r.addr, hiddenFired := false })
            .next (s.waitCompare tid id (v.toNat % 2 ^ 64) r.data.toNat)
          | .peer _, .fault c => .next (s.takeFault tid c r.addr .watch 3 t.headAt .faulted)
          | _, _ =>
            match s.armHidden tid id r with
            | (s', .ok ()) => .next s'
            | (_, .hold) => .next s
            | (_, .fault c) => .next (s.takeFault tid c r.addr .watch 3 t.headAt .faulted)
    | _ => .next s

/-! ## Answers at the core -/

/-- LOAD_REPLY (07 R192, 04 R116): a load's or atomic's data or fault reaches its core; a fill goes into the L1 with it. -/
def execLoadReply (req : Nat) (ext : ExtReply) (s : State) : Host.Outcome State Fault Refusal :=
  match tget s.reqs req with
  | none => .next s
  | some r =>
    if r.kind.returns = false ∨ s.replyBehind req r then .next s
    else
      match s.replyOf req r ext with
      | none => .next s
      | some a =>
        let s := match r.fill with
          | some st => s.fillL1 (coreOf r.tid) ⟨r.part, r.addr.toNat / 64, r.hid, st, r.hint⟩
          | none => s
        .next (s.answer req r a)

/-- STORE_ACK (07 R188, 01 R20): a performed store's acknowledgement reaches its core; a peer's comes from outside. -/
def execStoreAck (req : Nat) (s : State) : Host.Outcome State Fault Refusal :=
  match tget s.reqs req with
  | none => .next s
  | some r =>
    if r.kind ≠ .store ∨ s.replyBehind req r then .next s
    else
      match r.phase, r.target with
      | .done _ _ _, _ => .next (s.settleStore req r)
      | .atHost, .peer _ | .atHost, .home _ => .next (s.settleStore req r)
      | _, _ => .next s

/-- A store's fault reaches its thread; that of a store whose thread was lost with its core is lost too (07 R197). -/
def State.storeFaulted (s : State) (req : Nat) (r : Req) (cause : Byte) : State :=
  let known := (s.thread? r.tid).any (fun t => t.stores.any (fun x => x.req = req))
  let s := s.settleStore req r
  if known then s.storeFault r.tid (r.sfEntry cause) else s

/-- STORE_FAULT_ARRIVAL (07 R196, R197): a store's fault reaches its core; a peer's comes from outside. -/
def execStoreFaultArrival (req : Nat) (ext : ExtReply) (s : State) : Host.Outcome State Fault Refusal :=
  match tget s.reqs req with
  | none => .next s
  | some r =>
    if r.kind ≠ .store ∨ s.replyBehind req r then .next s
    else
      match r.phase, ext with
      | .fault c, _ => .next (s.storeFaulted req r c)
      | .atHost, .fault c => .next (s.storeFaulted req r c)
      | _, _ => .next s

/-! ## Requests served at another core (01 R20, 11 R311, R312) -/

/-- An earlier request from the same core to one of the same cores has not been applied (11 R311). -/
def State.windowBehind (s : State) (id : Nat) (r : Req) : Bool := s.sentBefore (coreOf r.tid) id (s.coresOf r)

/-- The bytes of a window request that are performed at once: 4 of the scratchpad (07 R190). -/
def Req.piece (r : Req) (p : Place) : Nat :=
  match p with
  | .clu _ _ => min 4 (r.len - r.pos)
  | _ => r.len

/-- A piece of a window request has been performed: with the last one the request is. -/
def Req.advance (r : Req) (n : Nat) (got : Quad) (tag : Bool) : Req :=
  if r.len ≤ r.pos + n then { r with phase := .done got tag 0 } else { r with pos := r.pos + n, got := got }

/-- WINDOW_LOAD_SERVE, WINDOW_STORE_APPLY for a request of this module. -/
def State.serveWindow (s : State) (id : Nat) (r : Req) : State :=
  let put (s : State) (p : Phase) : State := s.setReq id { r with phase := p }
  let p := placeOf s.bridge.chip (coreOf r.tid) (r.addr + BitVec.ofNat 64 r.pos)
  let n := r.piece p
  let off := match p with | .core _ o => o | _ => 0
  let dead := match p with | .core c _ => (s.core c).quarantined | _ => false
  if r.phase ≠ .sent ∨ s.windowBehind id r then s
  -- the agent registers of a quarantined core still read (05 R166)
  else if dead && !(decide (r.kind = .load) && touchesAgent r.addr r.len) then put s (.fault 0x39)
  else
    match r.kind with
    | .load =>
      if touchesAgent r.addr r.len then
        match p with
        | .core c _ => (match s.agentWord r.tid c (off - agentBase) with
          | .ok v => put s (.done (v.setWidth 128) false 0)
          | .error e => put s (.fault e))
        | _ => s
      else (match s.localLoad r.tid p n with
        | .ok (v, tag) => s.setReq id (r.advance n (r.got ||| v <<< (8 * r.pos)) tag)
        | .error e => put s (.fault e))
    | .watch slot hidden =>
      (match s.armLocal r slot hidden p with
       | (s', .ok v) => put s' (.done (BitVec.ofNat 128 v) false 0)
       | (_, .hold) => s
       | (_, .fault e) => put s (.fault e))
    | .store =>
      if touchesAgent r.addr r.len then put s (.fault 0x28)
      else (match s.localStore r.tid p (((valueBytes r.len r.data).drop r.pos).take n) r.tag with
        | (s', .ok ()) => s'.setReq id (r.advance n 0 false)
        | (_, .hold) => s
        | (_, .fault e) => put s (.fault e))
    | _ =>
      (match s.localAtomic r p with
       | (s', .ok (v, tag, f)) => put s' (.done v tag f)
       | (_, .hold) => s
       | (_, .fault e) => put s (.fault e))

/-- The partition whose load holds a core of this module (18 R461). -/
def State.partOfCore (s : State) (core : Nat) : Option Nat :=
  (s.loads.find? (fun (_, l) => decide (l.core0 ≤ core ∧ core < l.core0 + l.cores) &&
      (l.state == .live || l.state == .stopping))).bind (fun (_, l) => (tget s.baskets l.basket).map Basket.part)

/-- WINDOW_DOMAIN_REFUSAL (18 R461): the request's tag is not that of the partition whose load holds the core. -/
def State.domainRefused (s : State) (core : Nat) (tag : BitVec 16) : Bool :=
  match (s.partOfCore core).bind (fun p => tget s.parts p) with
  | some p => decide (p.domTag ≠ tag.toNat)
  | none => true

/-- A window access of a party of another module, served at its target core here (18 R460). The right of the issuer over a
warm context is decided with entries that travel with the request and are outside this module: a free choice (log 23, DESIGN CHOICE) (log 119, DESIGN CHOICE). -/
def State.servePeer (s : State) (chip : BitVec 9) (tag : BitVec 16) (addr : Word) (op : PeerOp) : State :=
  let p := placeOf s.bridge.chip 0 addr
  let reply (s : State) (v : Quad) (tag : Bool) (c : Byte) : State := s.emit (.peerReply chip.toNat addr v tag c)
  let core := match p with
    | .core c _ => c
    | .clu k off => (scratchOwner k off).1
    | _ => 0
  if s.steward.power ≠ .aster then s  -- the module wakes first (19 R471)
  else if s.domainRefused core tag then reply s 0 false 0x28
  else
    let me := 2 ^ 28  -- no thread of this module
    let r : Req := { tid := me, order := 0, part := (s.partOfCore core).getD 0, kind := .load, target := .core core, addr := addr
                     len := 8, data := 0, tag := false, hid := 0, depth := 0, host := false, unv := true, ldc := true
                     signed := false, hint := .none, scope := .mod, acq := false, rel := false, counted := false, sentAt := s.cycle
                     fill := none, pos := 0, got := 0, phase := .sent }
    -- what waits for another thread's hold leaves the state as it was
    let store (bs : List Byte) (tg : Bool) (s' : State) (answer : Quad) : State :=
      if touchesAgent addr bs.length then reply s 0 false 0x28
      else match s'.localStore me p bs tg with
        | (s', .ok ()) => reply s' answer false 0
        | (_, .hold) => s
        | (_, .fault e) => reply s 0 false e
    let atomic (r : Req) (s' : State) (f : State → State) : State :=
      if touchesAgent addr r.len then reply s 0 false 0x28
      else match s'.localAtomic r p with
        | (s', .ok (o, tg, _)) => reply (f s') o tg 0
        | (_, .hold) => s
        | (_, .fault e) => reply s 0 false e
    match op with
    | .load n =>
      if touchesAgent addr n then
        let (s, ok) := s.choose
        let off := match p with | .core _ o => o - agentBase | _ => 0
        if n ≠ 8 then reply s 0 false 0x09
        else if ok then reply s ((s.agentShows core off).setWidth 128) false 0 else reply s 0 false 0x28
      else match s.localLoad me p n with
        | .ok (v, tg) => reply s v tg 0
        | .error e => reply s 0 false e
    | .store bs tg => store bs tg s 0
    | .atomic kind w v tg => atomic { r with kind := .amo kind.toNat, len := widthBytes w, data := v, tag := tg } s id
    | .cas w e et v tg => atomic { r with kind := .cas e et, len := widthBytes w, data := v, tag := tg } s id
    | .lres tid w =>
      let r := { r with kind := .lres, len := widthBytes w }
      let flat := match s.localFlat p r.len with | .ok fs => fs.headD 0 | .error _ => 0
      atomic r (s.dropPeerResv chip.toNat tid.toNat) (fun s => s.addPeerResv chip.toNat tid.toNat (r.localResv p flat))
    | .scond tid w v tg ok =>
      let n := widthBytes w
      let free := s.dropPeerResv chip.toNat tid.toNat
      if ok && s.peerReserved chip.toNat tid.toNat addr n then store (leBytes n v.toNat) tg free 1
      else atomic { r with kind := .scond, len := n } free id
    | .agent _ _ _ _ _ _ _ => s
    | .watch tid slot hidden =>
      (match s.localLoad me p 1 with
       | .error e => reply s 0 false e
       | .ok _ =>
         match s.placeLocal p ⟨chip.toNat, tid.toNat, slot.toNat, hidden, 0, 0⟩ with
         | some (s', seq) => reply s' (BitVec.ofNat 128 seq) false 0
         | none => s)
    | .unwatch tid slot hidden =>
      (match s.forgetRecord (fun r => r.isOf chip.toNat tid.toNat slot.toNat hidden) true with
       | some s' => reply s' 0 false 0
       | none => s)

/-- WINDOW_STORE_APPLY (11 R312): a store or atomic on local memory of a core here. -/
def execWindowStoreApply (w : WinReq) (s : State) : Host.Outcome State Fault Refusal :=
  match w with
  | .mine id =>
    (match tget s.reqs id with
     | some r => (match r.target, r.kind with
       | .core _, .store | .core _, .amo _ | .core _, .cas _ _ | .core _, .lres | .core _, .scond
       | .scratch _, .store | .scratch _, .amo _ | .scratch _, .cas _ _ | .scratch _, .lres | .scratch _, .scond =>
         .next (s.serveWindow id r)
       | _, _ => .next s)
     | none => .next s)
  | .peer chip tag addr op =>
    match op with
    | .store _ _ | .atomic _ _ _ _ | .cas _ _ _ _ _ | .lres _ _ | .scond _ _ _ _ _ => .next (s.servePeer chip tag addr op)
    | _ => .next s

/-- WINDOW_LOAD_SERVE (01 R20): a load, or the arming of a watch (07 R206). -/
def execWindowLoadServe (w : WinReq) (s : State) : Host.Outcome State Fault Refusal :=
  match w with
  | .mine id =>
    (match tget s.reqs id with
     | some r => (match r.target, r.kind with
       | .core _, .load | .core _, .watch _ _ | .scratch _, .load | .scratch _, .watch _ _ => .next (s.serveWindow id r)
       | _, _ => .next s)
     | none => .next s)
  | .peer chip tag addr op =>
    match op with
    | .load _ | .watch _ _ _ | .unwatch _ _ _ => .next (s.servePeer chip tag addr op)
    | _ => .next s

end Sys2Proof.Machine
end

