-- ==== Sys2Proof/Machine/Home.lean ====
section
/-!
DEFINITION. Sys2Proof/Machine/Home.lean: requests at their home slices (08, 09 R268 to R274, 15 R404 to R411, 17 R439, R440,
18 R462): reads, stores, atomics, probes, tickets, retries and holds.
-/
namespace Sys2Proof.Machine

/-! ## Finding the place -/

/-- The class of a request at a slice (08 R254). -/
def ReqKind.cls : ReqKind → Nat
  | .load | .watch _ _ => 0
  | _ => 1

/-- What a request is for translation (09 R268, 07 R201). -/
def ReqKind.tkind : ReqKind → TKind
  | .load => .read
  | .store => .write
  | .watch _ _ => .watch
  | .lres => .lres
  | _ => .amo

/-- Sets how far a request has come. -/
def State.phased (s : State) (id : Nat) (r : Req) (p : Phase) : State := s.setReq id { r with phase := p }

/-- A request that must be held at its slice finds room among the 512, else it is returned with a retry (09 R271). -/
def State.holdAt (s : State) (id : Nat) (r : Req) (cl : Nat) (p : Phase) : State :=
  if 512 ≤ s.heldCount cl then s.phased id r (.retry (s.cycle + 64)) else s.phased id r p

/-- An access to a PCIe host page at the bridge (17 R439, R440): a write is placed in the posted order at once, a read is
sent; a page not in the bridge's cache is asked of the host first. -/
def State.atBridge (s : State) (id : Nat) (r : Req) (cl page off : Nat) : State :=
  let b := s.bridge
  let write := decide (r.kind = .store)
  if b.hostUp = false then s.phased id r (.fault 0x15)
  else if b.atsOn.getLsbD r.part = false then s.phased id r (.fault 0x14)
  else
    match b.atc.find? (fun e => e.part = r.part ∧ e.page = page ∧ (if write then e.wr else e.rd)) with
    | some e =>
      let hpa := e.hpage * 4096 + off
      if write then
        let bs := valueBytes r.len r.data
        ((s.putBytes false (flatHost hpa) bs false).emit (.posted r.part hpa bs)).phased id r (.done 0 false 0)
      else (s.emit (.readReq r.part hpa id)).phased id r .atHost
    | none =>
      let s := if b.ats.any (fun a => a.part = r.part ∧ a.page = page ∧ a.write = write ∧ a.exec = false) then s
        else { s with bridge := { b with ats := b.ats ++ [⟨r.part, page, write, false, false, s.cycle, false⟩] } }
      s.holdAt id r cl (.ats page)

/-- The home of a request finds its location (09 R268), or ends the step otherwise: a fault, a hold, a retry, or the access
handed to the bridge or the link. The Bool says that the location is a discarded page, which reads as zeros. -/
def State.homeFind (s : State) (id : Nat) (r : Req) (cl : Nat) (dty : Bool) : State × Option (Loc × Bool) :=
  let va := r.addr.toNat
  if s.refuted r.part r.hid then
    -- 15 R412: a store is acknowledged without effect, anything else is never answered
    (if r.kind = .store then (s.phased id r (.done 0 false 0), none) else (s, none))
  else
    match if r.phase = .sent then s.admitted cl r.part r.kind.cls (va / 64) else some s with
    | none => (s.phased id r (.retry (s.cycle + 64)), none)
    | some s =>
      match s.translate r.part va r.kind.tkind r.host dty with
      | (s, .fault c) => (s.phased id r (.fault c), none)
      | (s, .zeros) => (s, some (⟨r.part, va, cl, 0, false⟩, true))
      | (s, .migrating) => (s.holdAt id r cl (.migrating s.cycle), none)
      | (s, .ask lvl e) =>
        if 512 ≤ s.heldCount cl then (s.phased id r (.retry (s.cycle + 64)), none)
        else
          let load := ((s.thread? r.tid).map Thread.load).getD 0
          let s' := (s.askPage cl r.part va lvl e r.kind.tkind.writes false (r.kind.tkind == .watch) r.tid load).getD s
          (s'.phased id r (.paging (va / 4096)), none)
      | (s, .ok pa e) =>
        let tgt := pteTgt e
        let versioned := cacheable e
        if r.tag ∧ (tgt = 1 ∨ tgt = 2) then (s.phased id r (.fault 0x08), none)
        else if r.hid ≠ 0 ∧ r.kind.tkind.writes ∧ versioned = false ∧ r.unv = false then (s.phased id r (.fault 0x20), none)
        else
          match tgt with
          | 0 => (s, some (⟨r.part, va, cl, pa, cacheable e⟩, false))
          | 1 =>
            if s.bridge.hostUp then (s, some (⟨r.part, va, cl, flatHost pa, cacheable e⟩, false))
            else (s.phased id r (.fault 0x15), none)
          | 2 => (s.atBridge id r cl (pa / 4096) (pa % 4096), none)
          | _ =>
            let chip := pa / 2 ^ 47
            if chip = s.bridge.chip then (s, some (⟨r.part, va, cl, pa % 2 ^ 43, false⟩, false))
            else if s.reachable chip then
              ((s.emit (.toPeer chip (BitVec.ofNat 64 (pa % 2 ^ 43)) r.len)).phased id { r with sentAt := s.cycle } .atHost, none)
            else (s.phased id r (.fault 0x10), none)

/-! ## Order at a slice -/

/-- An earlier access of the same thread to a common byte has not been performed (07 R216). -/
def State.behindOwn (s : State) (r : Req) : Bool :=
  s.reqs.any (fun (_, q) => decide (q.tid = r.tid ∧ q.order < r.order) && spansMeet s.bridge.chip (coreOf r.tid) q.addr q.len r.addr r.len &&
    (match q.phase with | .done _ _ _ | .fault _ => false | _ => true))

/-- Another request for the line waits here on probes or a ticket: this one waits behind it. -/
def State.lineBusy (s : State) (id : Nat) (r : Req) : Bool :=
  s.reqs.any (fun (n, q) => decide (n ≠ id ∧ q.target = r.target ∧ q.part = r.part ∧ q.addr.toNat / 64 = r.addr.toNat / 64) &&
    (match q.phase with | .probing | .ticket _ => true | _ => false))

/-- The request may be handled now: it has arrived and nothing it must follow is before it, or its probes are answered. -/
def State.homeReady (s : State) (id : Nat) (r : Req) : Bool :=
  match r.phase with
  | .sent => !s.behindOwn r && !s.lineBusy id r
  | .probing => !s.probes.any (fun p => p.req = id)
  | _ => false

/-- Sends probes for a line to cores and lets the request wait for them. -/
def State.sendProbes (s : State) (id : Nat) (r : Req) (l : Loc) (recalled : Bool) (cores : List Nat) : State :=
  { s.phased id r .probing with probes := s.probes ++ cores.map (fun c => ⟨c, l.part, l.line, recalled, id⟩) }

/-- The request waits for the ticket of a unit that the darner must invalidate first, or, where the overflow queue is full, is
looked at again later (08 R234, R237). -/
def State.awaitTicket (s : State) (id : Nat) (r : Req) (cl base k : Nat) : State :=
  match (s.cluster cl).ticket? r.part base k with
  | some _ => s
  | none =>
    if 1024 ≤ (s.cluster cl).ovfQ.length then s
    else
      let (s, t) := s.queueTicket cl r.part base k id
      s.phased id r (.ticket t)

/-- Room for the entries of a split or a new unit, or the request waits on a recall that must go through the darner. -/
def State.makesRoom (s : State) (id : Nat) (r : Req) (l : Loc) (keeps : Bool) : State × Bool :=
  match s.roomFor l.cl l.part l.line keeps with
  | (s, none) => (s, true)
  | (s, some v) => (s.awaitTicket id r l.cl v.base v.k, false)

/-! ## Reads -/

/-- A watch record on the line's memory, of any partition or module, at a slice or with a darner (08 R228). -/
def State.watchedLine (s : State) (l : Loc) : Bool :=
  s.clusters.any (fun (_, k) =>
    k.watches.any (fun w => s.sameLine l.part l.line l.flat w.part w.unit)
      || k.ovfLines.any (fun o => s.sameLine l.part l.line l.flat o.part o.line))

/-- R228's reasons not to grant E: a watch on the line, a version of it, a non-root access. -/
def State.noE (s : State) (l : Loc) (hid : Nat) : Bool :=
  s.watchedLine l || (s.cluster l.cl).hasVersion l.part l.line || decide (hid ≠ 0)

/-- The owner that must give the line up before a read by core `q`. -/
def State.ownerInWay (s : State) (l : Loc) (q : Nat) (noE : Bool) : Option Nat :=
  match (s.cluster l.cl).unit? l.part l.line with
  | some u => (match u.state with
    | .owned p => if (p ≠ q ∨ noE) ∧ s.holdsOwned p l.part l.line then some p else none
    | _ => none)
  | none => none

/-- A line that has been recalled from its owner, which keeps a copy, is shared by it (08 R229, R245). -/
def State.settleOwner (s : State) (l : Loc) : State :=
  match (s.cluster l.cl).unit? l.part l.line with
  | some u =>
    (match u.state with
     | .owned p =>
       if u.k = 0 ∧ s.hasCopy p l.part l.line then s.splitTo l.cl l.part l.line (some (.shared [s.ptrOf p] none false false)) else s
     | _ => s)
  | none => s

/-- The owner of a line gives it up for a request that fills nothing: its unit is split to the line first (08 R232), then the
line is recalled. The Bool says that the request may go on. -/
def State.givenUp (s : State) (id : Nat) (r : Req) (l : Loc) : State × Bool :=
  match s.ownerInWay l (coreOf r.tid) true with
  | some p =>
    (match s.makesRoom id r l true with
     | (s, false) => (s, false)
     | (s, true) => ((s.splitOff l.cl l.part l.line).sendProbes id r l true [p], false))
  | none => (s.settleOwner l, true)

/-- FORWARD_READ (08 R230): when the slice does not hold the data, the forward L1 answers and keeps the line in S. -/
def State.forwardRead (s : State) (l : Loc) (q : Nat) : State :=
  let k := s.cluster l.cl
  if k.holdsData l.part l.line then s
  else match k.unit? l.part l.line with
    | some u => (match u.state with
      | .shared _ (some f) _ _ =>
        if f = q then s
        else
          let c := s.core f
          s.setCore f { c with l1 := c.l1.map (fun x => if x.part = l.part ∧ x.line = l.line ∧ x.state = .F then { x with state := .S } else x) }
      | _ => s)
    | none => s

/-- The directory's answer to a read by core `q` that nothing stands in the way of (08 R229): the state of the fill, none
where nothing is filled. -/
def State.grantRead (s : State) (l : Loc) (q : Nat) (noE : Bool) : State × Option LState :=
  let k := s.cluster l.cl
  let p := s.ptrOf q
  match k.unit? l.part l.line with
  | none =>
    if noE then (s.newUnit l.cl l.part l.line (.shared [p] (some q) false false), some .S)
    else (s.newUnit l.cl l.part l.line (.owned q), some .E)
  | some u =>
    match u.state with
    | .owned c =>
      if c = q then
        if noE then (s.splitTo l.cl l.part l.line (some (.shared [p] (some q) false false)), some .S) else (s, some .E)
      else
        (s.splitTo l.cl l.part l.line (some (.shared (if s.ptrOf c = p then [p] else [s.ptrOf c, p]) (some q) false false)),
         some (if noE then .S else .F))
    | .shared _ _ _ _ =>
      match (s.forwardRead l q).addSharer l.cl l.part l.line q with
      | some s' => (s', some (if noE then .S else .F))
      | none => (s, none)

/-- A read by core `q` makes a new unit, or splits one. -/
def State.needsEntry (s : State) (l : Loc) (q : Nat) (noE : Bool) : Bool :=
  match (s.cluster l.cl).unit? l.part l.line with
  | none => true
  | some u => (match u.state with
    | .owned c => decide (c ≠ q) || noE
    | .shared _ _ _ _ => false)

/-- The access is the first of two pieces: 16 bytes of a host page, of which 8 are single-copy atomic (07 R190). -/
def Req.firstHalf (r : Req) (l : Loc) : Bool := decide (r.len = 16 ∧ r.pos = 0 ∧ flatHost 0 ≤ l.flat)

/-- The location of the piece that comes next. -/
def Req.pieceAt (r : Req) (l : Loc) : Loc := { l with va := l.va + r.pos, flat := l.flat + r.pos }

/-- What a piece of a read adds to what the earlier ones read. -/
def Req.gather (r : Req) (bs : List Byte) : Quad := r.got ||| BitVec.ofNat 128 (leNat bs * 2 ^ (8 * r.pos))

/-- The first piece of a read of a host page; the second is an access of its own (07 R190). -/
def State.servedHalf (s : State) (id : Nat) (r : Req) (l : Loc) : State :=
  if s.viewPoisoned l r.hid 8 then s.phased id r (.fault 0x38)
  else s.setReq id { r with pos := 8, got := r.gather (s.viewRead l r.hid 8).1, phase := .sent }

/-- A read served without allocation (08 R228, R229); data marked poisoned faults (05 R163). -/
def State.servedFlat (s : State) (id : Nat) (r : Req) (l : Loc) : State :=
  let l := r.pieceAt l
  let (bs, tag) := s.viewRead l r.hid (r.len - r.pos)
  if s.viewPoisoned l r.hid (r.len - r.pos) then s.phased id { r with fill := none } (.fault 0x38)
  else s.phased id r (.done (r.gather bs) tag 0)

/-- A read at the slice that allocates nothing; a copy that the slice holds takes its hint (08 R249). -/
def State.servedThrough (s : State) (id : Nat) (r : Req) (l : Loc) : State :=
  let s := if l.cached then s.useData l.cl l.part l.line r.hint else s
  if r.firstHalf l then s.servedHalf id r l else s.servedFlat id r l

/-- A load at its home slice. -/
def State.homeLoad (s : State) (id : Nat) (r : Req) (cl : Nat) : State :=
  match s.homeFind id r cl false with
  | (s, none) => s
  | (s, some (_, true)) => s.phased id r (.done 0 false 0)
  | (s, some (l, false)) =>
    if l.cached = false ∨ r.hint = .b then s.servedThrough id r l
    else
      let q := coreOf r.tid
      let noE := s.noE l r.hid
      match (s.seeUnit cl l.part l.line true).makesRoom id r l (s.needsEntry l q noE) with
      | (s, false) => s
      | (s, true) =>
        match s.ownerInWay l q noE with
        | some p => (s.splitOff cl l.part l.line).sendProbes id r l true [p]
        | none =>
          if r.firstHalf l then s.servedHalf id r l else
          let (s, fill) := s.grantRead l q noE
          (s.useData cl l.part l.line r.hint).servedFlat id { r with fill := fill } l

/-- The arming of a watch at its home slice (07 R207, R211; 08 R245): WATCH_PLACE, or WATCH_OVERFLOW when the store is
full. The hidden watch's arming reads its word under the same placement. -/
def State.homeWatch (s : State) (id : Nat) (r : Req) (cl slot : Nat) (hidden : Bool) : State :=
  let place (s' : State) (l : Loc) (zeros : Bool) : State :=
    match s'.arming r.tid slot hidden r.addr (fun s' => s'.placeGlobal cl l.part l.line (r.watchRec s.bridge.chip slot hidden)) with
    | none => s
    | some (s', seq) =>
      let v := if hidden then (if zeros then 0 else leNat (s'.viewRead l r.hid r.len).1) else seq
      s'.phased id r (.done (BitVec.ofNat 128 v) false 0)
  match s.homeFind id r cl false with
  | (s', none) => s'
  | (s', some (l, true)) => place s' l true
  | (s', some (l, false)) =>
    match (s'.seeUnit cl l.part l.line true).givenUp id r l with
    | (s', false) => s'
    | (s', true) =>
      if hidden && s'.viewPoisoned l r.hid r.len then s'.phased id r (.fault 0x38) else place s' l false

/-- HOME_READ_REQUEST (08 R229): a load or a watch arming at its home slice. -/
def execHomeReadRequest (req : Nat) (s : State) : Host.Outcome State Fault Refusal :=
  match tget s.reqs req with
  | none => .next s
  | some r =>
    match r.target with
    | .home cl =>
      if s.homeReady req r then
        match r.kind with
        | .load => .next (s.homeLoad req r cl)
        | .watch slot hidden => .next (s.homeWatch req r cl slot hidden)
        | _ => .next s
      else .next s
    | _ => .next s

/-! ## Stores and atomics -/

/-- A core's copies of a line go, with a fill on its way. -/
def State.dropCopy (s : State) (core part line : Nat) : State :=
  let s := s.filterL1 (fun c x => !(c = core ∧ x.part = part ∧ x.line = line))
  { s with reqs := s.reqs.map (fun (n, r) =>
      (n, if coreOf r.tid = core ∧ r.part = part ∧ r.addr.toNat / 64 = line then { r with fill := none } else r)) }

/-- Copies of a line that a write at the home must take back (08 R229, R237): the unit is split to the line first (R232). The
Bool says that none is left; else the state is the one in which the request waits. -/
def State.clearCopies (s : State) (id : Nat) (r : Req) (l : Loc) : State × Bool :=
  let q := coreOf r.tid
  match (s.cluster l.cl).unit? l.part l.line with
  | none => (s, true)
  | some u =>
    if u.state = .owned q then
      -- the unit stays owned; the issuer's copies of the line are invalidated
      (s.dropCopy q l.part l.line, true)
    else
      match s.makesRoom id r l true with
      | (s, false) => (s, false)
      | (s, true) =>
        let cores := (s.unitCores u).filter (fun c => s.hasCopy c l.part l.line)
        match u.state with
        | .owned _ =>
          if cores ≠ [] then ((s.splitOff l.cl l.part l.line).sendProbes id r l false cores, false)
          else (s.splitTo l.cl l.part l.line none, true)
        | .shared _ _ ovf lost =>
          if ovf ∧ lost then ((s.broadcastDrop l.part l.line 0).splitTo l.cl l.part l.line none, true)
          else if ovf then
            if 1024 ≤ (s.cluster l.cl).ovfQ.length then (s, false)
            else
              let (s, t) := (s.splitOff l.cl l.part l.line).queueTicket l.cl l.part l.line 0 id
              (({ s with probes := s.probes ++ cores.map (fun c => Probe.mk c l.part l.line false id) } : State).phased id r (.ticket t), false)
          else if cores ≠ [] then ((s.splitOff l.cl l.part l.line).sendProbes id r l false cores, false)
          else (s.splitTo l.cl l.part l.line none, true)

/-- Others wait for version room of the partition at the slice (15 R411). -/
def State.roomQueue (s : State) (id cl part : Nat) : Bool :=
  s.reqs.any (fun (n, q) => decide (n ≠ id ∧ q.part = part ∧ q.target = .home cl) && (match q.phase with | .version _ => true | _ => false))

/-- The write needs a version line that it cannot have now (log 41, DEDUCED). -/
def State.mustWaitRoom (s : State) (id : Nat) (l : Loc) (h : Nat) (first : Bool) : Bool :=
  s.needsRoom l h || (!first && decide (h ≠ 0) && ((s.cluster l.cl).version? l.part l.line h).isNone && s.roomQueue id l.cl l.part)

/-- The node under which a write is performed: the root where the target is not versioned (15 R404). -/
def State.writeNode (s : State) (r : Req) (l : Loc) : Nat := if l.cached then s.effective r.part r.hid else 0

/-- After a write the slice holds the line, or memory does (08 R249); a version that is new takes its line from the data part
(R226). -/
def State.heldAfter (s : State) (l : Loc) (r : Req) : State :=
  if l.cached then ((s.useData l.cl l.part l.line r.hint).settleData l).fitData l.cl else s

/-- A store at its home slice; `first`: it is at the head of the line for version room. -/
def State.homeStore (s0 : State) (id : Nat) (r : Req) (cl : Nat) (first : Bool) : State :=
  match s0.homeFind id r cl true with
  | (s, none) => s
  | (s, some (l, _)) =>
    let h := s.writeNode r l
    if s.heldByOther (some r.tid) (s.resvOnLine l.part l.line l.flat) ∨ s.ovfFull l then s0
    else if s.mustWaitRoom id l h first then s.holdAt id r cl (.version s.cycle)
    else
      match if l.cached then (s.seeUnit cl l.part l.line false).clearCopies id r l else (s, true) with
      | (s, false) => s
      | (s, true) =>
        let bs := (valueBytes r.len r.data).drop r.pos
        if r.firstHalf l then ((s.applyWrite l h (bs.take 8) r.tag).heldAfter l r).setReq id { r with pos := 8, phase := .sent }
        else ((s.applyWrite (r.pieceAt l) h bs r.tag).heldAfter l r).phased id r (.done 0 false 0)

/-- HOME_STORE_REQUEST (08 R229). -/
def execHomeStoreRequest (req : Nat) (s : State) : Host.Outcome State Fault Refusal :=
  match tget s.reqs req with
  | none => .next s
  | some r =>
    match r.target, r.kind with
    | .home cl, .store => if s.homeReady req r then .next (s.homeStore req r cl false) else .next s
    | _, _ => .next s

/-- An atomic at its home slice, one indivisible step (07 R199 to R201, R217; 15 R407). -/
def State.homeAmo (s0 : State) (id : Nat) (r : Req) (cl : Nat) (first : Bool) : State :=
  match s0.homeFind id r cl (match r.kind with | .lres => false | .scond => s0.resvFor r | _ => true) with
  | (s, none) => s
  | (s, some (l, zeros)) =>
    let resv : Resv := ⟨r.addr, r.len, r.part, true, l.va / 64 * 64, 64, r.hid, 0⟩
    if zeros then (s.afterAtomic r resv).phased id r (.done 0 false 0)
    else if s.heldByOther (some r.tid) (s.resvOnLine l.part l.line l.flat) ∨ s.ovfFull l then s0
    else
      let h := s.writeNode r l
      let (bs, tag) := s.viewRead l r.hid r.len
      let o := r.atomicOut (s.resvFor r) (leNat bs) tag
      if s.viewPoisoned l r.hid r.len then s.phased id r (.fault 0x38)
      else if o.write.isSome ∧ s.mustWaitRoom id l h first then s.holdAt id r cl (.version s.cycle)
      else
        let cleared : State × Bool :=
          if l.cached = false then (s, true)
          else if r.kind = .lres then (s.seeUnit cl l.part l.line true).givenUp id r l
          else (s.seeUnit cl l.part l.line false).clearCopies id r l
        match cleared with
        | (s, false) => s
        | (s, true) =>
          let s := s.afterAtomic r resv
          let s := match o.write with
            | some (v, t) => s.applyWrite l h (leBytes r.len v) t
            | none => s
          (s.heldAfter l r).phased id r (.done o.bits o.tag o.flags)

/-- HOME_ATOMIC (08 R235). -/
def execHomeAtomic (req : Nat) (s : State) : Host.Outcome State Fault Refusal :=
  match tget s.reqs req with
  | none => .next s
  | some r =>
    match r.target with
    | .home cl => if r.kind.atomic ∧ s.homeReady req r then .next (s.homeAmo req r cl false) else .next s
    | _ => .next s

/-! ## Probes, tickets and merges -/

/-- Threads asleep on an engine's or a fetch's held access look again (09 R273). -/
def State.wakeAccess (s : State) (part : Nat) : State :=
  let wake (t : Thread) : Thread :=
    if t.wait = .access ∧ t.part = part ∧ t.fault = none then ({ t with wait := .none } : Thread).wakeIfSleeping s.cycle else t
  { s with cores := s.cores.map (fun (c, k) => (c, { k with threads := k.threads.map (fun (i, t) => (i, wake t)) })) }

/-- PROBE_ARRIVAL (08 R236): a recall or invalidation reaches its core, which holds it while the line's fill is on its
way. A recall of a read leaves the line in S, an invalidation takes it away; modified data goes with the answer. -/
def execProbeArrival (i : Nat) (s : State) : Host.Outcome State Fault Refusal :=
  match s.probes[i]? with
  | none => .next s
  | some p =>
    if s.fillOnWay p.core p.part p.line then .next s
    else
      let k := s.core p.core
      let on (l : L1Line) : Bool := decide (l.part = p.part ∧ l.line = p.line)
      let m := k.l1.any (fun l => on l && l.state == .M)
      let s := if p.recalled then s.demote p.core p.part p.line
        else s.setCore p.core { k with l1 := k.l1.filter (fun l => !on l), victims := k.victims.filter (fun l => !on l) }
      .next { (if m then s.spill p.part p.line else s) with probes := s.probes.eraseIdx i }

/-- A ticket is returned or retired: the line's unit has no sharer and its overflow bit is clear, and the request that
waits on it goes on (08 R237, R242). -/
def State.ticketReturned (s : State) (cl : Nat) (t : Ticket) : State :=
  let k := s.cluster cl
  let s := s.setCluster cl { k with
    tickets := k.tickets.filter (· ≠ t)
    dir := k.dir.map (fun u => if u.part = t.part ∧ u.base = t.base ∧ u.k = t.k then { u with state := .shared [] none false false } else u) }
  match tget s.reqs t.req with
  | some r => s.phased t.req r .probing
  | none => s.wakeAccess t.part

/-- TICKET_RETIRE (08 R244): a ticket not returned within 2^20 cycles: the unit is invalidated by broadcast and a kind 6
record tells the darner. -/
def execTicketRetire (cluster ticket : Nat) (s : State) : Host.Outcome State Fault Refusal :=
  let k := s.cluster cluster
  match k.tickets.find? (fun t => t.id = ticket) with
  | none => .next s
  | some t =>
    if s.cycle < t.since + 2 ^ 20 ∨ 1024 ≤ k.ovfQ.length then .next s
    else
      let s := (s.broadcastDrop t.part t.base t.k).ticketReturned cluster t
      let k := s.cluster cluster
      .next (s.setCluster cluster { k with
        ovfQ := k.ovfQ ++ [⟨6, BitVec.ofNat 64 (64 * t.base + t.k), 0, 0, 0, false, 0, 0, false, 0, t.id⟩] })

/-- No request has come to an untracked run of lines for 65,536 cycles (08 R233). -/
def Cluster.quietLines (k : Cluster) (part base n cycle : Nat) : Bool :=
  !k.lineSeen.any (fun (p, l, c) => decide (p = part ∧ base ≤ l ∧ l < base + n ∧ cycle < c + 65536))

/-- The state of two buddies merged, if they may merge (08 R233); `second` says that the second was read last. -/
def mergedState (a b : DirState) (second : Bool) : Option DirState :=
  match a, b with
  | .owned p, .owned q => if p = q then some (.owned p) else none
  | .shared ps f false false, .shared qs g false false =>
    let u := (ps ++ qs).eraseDups
    if u.length ≤ 4 then some (.shared u (if second then g else f) false false) else none
  | _, _ => none

/-- UNIT_MERGE (08 R233): the unit at `base` merges with its buddy when neither has seen a request for 65,536 cycles. -/
def execUnitMerge (cluster part base : Nat) (s : State) : Host.Outcome State Fault Refusal :=
  let k := s.cluster cluster
  match k.dir.find? (fun u => u.part = part ∧ u.base = base) with
  | none => .next s
  | some u =>
    let n := 2 ^ u.k
    let buddy := if base / n % 2 = 0 then base + n else base - n
    let parent := Nat.min base buddy
    let quiet (v : DirUnit) : Bool := decide (v.seen + 65536 ≤ s.cycle)
    let put (st : DirState) (seen readAt : Nat) : State :=
      let rest := k.dir.filter (fun v => !(v.part = part ∧ parent ≤ v.base ∧ v.base < parent + 2 * n))
      s.setCluster cluster { k with dir := ⟨part, parent, u.k + 1, st, seen, readAt⟩ :: rest }
    if 10 ≤ u.k ∨ !quiet u then .next s
    else
      match k.dir.find? (fun v => v.part = part ∧ v.base = buddy ∧ v.k = u.k) with
      | some v =>
        if quiet v then
          match mergedState u.state v.state (decide (u.readAt < v.readAt)) with
          | some st => .next (put st (Nat.max u.seen v.seen) (Nat.max u.readAt v.readAt))
          | none => .next s
        else .next s
      | none =>
        -- an untracked buddy: no entry meets it
        if k.dir.any (fun v => v.part = part ∧ v.base < buddy + n ∧ buddy < v.base + 2 ^ v.k) ∨ !k.quietLines part buddy n s.cycle
        then .next s
        else match u.state with
          | .shared _ _ true _ => .next s
          | st => .next (put st u.seen u.readAt)

/-! ## Retries and holds -/

/-- A hold of an engine's or a fetch's access by its number. -/
def State.hold? (s : State) (id : Nat) : Option (Nat × EngHold) :=
  s.clusters.findSome? (fun (c, k) => (k.engHolds.find? (fun h => h.id = id)).map (fun h => (c, h)))

/-- What is settled about a held access of an engine or a fetch: it is to fault, or it goes on; its thread looks again. -/
def State.settleHold (s : State) (h : EngHold) (cause : Option Byte) : State :=
  (s.mapHolds (fun x => if x = h then cause.map (fun c => { h with ended := some c }) else some x)).wakeAccess h.who.part

/-- REQUEST_RETRY (08 R255, 09 R271): a returned request is sent again after 64 cycles. -/
def execRequestRetry (req : Nat) (s : State) : Host.Outcome State Fault Refusal :=
  match tget s.reqs req with
  | some r => (match r.phase with
    | .retry at_ => if at_ ≤ s.cycle then .next (s.phased req r .sent) else .next s
    | _ => .next s)
  | none =>
    match s.hold? req with
    | some (_, h) => if h.why = .retry ∧ h.since + 64 ≤ s.cycle then .next (s.settleHold h none) else .next s
    | none => .next s

/-- MIGRATION_HOLD_EXPIRY (09 R272): past the hold limit a held access faults with 0x13; before it, an access whose page
is no longer being moved is translated again (HELD_ACCESS_RETRANSLATE). An engine's or a fetch's hold goes by its own number. -/
def execMigrationHoldExpiry (req : Nat) (s : State) : Host.Outcome State Fault Refusal :=
  match tget s.reqs req with
  | some r => (match r.phase with
    | .migrating since =>
      if s.holdLimit r.part ≤ s.cycle - since then .next ((s.phased req r (.fault 0x13)).wakeAccess r.part)
      else if s.peekTrans r.part r.addr.toNat r.kind.tkind r.host = .migrating then .next s
      else .next ((s.phased req r .sent).wakeAccess r.part)
    | _ => .next s)
  | none =>
    match s.hold? req with
    | some (_, h) =>
      if h.why ≠ .move ∨ h.ended.isSome then .next s
      else if s.holdLimit h.who.part ≤ s.cycle - h.since then .next (s.settleHold h (some 0x13))
      else if s.peekTrans h.who.part (64 * h.line) .read true = .migrating then .next s
      else .next (s.settleHold h none)
    | none => .next s

/-- Accesses held for a page move or a page request are translated again, at their slices (09 R272, R280). -/
def State.retranslate (s : State) (hit : Req → Bool) : State :=
  { s with reqs := s.reqs.map (fun (n, r) =>
      (n, match r.phase with
          | .migrating _ | .paging _ => if hit r then { r with phase := .sent } else r
          | _ => r)) }

/-- VERSION_LINE_GRANT (15 R411): of the accesses held for version room of a partition at a slice, the first that can have
its line is performed, whole. -/
def execVersionLineGrant (cluster part : Nat) (s : State) : Host.Outcome State Fault Refusal :=
  let waits := s.reqs.filterMap (fun (n, r) =>
    match r.phase with
    | .version since => if r.part = part ∧ r.target = .home cluster then some (since, n, r) else none
    | _ => none)
  let can (r : Req) : Bool :=
    !s.needsRoom ⟨part, r.addr.toNat, cluster, 0, true⟩ (s.effective part r.hid) || s.refuted part r.hid
  match waits.foldl (fun (b : Option (Nat × Nat × Req)) w =>
      if can w.2.2 then (match b with | some v => if w.1 < v.1 then some w else b | none => some w) else b) none with
  | none => .next s
  | some (_, n, r) =>
    let r := { r with phase := .sent }
    if r.kind = .store then .next (s.homeStore n r cluster true) else .next (s.homeAmo n r cluster true)

/-- VERSION_HOLD_EXPIRY (15 R411). -/
def execVersionHoldExpiry (req : Nat) (s : State) : Host.Outcome State Fault Refusal :=
  match tget s.reqs req with
  | some r => (match r.phase with
    | .version since => if s.holdLimit r.part ≤ s.cycle - since then .next (s.phased req r (.fault 0x21)) else .next s
    | _ => .next s)
  | none => .next s

end Sys2Proof.Machine
end

