-- ==== Sys2Proof/Machine/Command.lean ====
section
/-!
DEFINITION. Sys2Proof/Machine/Command.lean: what every command instruction goes through (01 R31 to R41, 02 R54, 07 R195
item 3).
-/
namespace Sys2Proof.Machine

/-- The command a thread issues, with its completion cell. -/
def Thread.cmd (t : Thread) (tid : Nat) (x : Cx) (c : Reg) : Cmd :=
  ⟨tid, t.life, .open_, t.load, t.part, coreOf tid, t.hid, t.depth, x.scope, some (cellRef c), 0⟩

/-- A command without a completion cell. -/
def Thread.cmdBare (t : Thread) (tid : Nat) (x : Cx) : Cmd := ⟨tid, t.life, .open_, t.load, t.part, coreOf tid, t.hid, t.depth, x.scope, none, 0⟩

/-- A command instruction: with `.rel` it waits for the thread's earlier stores; then its checks, whose faults are precise;
then its effect. -/
def State.command (s : State) (i : Instr) (x : Cx) (checks : Thread → List (Option Trap)) (f : Thread → Eff) :
    Host.Outcome State Fault Refusal :=
  s.issue i (fun t => if x.rel ∧ t.stores ≠ [] then .stall else .checked (checks t) (fun _ => f t))

/-- An earlier command of the lane stands before: it is held, or its cell is not yet written. -/
def State.laneBusy (s : State) (l : Lane) : Bool :=
  (decide (l ≠ .open_) && s.heldCmds.any (fun h => decide (h.cmd.lane = l))) || cellsWait s.cellQ l

/-- A command of a lane: behind an earlier one that is not complete it waits at its engine (01 R31). -/
def State.inLane (s : State) (cmd : Cmd) (f : Unit → Eff) : Eff := if s.laneBusy cmd.lane then .pend s cmd else f ()

/-- A command that its engine has taken and whose first access is held (01 R31, R32): nothing of it is done yet, and its
thread goes on (log 24, DEDUCED). -/
def State.pends (s s' : State) (cmd : Cmd) : Eff := .pend (s.keepWaiting s') cmd

/-- A command whose thread waits until its engine has ended it (12 R330, 15 R395). -/
def State.awaits (s : State) (i : Instr) (cmd : Cmd) (t : Thread) : Eff :=
  .wait (({ s with heldCmds := s.heldCmds ++ [⟨cmd, i, t, none⟩] } : State).modThread cmd.tid (fun u => { u with wait := .sync }))

/-- The command's 16-bit and wider operand fields must be zero above bit `n`. -/
def zeroAbove (q : Quad) (n : Nat) : Bool := decide (q.toNat / 2 ^ n = 0)

end Sys2Proof.Machine
end

