-- ==== Sys2Proof/Machine/HomeCmd.lean ====
section
/-!
DEFINITION. Sys2Proof/Machine/HomeCmd.lean: the commands of the home engine: cache control (08 R247, R248), the darner's
commands (R240 to R242), and the carve-out (R250 to R253).
-/
namespace Sys2Proof.Machine

/-! ## Cache control -/

/-- A member of `cc` by its code (08 R248). -/
inductive CcOp where | cln | fls | inv | pf | rsd
  deriving DecidableEq, Repr

/-- The permission a member needs beside ENG. -/
def CcOp.perm : CcOp → BitVec 14
  | .inv => permST
  | _ => permLD

/-- Every owner's modified copy of a line becomes clean: M becomes E. -/
def State.cleanOwners (s : State) (part line : Nat) : State :=
  { s with cores := s.cores.map (fun (c, k) =>
      (c, { k with l1 := k.l1.map (fun x => if x.part = part ∧ x.line = line ∧ x.state = .M then { x with state := .E } else x) })) }

/-- A core other than the issuer's holds the line modified. -/
def State.modifiedElsewhere (s : State) (l : Loc) (core : Nat) : Bool :=
  s.cores.any (fun (c, k) => decide (c ≠ core) && k.l1.any (fun x => x.part = l.part ∧ x.line = l.line ∧ x.state = .M))

/-- `cc.cln` on a line: modified data goes to memory; where another core's copy changes its state the unit is split first
(08 R232). -/
def State.ccClean (s : State) (l : Loc) (core : Nat) : State × InWay :=
  let done (s : State) : State × InWay := ((s.writeBack (l.flat / 64)).cleanOwners l.part l.line, .nothing)
  if s.modifiedElsewhere l core then
    match s.roomFor l.cl l.part l.line true with
    | (s, some v) => (s, .unit v.base v.k)
    | (s, none) => done (s.splitOff l.cl l.part l.line)
  else done s

/-- Every copy of a line is dropped, in L1s and in the slice, and reservations on it with the slice's data (08 R235). -/
def State.ccDrop (s : State) (l : Loc) : State × InWay :=
  match s.clearLine l.cl l.part l.line with
  | (s, .unit b k) => (s, .unit b k)
  | (s, .nothing) =>
    let k := s.cluster l.cl
    let s := s.dropLineCopies l.part l.line
    ((s.setCluster l.cl { k with data := k.data.filter (fun x => !(x.part = l.part ∧ x.line = l.line)) }).dropResv
      (fun r => s.resvOnLine l.part l.line l.flat r), .nothing)

/-- `cc.inv` on a line: the line reads as memory holds it, and each byte that changes is a write for the watches. -/
def State.ccInvLine (s : State) (l : Loc) : State × InWay :=
  let at_ := l.flat / 64 * 64
  let before := s.bytesAt at_ 64
  match s.ccDrop l with
  | (s, .unit b k) => (s, .unit b k)
  | (s, .nothing) =>
    let s := s.dropLine (l.flat / 64)
    let changed := (List.range 64).filter (fun i => decide (before.getD i 0 ≠ s.byteAt (at_ + i)))
    if changed = [] then (s, .nothing)
    else
      let base : Loc := { l with va := l.line * 64, flat := at_ }
      let sees (p g : Nat) : Bool := changed.any (fun i => s.visible base 0 i 1 p g)
      (s.fireGlobal l.part l.line l.flat sees (0, 0), .nothing)

/-- A line is filled into the issuer's L1, an owner giving it up first (08 R229); the issuer's own pool is looked at before
the slice (R253). -/
def State.ccFill (s : State) (l : Loc) (core : Nat) (h : Hint) : State × InWay :=
  if h = .b then (s.useData l.cl l.part l.line .s, .nothing)
  else match s.poolHit core l.part l.line 0 h with
    | some s => (s, .nothing)
    | none =>
      let noE := s.noE l 0
      match if s.needsEntry l core noE then s.roomFor l.cl l.part l.line true else (s, none) with
      | (s, some v) => (s, .unit v.base v.k)
      | (s, none) =>
        let s := match s.ownerInWay l core noE with
          | some p => (s.splitOff l.cl l.part l.line).demote p l.part l.line
          | none => s
        let (s, fill) := (s.seeUnit l.cl l.part l.line true).grantRead l core noE
        let s := s.useData l.cl l.part l.line h
        (match fill with
         | some st => s.fillL1 core ⟨l.part, l.line, 0, st, h⟩
         | none => s, .nothing)

/-- `cc.rsd` on a line. -/
def State.ccHint (s : State) (l : Loc) (core : Nat) (h : Hint) : State :=
  let m := if h = .b then .s else h
  let k := s.core core
  let s := s.setCore core { k with l1 := k.l1.map (fun x => if x.part = l.part ∧ x.line = l.line then { x with hint := m } else x) }
  let c := s.cluster l.cl
  s.setCluster l.cl { c with data := c.data.map (fun x => if x.part = l.part ∧ x.line = l.line then { x with hint := m } else x) }

/-- One member on one line of an ordinary page. -/
def State.ccLine (s : State) (op : CcOp) (l : Loc) (core : Nat) (h : Hint) : State × InWay :=
  match op with
  | .cln => s.ccClean l core
  | .fls =>
    (match s.ccClean l core with
     | (s, .nothing) => s.ccDrop l
     | r => r)
  | .inv => s.ccInvLine l
  | .pf => s.ccFill l core h
  | .rsd => (s.ccHint l core h, .nothing)

/-- What a member's access to a line is for translation (08 R248), and its class: a fill is a read, a write-back of modified
data a write (08 R254). -/
def CcOp.tkind : CcOp → TKind
  | .inv => .ccWrite
  | _ => .ccRead

def State.ccClass (s : State) (op : CcOp) (part line : Nat) : Option Nat :=
  match op with
  | .pf => some 0
  | .cln | .fls => if (s.flatLine part line).any (fun f => (tget s.dirty f).isSome) then some 1 else none
  | _ => none

/-- A line whose turn has not come: another request for it waits on probes or a ticket, or a fill of it is on its way, or the
record of a write that the drop makes has no room (08 R236, R246). -/
def State.ccWaits (s : State) (op : CcOp) (l : Loc) : Bool :=
  s.reqs.any (fun (_, r) => decide (r.part = l.part ∧ r.addr.toNat / 64 = l.line ∧ r.target = .home l.cl) &&
      (r.fill.isSome || (match r.phase with | .probing | .ticket _ => true | _ => false)))
    || (op == .inv && s.ovfFull l)

/-- One line of a member's range, on the page that holds it. Lines of discarded, peer and PCIe pages are passed over. -/
def State.ccOne (s : State) (op : CcOp) (p : Party) (host : Bool) (h : Hint) (line : Nat) : State × Acc Unit :=
  match s.engLocate { p with cls := s.ccClass op p.part line } (64 * line) op.tkind host with
  | (s, .fault c) => (s, .fault c)
  | (s, .hold) => (s, .hold)
  | (s, .ok .zeros) => (s, .ok ())
  | (s, .ok (.peer _ _)) => (s, .ok ())
  | (s, .ok (.here l)) =>
    if l.cached = false then (s, .ok ())
    else if s.ccWaits op l then (s, .hold)
    else match s.ccLine op l p.core h with
      | (s, .nothing) => (s, .ok ())
      | (s, .unit b k) => (s.engHoldAt p l.cl l.va (.ticket b k), .hold)

/-- The lines of a range from `line` on; on a failure, the line where it stood. -/
def State.ccFrom (s : State) (op : CcOp) (p : Party) (host : Bool) (h : Hint) : Nat → Nat → State × Acc Unit × Nat
  | 0, line => (s, .ok (), line)
  | n + 1, line =>
    match s.ccOne op p host h line with
    | (s, .ok ()) => s.ccFrom op p host h n (line + 1)
    | (s, r) => (s, r, line)

/-- The effect of a member of `cc` (08 R247, R248). -/
def State.ccEff (op : CcOp) (h : Hint) (a b c : RegNo) (x : Cx) (s : State) (t : Thread) : Eff :=
  let ra := t.reg a
  let n := (t.reg b).bits.toNat
  let cmd := t.cmd s.cur x (t.reg c)
  let first := ra.cursor.toNat / 64
  if n = 0 ∨ isWindow ra.cursor then .retire (s.complete cmd 0)
  else
    match s.ccFrom op cmd.party ra.hostBit h ((ra.cursor.toNat + n - 1) / 64 - first + 1) first with
    | (s', .ok (), _) => .retire (s'.complete cmd 0)
    | (s', .fault e, line) => .retire (s'.complete cmd (faultStatus e (64 * line - ra.cursor.toNat)))
    | (s', .hold, _) => s.pends s' cmd

/-- The five members of `cc` (08 R247, R248). -/
def State.cc (s : State) (i : Instr) (op : CcOp) (h : Hint) (a b c : RegNo) (x : Cx) : Host.Outcome State Fault Refusal :=
  s.command i x
    (fun t =>
      let ra := t.reg a
      let n := (t.reg b).bits.toNat
      [reservedIf (decide (2 ^ 32 < n)), opCap ra (op.perm ||| permENG) n, checkCell (t.reg c),
       opPlace ra n, need (op != .inv || decide (t.hid = 0) || ra.unv) (opTrap 0x20 ra.cursor)])
    (State.ccEff op h a b c x s)

def execCcCln (a b c : RegNo) (x : Cx) (s : State) : Host.Outcome State Fault Refusal := s.cc (.ccCln a b c x) .cln .none a b c x
def execCcFls (a b c : RegNo) (x : Cx) (s : State) : Host.Outcome State Fault Refusal := s.cc (.ccFls a b c x) .fls .none a b c x
def execCcInv (a b c : RegNo) (x : Cx) (s : State) : Host.Outcome State Fault Refusal := s.cc (.ccInv a b c x) .inv .none a b c x
def execCcPf (h : Hint) (a b c : RegNo) (x : Cx) (s : State) : Host.Outcome State Fault Refusal := s.cc (.ccPf h a b c x) .pf h a b c x
def execCcRsd (h : Hint) (a b c : RegNo) (x : Cx) (s : State) : Host.Outcome State Fault Refusal := s.cc (.ccRsd h a b c x) .rsd h a b c x

/-! ## The darner (08 R239 to R242) -/

/-- An overflow record as `dx.next` writes it (08 R239). -/
def OvfRec.bytes (r : OvfRec) : List Byte :=
  let lo := r.kind % 256 + r.ticket % 65536 * 2 ^ 16 + r.slot % 8 * 2 ^ 32 + (if r.hidden then 2 ^ 35 else 0)
    + r.hid % 4096 * 2 ^ 64 + r.depth % 16 * 2 ^ 76 + (if r.grp then 2 ^ 81 else 0) + r.who % 2 ^ 28 * 2 ^ 82 + r.chip % 512 * 2 ^ 110
  leBytes 16 lo ++ leBytes 8 r.addr.toNat ++ leBytes 8 r.seq.toNat

/-- What the three members check of the issuer (08 R240 items 1 and 3), with `own` the member's operand checks between. -/
def dxChecks (t : Thread) (c : Reg) (own : List (Option Trap)) : List (Option Trap) :=
  [checkCell c, need (c.has permDIRH) ⟨0x08, c.cursor, .cell, 6⟩] ++ own ++ [cellUnv t.hid c]

/-- The outstanding `dx.next` of a slice takes the oldest records, once there is one (08 R240). -/
def State.dxServe (s : State) (cl : Nat) : State :=
  let k := s.cluster cl
  match k.dxWait with
  | some (cmd, n, a) =>
    if k.ovfQ = [] then s
    else
      let m := Nat.min n k.ovfQ.length
      match s.engWrite cmd.party a.cursor ((k.ovfQ.take m).flatMap OvfRec.bytes) a.hostBit a.unv true with
      | (s', .ok ()) =>
        let k := s'.cluster cl
        (s'.setCluster cl { k with ovfQ := k.ovfQ.drop m, dxWait := none }).complete cmd (statusWord 0 0 m)
      | (s', .fault c) =>
        let k := s'.cluster cl
        (s'.setCluster cl { k with dxWait := none }).complete cmd (faultStatus c 0)
      | (s', .hold) => s.keepWaiting s'
  | none => s

/-- `dx.next` (08 R240). -/
def execDxNext (a b c : RegNo) (x : Cx) (s : State) : Host.Outcome State Fault Refusal :=
  s.command (.dxNext a b c x) x
    (fun t =>
      let ra := t.reg a
      let n := (t.reg b).bits.toNat
      dxChecks t (t.reg c) [reservedIf (decide (n = 0) || decide (1024 < n)), opCap ra (permST ||| permENG) (32 * n),
        opAlign ra 32, opPlace ra (32 * n)])
    (fun t =>
      let cl := clusterOf (coreOf s.cur)
      let k := s.cluster cl
      let cmd := t.cmd s.cur x (t.reg c)
      if k.darner.isSome ∧ k.darner ≠ some s.cur then .retire (s.complete cmd 0x82)
      else if k.dxWait.isSome then .retire (s.complete cmd 0x81)
      else
        .retire ((s.setCluster cl { k with darner := some s.cur, dxWait := some (cmd, (t.reg b).bits.toNat, t.reg a) }).dxServe cl))

/-- The operand a of `dx.inv` (08 R241). -/
def dxTarget (q : Quad) : Nat := q.toNat % 2 ^ 28
def dxChip (q : Quad) : Nat := q.toNat / 2 ^ 28 % 2 ^ 9
def dxGrp (q : Quad) : Bool := q.getLsbD 55
def dxSlot (q : Quad) : Nat := q.toNat / 2 ^ 56 % 8
def dxHidden (q : Quad) : Bool := q.getLsbD 59
def dxOp (q : Quad) : Nat := q.toNat / 2 ^ 60 % 4
def dxHid (q : Quad) : Nat := q.toNat / 2 ^ 64 % 2 ^ 12
def dxWhid (q : Quad) : Nat := q.toNat / 2 ^ 80 % 2 ^ 12

/-- The reserved values of `dx.inv` (08 R241). -/
def State.dxInvBad (s : State) (a b : Quad) : Bool :=
  let zeroBits := decide (a.toNat / 2 ^ 37 % 2 ^ 18 ≠ 0) || decide (a.toNat / 2 ^ 62 % 4 ≠ 0) || decide (a.toNat / 2 ^ 96 ≠ 0)
    || decide (b.toNat / 2 ^ 64 ≠ 0)
  if zeroBits ∨ 2 ≤ dxOp a then true
  else if dxOp a = 0 then
    let k := b.toNat % 64
    (dxHidden a || decide (dxSlot a ≠ 0) || decide (a.toNat / 2 ^ 64 % 2 ^ 32 ≠ 0) || decide (dxTarget a / 2 ^ 20 ≠ 0)
      || !(decide (dxChip a = 0x1FF) || decide (dxChip a = s.bridge.chip))
      || decide (10 < k) || decide (b.toNat / 64 * 64 % (64 * 2 ^ k) ≠ 0))
  else (dxGrp a || decide (b.toNat % 64 ≠ 0))

/-- A sharer's L1 drops the lines of a unit, modified ones written back first, and the fills of it on their way (08 R236). -/
def State.dxInvalidate (s : State) (part : Nat) (a b : Quad) : State :=
  let k := b.toNat % 64
  let base := b.toNat / 64
  let hit (l : L1Line) : Bool := decide (l.part = part ∧ base ≤ l.line ∧ l.line < base + 2 ^ k)
  let cores := if dxGrp a then (List.range 16).map (· + 16 * groupOf (dxTarget a)) else [dxTarget a]
  let onWay (r : Req) : Bool :=
    cores.contains (coreOf r.tid) && decide (r.part = part ∧ base ≤ r.addr.toNat / 64 ∧ r.addr.toNat / 64 < base + 2 ^ k)
  let s : State := { s with reqs := s.reqs.map (fun (n, r) => (n, if onWay r then { r with fill := none } else r)) }
  cores.foldl (fun s c =>
    let lines := (s.core c).l1.filter hit
    let s := s.filterL1 (fun c' l => !(c' = c ∧ hit l))
    (lines.filter (fun l => l.state = .M)).foldl (fun s l => s.spill l.part l.line) s) s

/-- A completed wake counts against the watches that were placed with the darner, and its watch no longer lies there
(08 R246). -/
def State.wakeGone (s : State) (cmd : Cmd) (part line : Nat) (test : WatchRec → Bool) : State :=
  let cl := clusterOf cmd.core
  let k := s.cluster cl
  s.setCluster cl { k with ovfLines := liveOvf (k.ovfLines.map (fun o =>
    if o.part = part ∧ o.line = line then { o with gone := o.gone + 1, lies := o.lies.eraseP test } else o)) }

/-- A wake by the darner: the code it completes with. -/
def State.dxWake (s : State) (cmd : Cmd) (a b : Quad) : State × Word :=
  let chip := dxChip a
  if chip ≠ 0x1FF ∧ chip ≠ s.bridge.chip then
    if s.reachable chip then
      -- what the watcher's agent answers there is no state of this module: each of the three codes is open (log 23, DESIGN CHOICE)
      let (s, done) := (s.emit (.toPeer chip (b.setWidth 64) 0)).choose
      let (s, kept) := s.choose
      let test (r : WatchRec) : Bool := r.isOf chip (dxTarget a) (dxSlot a) (dxHidden a)
      if done then (s.wakeGone cmd cmd.part (b.toNat / 64) test, 0) else (s, if kept then 0x80 else 0x81)
    else (s, faultStatus 0x10 0)
  else
    let tid := dxTarget a
    let line := b.toNat / 64
    match s.thread? tid with
    | none => (s, 0x81)
    | some t =>
      let armed := if dxHidden a then t.hidden.any (fun x => decide (x.toNat / 64 = line))
        else (t.watch[dxSlot a]?).any (fun w => w.armed && decide (w.line = line))
      if armed = false then (s, 0x81)
      else if dxHid a ≠ 0 ∧ !(s.viewPath cmd.part (dxWhid a)).contains (s.effective cmd.part (dxHid a)) then (s, 0x80)
      else
        let test (r : WatchRec) : Bool := r.isOf s.bridge.chip tid (dxSlot a) (dxHidden a)
        let s' := s.deliver ⟨tid, dxSlot a, dxHidden a, line⟩
        if s.hasRecord test then (s'.purgeRecords test, 0) else (s'.wakeGone cmd t.part line test, 0)

/-- `dx.inv`, both ops (08 R241). -/
def State.dxInv (s : State) (i : Instr) (a b c : RegNo) (x : Cx) : Host.Outcome State Fault Refusal :=
  s.command i x (fun t => dxChecks t (t.reg c) [reservedIf (s.dxInvBad (t.reg a).bits (t.reg b).bits)])
    (fun t =>
      let cmd := t.cmd s.cur x (t.reg c)
      let qa := (t.reg a).bits
      let qb := (t.reg b).bits
      if (s.cluster (clusterOf cmd.core)).darner ≠ some s.cur then .retire (s.complete cmd 0x82)
      else if dxOp qa = 0 then .retire ((s.dxInvalidate t.part qa qb).complete cmd 0)
      else
        let (s', st) := s.dxWake cmd qa qb
        .retire (s'.complete cmd st))

def execDxInvInvalidate (a b c : RegNo) (x : Cx) (s : State) : Host.Outcome State Fault Refusal := s.dxInv (.dxInvInvalidate a b c x) a b c x
def execDxInvWake (a b c : RegNo) (x : Cx) (s : State) : Host.Outcome State Fault Refusal := s.dxInv (.dxInvWake a b c x) a b c x

/-- `dx.done` (08 R242). -/
def execDxDone (a b c : RegNo) (x : Cx) (s : State) : Host.Outcome State Fault Refusal :=
  s.command (.dxDone a b c x) x
    (fun t => dxChecks t (t.reg c) [reservedIf (!zeroAbove (t.reg a).bits 16 || decide ((t.reg b).bits ≠ 0))])
    (fun t =>
      let cmd := t.cmd s.cur x (t.reg c)
      let cl := clusterOf cmd.core
      let k := s.cluster cl
      if k.darner ≠ some s.cur then .retire (s.complete cmd 0x82)
      else match k.tickets.find? (fun u => u.id = (t.reg a).bits.toNat) with
        | some u => .retire ((s.ticketReturned cl u).complete cmd 0)
        | none => .retire (s.complete cmd 0x80))

/-! ## The carve-out (08 R250 to R253) -/

/-- Every byte of a flat range reads zero and loses its tag and its poison mark. -/
def State.zeroFlat (s : State) (lo hi : Nat) : State :=
  { s with mem := s.mem.filter (fun c => !(lo ≤ c.1 ∧ c.1 < hi)), tags := s.tags.filter (fun q => !(lo ≤ 16 * q ∧ 16 * q < hi))
           poison := s.poison.filter (fun a => !(lo ≤ a ∧ a < hi)) }

/-- Places of the cluster's park region that no context needs: every context of a live load has a place, in its core's
warm-context area as far as that reaches, else in the park region (05 R139, 06 R180; 08 R226: one per KiB) (log 43, DEDUCED). -/
def State.parkFree (s : State) (cl : Nat) : Nat :=
  let need := s.cores.foldl (fun n (c, k) =>
    if clusterOf c = cl then n + ((k.threads.filter (fun (_, t) => decide (t.tier ≠ .stowed))).length - k.warmSlots) else n) 0
  64 * (s.cluster cl).park - need

/-- A core's lines in L1 capacity that goes are written back and dropped; added capacity starts empty (08 R251) (log 44, DEDUCED). -/
def State.shrinkL1 (s : State) (core oldSets newSets : Nat) : State :=
  let gone (l : L1Line) : Bool := decide (newSets ≤ Config.l1Set oldSets l.line)
  let k := s.core core
  let lost := k.l1.filter gone
  let s := s.setCore core { k with l1 := k.l1.filter (fun l => !gone l), victims := k.victims.filter (fun l => !gone l) }
  (lost.filter (fun l => l.state = .M)).foldl (fun s l => s.spill l.part l.line) s

/-- When a group's pooled set changes, every victim line of its pool is dropped (08 R253). -/
def State.emptyPool (s : State) (g : Nat) : State :=
  { s with cores := s.cores.map (fun (c, k) => (c, if groupOf c = g then { k with victims := [] } else k)) }

/-- The carve change itself, one event at the core (08 R251, R252). -/
def State.carve (s : State) (core : Nat) (v : Word) : State :=
  let k := s.core core
  let k' := { k with carve := v }
  let moves := decide (k'.tcmBytes ≠ k.tcmBytes) || decide (k'.warmSlots ≠ k.warmSlots)
  -- every warm context is parked
  let s := if moves then
      s.setCore core { k with warm := List.replicate 12 none
                              threads := k.threads.map (fun (i, t) => (i, if t.tier = .warm then { t with tier := .parked } else t)) }
    else s
  let keepTcm := if moves then Nat.min k.tcmPlain k'.tcmPlain else k'.tcmBytes
  let keepShare := Nat.min k.shareBytes k'.shareBytes
  let k1 := s.core core
  let s := s.setCore core { k1 with carve := v }
  -- zeroing a byte is a write for the watches and reservations on its unit
  -- of a scratch pair, half at this core, the unit is named by the owner of the lower word (01 R22, 07 R206)
  let even := core / 2 * 2
  let hitUnit (u : Nat) : Bool :=
    decide (flatTcm core 0 ≤ u ∧ u < flatTcm core (2 ^ 17) ∧ flatTcm core keepTcm < u + 64) ||
    decide (flatScratch even keepShare ≤ u ∧ u < flatScratch even (2 ^ 17))
  let s := if moves ∨ k'.shareBytes ≠ k.shareBytes then
      let units := ((s.core core).watches.map WatchUnit.unit).filter hitUnit
      let s := (s.zeroFlat (flatTcm core keepTcm) (flatTcm core (2 ^ 17))).zeroFlat (flatScratch core keepShare) (flatScratch core (2 ^ 17))
      (s.fireLocal units).dropResv (fun r => resvOnFlat (flatTcm core keepTcm) (2 ^ 17 - keepTcm) r ||
        resvOnFlat (flatScratch core keepShare) (2 ^ 17 - keepShare) r)
    else s
  let s := if k'.l1Sets < k.l1Sets then s.shrinkL1 core k.l1Sets k'.l1Sets else s
  if k'.pooled ≠ k.pooled then s.emptyPool (groupOf core) else s

/-- `kput k.carve` (08 R251). -/
def execKputCarve (a : RegNo) (s : State) : Host.Outcome State Fault Refusal :=
  s.issue (.kputCarve a) (fun t =>
    let v := (t.reg a).lo
    let core := coreOf s.cur
    let k := s.core core
    let f (i : Nat) : Nat := v.toNat / 2 ^ (4 * i) % 16
    let moves := decide (8192 * f 0 ≠ k.tcmBytes) || decide (f 3 ≠ k.warmSlots)
    let warm := (k.warm.filter Option.isSome).length
    .checked [reservedIf (decide (v.toNat / 2 ^ 17 ≠ 0) || decide (f 0 + f 1 + f 2 ≠ 12) || decide (f 0 = 0) || decide (f 2 = 0)
                || decide (12 < f 3) || decide (8 * f 0 < f 3)),
              need (t.mayOverCore s.bridge.chip core rREWRITE) (plainTrap 0x28),
              reservedIf (moves && decide (s.parkFree (clusterOf core) < warm))] (fun _ => .retire (s.carve core v)))

end Sys2Proof.Machine
end

