-- ==== Sys2Proof/Machine/ThreadEngine.lean ====
section
/-!
DEFINITION. Sys2Proof/Machine/ThreadEngine.lean: the instructions of the thread engine (04): thread control, control
registers, integer and address arithmetic, branches and calls.
-/
namespace Sys2Proof.Machine

/-! ## Thread control (04 R128 to R131) -/

/-- `nop` retires with no effect. -/
def execNop (s : State) : Host.Outcome State Fault Refusal := s.issue .nop (fun _ => .retire s)

/-- `yield`: not a candidate in the next cycle (04 R129); the agent may let another context in (05 R138 rule 4). -/
def execYield (s : State) : Host.Outcome State Fault Refusal :=
  s.issue .yield (fun _ =>
    let s := s.modThread s.cur (fun t => { t with justYielded := s.cycle + 2 })
    .retire (s.setCore (coreOf s.cur) ((s.core (coreOf s.cur)).yieldOut (slotOf s.cur))))

/-- `exit` issues and waits; EXIT_COMPLETE retires it (04 R130). -/
def execExit (s : State) : Host.Outcome State Fault Refusal :=
  s.issue .exit (fun _ => .wait (s.modThread s.cur (fun t => { t with wait := .exit })))

/-- `trap imm` faults with 0x3F; the faulting address is the immediate (04 R131). -/
def execTrap (imm : BitVec 16) (s : State) : Host.Outcome State Fault Refusal :=
  s.issue (.trap imm) (fun _ => .trap ⟨0x3F, imm.setWidth 64, .none, 7⟩)

/-! ## Control registers (04 R111 to R114) -/

/-- The value a control register reads as; `tid` is the thread's number. -/
def State.kreg (s : State) (tid : Nat) (t : Thread) : KReg → Word
  | .tid => BitVec.ofNat 64 (tid % 2 ^ 28)
  | .lcore => t.lcore.setWidth 64
  | .seed => t.seed
  | .hyp => t.kHyp
  | .fpcsr => t.fpcsr
  | .faultrec => t.faultrec
  | .ctx => t.ctx
  | .auth => t.kAuth
  | .prio => t.kPrio
  | .wake => t.kWake
  | .carve => (s.core (coreOf tid)).carve
  | .cycle => BitVec.ofNat 64 s.cycle

def execKget (d : RegNo) (k : KReg) (s : State) : Host.Outcome State Fault Refusal :=
  s.issue (.kget d k) (fun t => s.writes d (Reg.ofWord (s.kreg s.cur t k)))

/-- The fields of k.fpcsr: draws, rm and the flags (03 R86). -/
def fpcsrMask : Word := 0xFFFFFFFFFFFF071F

def execKputFpcsr (a : RegNo) (s : State) : Host.Outcome State Fault Refusal :=
  s.issue (.kputFpcsr a) (fun t =>
    let v := (t.reg a).lo
    .checked [need (decide (v.toNat / 256 % 8 ≤ 5)) (plainTrap 0x02)] (fun _ =>
      .retire (s.modThread s.cur (fun t => { t with fpcsr := v &&& fpcsrMask }))))

def execKputFaultrec (a : RegNo) (s : State) : Host.Outcome State Fault Refusal :=
  s.issue (.kputFaultrec a) (fun t =>
    let c := t.reg a
    .checked [checkCap c permST c.cursor.toNat 64 .none 7,
              need (decide (c.cursor.toNat % 64 = 0)) ⟨0x09, c.cursor, .none, 7⟩] (fun _ =>
      .retire (s.modThread s.cur (fun t => { t with faultrec := c.cursor }))))

def execKputPrio (a : RegNo) (s : State) : Host.Outcome State Fault Refusal :=
  s.issue (.kputPrio a) (fun t =>
    let v := (t.reg a).lo.toNat % 4
    .checked [need (decide (v ≤ t.ceil)) (plainTrap 0x28)] (fun _ =>
      .retire (s.modThread s.cur (fun t => { t with cls := v }))))

def execKputWake (a : RegNo) (s : State) : Host.Outcome State Fault Refusal :=
  s.issue (.kputWake a) (fun t =>
    .retire (s.modThread s.cur (fun u => { u with fired := u.fired &&& ~~~((t.reg a).lo.setWidth 8) })))

/-! ## Integer arithmetic (04 R118, R119) -/

/-- Zero bits of `x` from bit `n - 1` down. -/
def leadZeros (x : Nat) : Nat → Nat
  | 0 => 0
  | n + 1 => if x.testBit n then 0 else 1 + leadZeros x n

/-- Zero bits of `x` from bit `i` up, among `fuel`. -/
def trailZeros (x : Nat) (i : Nat) : Nat → Nat
  | 0 => 0
  | n + 1 => if x.testBit i then 0 else 1 + trailZeros x (i + 1) n

/-- Set bits of `x` below bit `n`. -/
def onesBelow (x : Nat) : Nat → Nat
  | 0 => 0
  | n + 1 => onesBelow x n + (if x.testBit n then 1 else 0)

/-- 1 or 0 as a w-bit value. -/
def flagBits {n : Nat} (c : Bool) : BitVec n := if c then 1#n else 0#n

namespace Alu
variable {n : Nat}
def add (x y : BitVec n) : BitVec n := x + y
def sub (x y : BitVec n) : BitVec n := x - y
def and (x y : BitVec n) : BitVec n := x &&& y
def or (x y : BitVec n) : BitVec n := x ||| y
def xor (x y : BitVec n) : BitVec n := x ^^^ y
def andn (x y : BitVec n) : BitVec n := x &&& ~~~y
def orn (x y : BitVec n) : BitVec n := x ||| ~~~y
def sll (x y : BitVec n) : BitVec n := x <<< (y.toNat % n)
def srl (x y : BitVec n) : BitVec n := x >>> (y.toNat % n)
def sra (x y : BitVec n) : BitVec n := x.sshiftRight (y.toNat % n)
def rol (x y : BitVec n) : BitVec n := x <<< (y.toNat % n) ||| x >>> (n - y.toNat % n)
def ror (x y : BitVec n) : BitVec n := x >>> (y.toNat % n) ||| x <<< (n - y.toNat % n)
def slt (x y : BitVec n) : BitVec n := flagBits (x.slt y)
def sltu (x y : BitVec n) : BitVec n := flagBits (x.ult y)
def seq (x y : BitVec n) : BitVec n := flagBits (x == y)
def sne (x y : BitVec n) : BitVec n := flagBits (x != y)
def min (x y : BitVec n) : BitVec n := if x.slt y then x else y
def max (x y : BitVec n) : BitVec n := if x.slt y then y else x
def minu (x y : BitVec n) : BitVec n := if x.ult y then x else y
def maxu (x y : BitVec n) : BitVec n := if x.ult y then y else x
def mul (x y : BitVec n) : BitVec n := x * y
def mulh (x y : BitVec n) : BitVec n := BitVec.ofInt n (x.toInt * y.toInt / 2 ^ n)
def mulhu (x y : BitVec n) : BitVec n := BitVec.ofNat n (x.toNat * y.toNat / 2 ^ n)
def div (x y : BitVec n) : BitVec n := if y = 0#n then BitVec.allOnes n else x.sdiv y
def divu (x y : BitVec n) : BitVec n := if y = 0#n then BitVec.allOnes n else x.udiv y
def rem (x y : BitVec n) : BitVec n := if y = 0#n then x else x.srem y
def remu (x y : BitVec n) : BitVec n := if y = 0#n then x else x.umod y
def clz (x _ : BitVec n) : BitVec n := BitVec.ofNat n (leadZeros x.toNat n)
def ctz (x _ : BitVec n) : BitVec n := BitVec.ofNat n (trailZeros x.toNat 0 n)
def popc (x _ : BitVec n) : BitVec n := BitVec.ofNat n (onesBelow x.toNat n)
def bswap (x _ : BitVec n) : BitVec n := BitVec.ofNat n (leNat (leBytes (n / 8) x.toNat).reverse)
def sextb (x _ : BitVec n) : BitVec n := (x.setWidth 8).signExtend n
def sexth (x _ : BitVec n) : BitVec n := (x.setWidth 16).signExtend n
end Alu

/-- `alu` at the width m: the operation on w-bit operands and the result's extension to 64 bits (04 R118). -/
def aluWord (w : Width) (f : {n : Nat} → BitVec n → BitVec n → BitVec n) (av bv : Word) : Word :=
  match w with
  | .d => f av bv
  | .w => (f (av.setWidth 32) (bv.setWidth 32)).signExtend 64
  | .wz => (f (av.setWidth 32) (bv.setWidth 32)).setWidth 64

/-- The register form. -/
def State.aluReg (s : State) (i : Instr) (f : {n : Nat} → BitVec n → BitVec n → BitVec n) (d : RegNo) (w : Width) (a b : RegNo) :
    Host.Outcome State Fault Refusal :=
  s.issue i (fun t => s.writes d (Reg.ofWord (aluWord w f (t.reg a).lo (t.reg b).lo)))

/-- The immediate form: the second operand is the sign-extended immediate. -/
def State.aluImm (s : State) (i : Instr) (f : {n : Nat} → BitVec n → BitVec n → BitVec n) (d : RegNo) (w : Width) (a : RegNo)
    (imm : BitVec 17) : Host.Outcome State Fault Refusal :=
  s.issue i (fun t => s.writes d (Reg.ofWord (aluWord w f (t.reg a).lo (imm.signExtend 64))))

def execAdd (d : RegNo) (w : Width) (a b : RegNo) (s : State) : Host.Outcome State Fault Refusal :=
  s.aluReg (.add d w a b) Alu.add d w a b

def execSub (d : RegNo) (w : Width) (a b : RegNo) (s : State) : Host.Outcome State Fault Refusal :=
  s.aluReg (.sub d w a b) Alu.sub d w a b

def execAnd (d : RegNo) (w : Width) (a b : RegNo) (s : State) : Host.Outcome State Fault Refusal :=
  s.aluReg (.and d w a b) Alu.and d w a b

def execOr (d : RegNo) (w : Width) (a b : RegNo) (s : State) : Host.Outcome State Fault Refusal :=
  s.aluReg (.or d w a b) Alu.or d w a b

def execXor (d : RegNo) (w : Width) (a b : RegNo) (s : State) : Host.Outcome State Fault Refusal :=
  s.aluReg (.xor d w a b) Alu.xor d w a b

def execSll (d : RegNo) (w : Width) (a b : RegNo) (s : State) : Host.Outcome State Fault Refusal :=
  s.aluReg (.sll d w a b) Alu.sll d w a b

def execSrl (d : RegNo) (w : Width) (a b : RegNo) (s : State) : Host.Outcome State Fault Refusal :=
  s.aluReg (.srl d w a b) Alu.srl d w a b

def execSra (d : RegNo) (w : Width) (a b : RegNo) (s : State) : Host.Outcome State Fault Refusal :=
  s.aluReg (.sra d w a b) Alu.sra d w a b

def execSlt (d : RegNo) (w : Width) (a b : RegNo) (s : State) : Host.Outcome State Fault Refusal :=
  s.aluReg (.slt d w a b) Alu.slt d w a b

def execSltu (d : RegNo) (w : Width) (a b : RegNo) (s : State) : Host.Outcome State Fault Refusal :=
  s.aluReg (.sltu d w a b) Alu.sltu d w a b

def execSeq (d : RegNo) (w : Width) (a b : RegNo) (s : State) : Host.Outcome State Fault Refusal :=
  s.aluReg (.seq d w a b) Alu.seq d w a b

def execSne (d : RegNo) (w : Width) (a b : RegNo) (s : State) : Host.Outcome State Fault Refusal :=
  s.aluReg (.sne d w a b) Alu.sne d w a b

def execMin (d : RegNo) (w : Width) (a b : RegNo) (s : State) : Host.Outcome State Fault Refusal :=
  s.aluReg (.min d w a b) Alu.min d w a b

def execMax (d : RegNo) (w : Width) (a b : RegNo) (s : State) : Host.Outcome State Fault Refusal :=
  s.aluReg (.max d w a b) Alu.max d w a b

def execMinu (d : RegNo) (w : Width) (a b : RegNo) (s : State) : Host.Outcome State Fault Refusal :=
  s.aluReg (.minu d w a b) Alu.minu d w a b

def execMaxu (d : RegNo) (w : Width) (a b : RegNo) (s : State) : Host.Outcome State Fault Refusal :=
  s.aluReg (.maxu d w a b) Alu.maxu d w a b

def execMul (d : RegNo) (w : Width) (a b : RegNo) (s : State) : Host.Outcome State Fault Refusal :=
  s.aluReg (.mul d w a b) Alu.mul d w a b

def execMulh (d : RegNo) (w : Width) (a b : RegNo) (s : State) : Host.Outcome State Fault Refusal :=
  s.aluReg (.mulh d w a b) Alu.mulh d w a b

def execMulhu (d : RegNo) (w : Width) (a b : RegNo) (s : State) : Host.Outcome State Fault Refusal :=
  s.aluReg (.mulhu d w a b) Alu.mulhu d w a b

def execDiv (d : RegNo) (w : Width) (a b : RegNo) (s : State) : Host.Outcome State Fault Refusal :=
  s.aluReg (.div d w a b) Alu.div d w a b

def execDivu (d : RegNo) (w : Width) (a b : RegNo) (s : State) : Host.Outcome State Fault Refusal :=
  s.aluReg (.divu d w a b) Alu.divu d w a b

def execRem (d : RegNo) (w : Width) (a b : RegNo) (s : State) : Host.Outcome State Fault Refusal :=
  s.aluReg (.rem d w a b) Alu.rem d w a b

def execRemu (d : RegNo) (w : Width) (a b : RegNo) (s : State) : Host.Outcome State Fault Refusal :=
  s.aluReg (.remu d w a b) Alu.remu d w a b

def execAndn (d : RegNo) (w : Width) (a b : RegNo) (s : State) : Host.Outcome State Fault Refusal :=
  s.aluReg (.andn d w a b) Alu.andn d w a b

def execOrn (d : RegNo) (w : Width) (a b : RegNo) (s : State) : Host.Outcome State Fault Refusal :=
  s.aluReg (.orn d w a b) Alu.orn d w a b

def execRol (d : RegNo) (w : Width) (a b : RegNo) (s : State) : Host.Outcome State Fault Refusal :=
  s.aluReg (.rol d w a b) Alu.rol d w a b

def execRor (d : RegNo) (w : Width) (a b : RegNo) (s : State) : Host.Outcome State Fault Refusal :=
  s.aluReg (.ror d w a b) Alu.ror d w a b

def execClz (d : RegNo) (w : Width) (a : RegNo) (s : State) : Host.Outcome State Fault Refusal :=
  s.aluReg (.clz d w a) Alu.clz d w a 0

def execCtz (d : RegNo) (w : Width) (a : RegNo) (s : State) : Host.Outcome State Fault Refusal :=
  s.aluReg (.ctz d w a) Alu.ctz d w a 0

def execPopc (d : RegNo) (w : Width) (a : RegNo) (s : State) : Host.Outcome State Fault Refusal :=
  s.aluReg (.popc d w a) Alu.popc d w a 0

def execBswap (d : RegNo) (w : Width) (a : RegNo) (s : State) : Host.Outcome State Fault Refusal :=
  s.aluReg (.bswap d w a) Alu.bswap d w a 0

def execSextb (d : RegNo) (w : Width) (a : RegNo) (s : State) : Host.Outcome State Fault Refusal :=
  s.aluReg (.sextb d w a) Alu.sextb d w a 0

def execSexth (d : RegNo) (w : Width) (a : RegNo) (s : State) : Host.Outcome State Fault Refusal :=
  s.aluReg (.sexth d w a) Alu.sexth d w a 0

def execAddi (d : RegNo) (w : Width) (a : RegNo) (imm : BitVec 17) (s : State) : Host.Outcome State Fault Refusal :=
  s.aluImm (.addi d w a imm) Alu.add d w a imm

def execAndi (d : RegNo) (w : Width) (a : RegNo) (imm : BitVec 17) (s : State) : Host.Outcome State Fault Refusal :=
  s.aluImm (.andi d w a imm) Alu.and d w a imm

def execOri (d : RegNo) (w : Width) (a : RegNo) (imm : BitVec 17) (s : State) : Host.Outcome State Fault Refusal :=
  s.aluImm (.ori d w a imm) Alu.or d w a imm

def execXori (d : RegNo) (w : Width) (a : RegNo) (imm : BitVec 17) (s : State) : Host.Outcome State Fault Refusal :=
  s.aluImm (.xori d w a imm) Alu.xor d w a imm

def execSlli (d : RegNo) (w : Width) (a : RegNo) (imm : BitVec 17) (s : State) : Host.Outcome State Fault Refusal :=
  s.aluImm (.slli d w a imm) Alu.sll d w a imm

def execSrli (d : RegNo) (w : Width) (a : RegNo) (imm : BitVec 17) (s : State) : Host.Outcome State Fault Refusal :=
  s.aluImm (.srli d w a imm) Alu.srl d w a imm

def execSrai (d : RegNo) (w : Width) (a : RegNo) (imm : BitVec 17) (s : State) : Host.Outcome State Fault Refusal :=
  s.aluImm (.srai d w a imm) Alu.sra d w a imm

def execSlti (d : RegNo) (w : Width) (a : RegNo) (imm : BitVec 17) (s : State) : Host.Outcome State Fault Refusal :=
  s.aluImm (.slti d w a imm) Alu.slt d w a imm

def execSltui (d : RegNo) (w : Width) (a : RegNo) (imm : BitVec 17) (s : State) : Host.Outcome State Fault Refusal :=
  s.aluImm (.sltui d w a imm) Alu.sltu d w a imm

def execSeqi (d : RegNo) (w : Width) (a : RegNo) (imm : BitVec 17) (s : State) : Host.Outcome State Fault Refusal :=
  s.aluImm (.seqi d w a imm) Alu.seq d w a imm

def execSnei (d : RegNo) (w : Width) (a : RegNo) (imm : BitVec 17) (s : State) : Host.Outcome State Fault Refusal :=
  s.aluImm (.snei d w a imm) Alu.sne d w a imm

def execMini (d : RegNo) (w : Width) (a : RegNo) (imm : BitVec 17) (s : State) : Host.Outcome State Fault Refusal :=
  s.aluImm (.mini d w a imm) Alu.min d w a imm

def execMaxi (d : RegNo) (w : Width) (a : RegNo) (imm : BitVec 17) (s : State) : Host.Outcome State Fault Refusal :=
  s.aluImm (.maxi d w a imm) Alu.max d w a imm

def execMinui (d : RegNo) (w : Width) (a : RegNo) (imm : BitVec 17) (s : State) : Host.Outcome State Fault Refusal :=
  s.aluImm (.minui d w a imm) Alu.minu d w a imm

def execMaxui (d : RegNo) (w : Width) (a : RegNo) (imm : BitVec 17) (s : State) : Host.Outcome State Fault Refusal :=
  s.aluImm (.maxui d w a imm) Alu.maxu d w a imm

def execMuli (d : RegNo) (w : Width) (a : RegNo) (imm : BitVec 17) (s : State) : Host.Outcome State Fault Refusal :=
  s.aluImm (.muli d w a imm) Alu.mul d w a imm

def execRoli (d : RegNo) (w : Width) (a : RegNo) (imm : BitVec 17) (s : State) : Host.Outcome State Fault Refusal :=
  s.aluImm (.roli d w a imm) Alu.rol d w a imm

def execRori (d : RegNo) (w : Width) (a : RegNo) (imm : BitVec 17) (s : State) : Host.Outcome State Fault Refusal :=
  s.aluImm (.rori d w a imm) Alu.ror d w a imm


/-- `pack`: both 64-bit values in one register. -/
def execPack (d a b : RegNo) (s : State) : Host.Outcome State Fault Refusal :=
  s.issue (.pack d a b) (fun t => s.writes d ⟨(t.reg b).lo ++ (t.reg a).lo, false⟩)

/-- `hi`: the upper 64 bits. -/
def execHi (d a : RegNo) (s : State) : Host.Outcome State Fault Refusal :=
  s.issue (.hi d a) (fun t => s.writes d (Reg.ofWord (t.reg a).hi))

/-- `li` (04 R119). -/
def execLi (d : RegNo) (imm : BitVec 54) (s : State) : Host.Outcome State Fault Refusal :=
  s.issue (.li d imm) (fun _ => s.writes d (Reg.ofWord (imm.signExtend 64)))

/-- `lih` replaces bits [63:54] (04 R119). -/
def execLih (d : RegNo) (imm : BitVec 10) (s : State) : Host.Outcome State Fault Refusal :=
  s.issue (.lih d imm) (fun t => s.writes d (Reg.ofWord (imm ++ (t.reg d).lo.setWidth 54)))

/-! ## Control flow (04 R120, R121) -/

/-- A fault of a transfer: its faulting address is the target (02 R49, 05 R162). -/
def targetTrap (cause : Byte) (target : Word) : Trap := ⟨cause, target, .fetch, 5⟩

/-- The common end of every transfer: the bit-0 check, the fetch checks on `cap`, the line check, the link and the new pcc
(04 R110, R121; 02 R49) (log 99, DEDUCED). -/
def State.transfer (s : State) (t : Thread) (cap newpcc : Reg) (target : Word) (link : Option RegNo) : Eff :=
  if target.getLsbD 0 then .trap (targetTrap 0x04 target)
  else
    match s.enterLine s.cur t cap target with
    | (s', .ok l) =>
      let s' := match link with
        | some d => s'.modThread s.cur (fun u => u.setReg d { t.pcc.withCursor t.following with tag := true })
        | none => s'
      .jump s' newpcc l
    | (s', .fault c _) => .badTarget s' (targetTrap c target)
    | (s', .hold) => .held s'

/-- `jmp` and `call`, and a branch that is taken: the target lies within pcc's bounds. -/
def State.jumpTo (s : State) (t : Thread) (target : Word) (link : Option RegNo) : Eff :=
  s.transfer t t.pcc (t.pcc.withCursor target) target link

/-- `jr` and `callr`: the target is the cursor of a. -/
def State.jumpReg (s : State) (t : Thread) (a : RegNo) (link : Option RegNo) : Eff :=
  let c := t.reg a
  .checked [need c.tag (targetTrap 0x05 c.cursor), need (!c.sealed_) (targetTrap 0x06 c.cursor),
            need (c.has permEX) (targetTrap 0x08 c.cursor)] (fun _ => s.transfer t c c c.cursor link)

/-- A conditional branch. -/
def State.branch (s : State) (i : Instr) (taken : Thread → Bool) (f : BitVec 17) : Host.Outcome State Fault Refusal :=
  s.issue i (fun t => if taken t then s.jumpTo t (targetOf t.pcc.lo f) none else .retire s)

def execBeq (a b : RegNo) (t : BitVec 17) (s : State) : Host.Outcome State Fault Refusal :=
  let f := t
  s.branch (.beq a b f) (fun t => (t.reg a).lo == (t.reg b).lo) f

def execBne (a b : RegNo) (t : BitVec 17) (s : State) : Host.Outcome State Fault Refusal :=
  let f := t
  s.branch (.bne a b f) (fun t => (t.reg a).lo != (t.reg b).lo) f

def execBlt (a b : RegNo) (t : BitVec 17) (s : State) : Host.Outcome State Fault Refusal :=
  let f := t
  s.branch (.blt a b f) (fun t => (t.reg a).lo.slt (t.reg b).lo) f

def execBge (a b : RegNo) (t : BitVec 17) (s : State) : Host.Outcome State Fault Refusal :=
  let f := t
  s.branch (.bge a b f) (fun t => !(t.reg a).lo.slt (t.reg b).lo) f

def execBltu (a b : RegNo) (t : BitVec 17) (s : State) : Host.Outcome State Fault Refusal :=
  let f := t
  s.branch (.bltu a b f) (fun t => (t.reg a).lo.ult (t.reg b).lo) f

def execBgeu (a b : RegNo) (t : BitVec 17) (s : State) : Host.Outcome State Fault Refusal :=
  let f := t
  s.branch (.bgeu a b f) (fun t => !(t.reg a).lo.ult (t.reg b).lo) f

def execBtag (a : RegNo) (t : BitVec 17) (s : State) : Host.Outcome State Fault Refusal :=
  let f := t
  s.branch (.btag a f) (fun t => (t.reg a).tag) f

def execBntag (a : RegNo) (t : BitVec 17) (s : State) : Host.Outcome State Fault Refusal :=
  let f := t
  s.branch (.bntag a f) (fun t => !(t.reg a).tag) f

def execJmp (t : BitVec 54) (s : State) : Host.Outcome State Fault Refusal :=
  let f := t
  s.issue (.jmp f) (fun t => s.jumpTo t (targetOf t.pcc.lo f) none)

def execCall (d : RegNo) (t : BitVec 54) (s : State) : Host.Outcome State Fault Refusal :=
  let f := t
  s.issue (.call d f) (fun t => s.jumpTo t (targetOf t.pcc.lo f) (some d))

def execJr (a : RegNo) (s : State) : Host.Outcome State Fault Refusal :=
  s.issue (.jr a) (fun t => s.jumpReg t a none)

def execCallr (d a : RegNo) (s : State) : Host.Outcome State Fault Refusal :=
  s.issue (.callr d a) (fun t => s.jumpReg t a (some d))

end Sys2Proof.Machine
end

