-- ==== Sys2Proof/Machine/Float.lean ====
section
/-!
DEFINITION. Sys2Proof/Machine/Float.lean: the scalar floating-point instructions (04 R125 to R127), with the thread's
rounding mode, draws and flags (03 R86, R92, R96).
-/
namespace Sys2Proof.Machine

/-- The rounding mode of k.fpcsr. -/
def Thread.rm (t : Thread) : RMode := RMode.ofCode (t.fpcsr.toNat / 256 % 8)
/-- The draws field of k.fpcsr. -/
def Thread.draws (t : Thread) : Nat := t.fpcsr.toNat / 2 ^ 16
/-- The draws field rises by `n`, modulo 2^48 (03 R96). -/
def Thread.takeDraws (t : Thread) (n : Nat) : Thread :=
  { t with fpcsr := BitVec.ofNat 64 (t.draws + n) <<< 16 ||| (t.fpcsr &&& 0xFFFF#64) }
/-- The draw that number `n` of the field stands for, for the thread in slot `slot`. -/
def Thread.draw (t : Thread) (slot n : Nat) : Nat := drawOf t.seed t.lcore (srCounter slot n)

/-- The layout of a scalar format. -/
def FFmt.layout : FFmt → FLayout
  | .f64 => layF64 | .f32 => layF32 | .bf16 => layBF16 | .f16 => layF16

/-- The format among all formats. -/
def FFmt.fmt : FFmt → Fmt
  | .f64 => .f64 | .f32 => .f32 | .bf16 => .bf16 | .f16 => .f16

/-- An operand's bits in a format: the low bits of the register (04 R125). -/
def operandBits (f : FFmt) (r : Reg) : Nat := r.lo.toNat % 2 ^ (FFmt.layout f).width

/-- A scalar result: written zero-extended, flags raised, one draw taken when the mode used is SR (04 R125, 03 R96). -/
def State.writesFp (s : State) (d : RegNo) (mode : RMode) (rounds : Bool) (v : Reg) (f : FlagSet) : Eff :=
  .retire (s.modThread s.cur (fun t =>
    let t := t.raiseFlags t.order f
    (if rounds && mode == .sr then t.takeDraws 1 else t).setReg d v))

/-- A member that rounds: the operation gets the layout, the mode, the draw and the thread. -/
def State.fpRounding (s : State) (i : Instr) (d : RegNo) (f : FFmt) (op : FLayout → RMode → Nat → Thread → FRes) :
    Host.Outcome State Fault Refusal :=
  s.issue i (fun t =>
    let r := op (FFmt.layout f) t.rm (t.draw (slotOf s.cur) t.draws) t
    s.writesFp d t.rm true (Reg.ofNat r.bits) r.flags)

/-- A member that does not round. -/
def State.fpPlain (s : State) (i : Instr) (d : RegNo) (op : Thread → FRes) : Host.Outcome State Fault Refusal :=
  s.issue i (fun t => let r := op t; s.writesFp d t.rm false (Reg.ofNat r.bits) r.flags)

/-- The datum of an operand. -/
def Thread.fp (t : Thread) (f : FFmt) (r : RegNo) : FVal := fpRead (FFmt.layout f) (operandBits f (t.reg r))

/-- Sign injection: a's magnitude bits with the sign given (04 R125). -/
def signInject (f : FFmt) (a : Nat) (neg : Bool) : FRes :=
  ⟨a % (FFmt.layout f).signBit + (if neg then (FFmt.layout f).signBit else 0), 0⟩

/-- The sign bit of an operand's bits. -/
def signOf (f : FFmt) (a : Nat) : Bool := decide (a / (FFmt.layout f).signBit % 2 = 1)

/-- 1 or 0 with flags. -/
def boolRes (r : Bool × FlagSet) : FRes := ⟨if r.1 then 1 else 0, r.2⟩

def execFadd (d : RegNo) (t : FFmt) (a b : RegNo) (s : State) : Host.Outcome State Fault Refusal :=
  let f := t
  s.fpRounding (.fadd d f a b) d f (fun l m u t => fpAdd l m u (t.fp f a) (t.fp f b))

def execFsub (d : RegNo) (t : FFmt) (a b : RegNo) (s : State) : Host.Outcome State Fault Refusal :=
  let f := t
  s.fpRounding (.fsub d f a b) d f (fun l m u t => fpAdd l m u (t.fp f a) (t.fp f b).neg)

def execFmul (d : RegNo) (t : FFmt) (a b : RegNo) (s : State) : Host.Outcome State Fault Refusal :=
  let f := t
  s.fpRounding (.fmul d f a b) d f (fun l m u t => fpMul l m u (t.fp f a) (t.fp f b))

def execFdiv (d : RegNo) (t : FFmt) (a b : RegNo) (s : State) : Host.Outcome State Fault Refusal :=
  let f := t
  s.fpRounding (.fdiv d f a b) d f (fun l m u t => fpDiv l m u (t.fp f a) (t.fp f b))

def execFsqrt (d : RegNo) (t : FFmt) (a : RegNo) (s : State) : Host.Outcome State Fault Refusal :=
  let f := t
  s.fpRounding (.fsqrt d f a) d f (fun l m u t => fpSqrt l m u (t.fp f a))

def execFmin (d : RegNo) (t : FFmt) (a b : RegNo) (s : State) : Host.Outcome State Fault Refusal :=
  let f := t
  s.fpPlain (.fmin d f a b) d (fun t => fpMinMax (FFmt.layout f) false (operandBits f (t.reg a)) (operandBits f (t.reg b)))

def execFmax (d : RegNo) (t : FFmt) (a b : RegNo) (s : State) : Host.Outcome State Fault Refusal :=
  let f := t
  s.fpPlain (.fmax d f a b) d (fun t => fpMinMax (FFmt.layout f) true (operandBits f (t.reg a)) (operandBits f (t.reg b)))

def execFsgnj (d : RegNo) (t : FFmt) (a b : RegNo) (s : State) : Host.Outcome State Fault Refusal :=
  let f := t
  s.fpPlain (.fsgnj d f a b) d (fun t => signInject f (operandBits f (t.reg a)) (signOf f (operandBits f (t.reg b))))

def execFsgnjn (d : RegNo) (t : FFmt) (a b : RegNo) (s : State) : Host.Outcome State Fault Refusal :=
  let f := t
  s.fpPlain (.fsgnjn d f a b) d (fun t => signInject f (operandBits f (t.reg a)) (!signOf f (operandBits f (t.reg b))))

def execFsgnjx (d : RegNo) (t : FFmt) (a b : RegNo) (s : State) : Host.Outcome State Fault Refusal :=
  let f := t
  s.fpPlain (.fsgnjx d f a b) d (fun t => signInject f (operandBits f (t.reg a)) (signOf f (operandBits f (t.reg a)) ^^ signOf f (operandBits f (t.reg b))))

def execFeq (d : RegNo) (t : FFmt) (a b : RegNo) (s : State) : Host.Outcome State Fault Refusal :=
  let f := t
  s.fpPlain (.feq d f a b) d (fun t => boolRes (fpEq (t.fp f a) (t.fp f b)))

def execFlt (d : RegNo) (t : FFmt) (a b : RegNo) (s : State) : Host.Outcome State Fault Refusal :=
  let f := t
  s.fpPlain (.flt d f a b) d (fun t => boolRes (fpLt (t.fp f a) (t.fp f b)))

def execFle (d : RegNo) (t : FFmt) (a b : RegNo) (s : State) : Host.Outcome State Fault Refusal :=
  let f := t
  s.fpPlain (.fle d f a b) d (fun t => boolRes (fpLe (t.fp f a) (t.fp f b)))

def execFclass (d : RegNo) (t : FFmt) (a : RegNo) (s : State) : Host.Outcome State Fault Refusal :=
  let f := t
  s.fpPlain (.fclass d f a) d (fun t => ⟨fpClass (FFmt.layout f) (operandBits f (t.reg a)), 0⟩)

def execFma (d : RegNo) (t : FFmt) (a b c : RegNo) (s : State) : Host.Outcome State Fault Refusal :=
  let f := t
  s.fpRounding (.fma d f a b c) d f (fun l m u t => fpFma l m u (t.fp f a) (t.fp f b) (t.fp f c))

def execFms (d : RegNo) (t : FFmt) (a b c : RegNo) (s : State) : Host.Outcome State Fault Refusal :=
  let f := t
  s.fpRounding (.fms d f a b c) d f (fun l m u t => fpFma l m u (t.fp f a) (t.fp f b) (t.fp f c).neg)

def execFnma (d : RegNo) (t : FFmt) (a b c : RegNo) (s : State) : Host.Outcome State Fault Refusal :=
  let f := t
  s.fpRounding (.fnma d f a b c) d f (fun l m u t => fpFma l m u (t.fp f a).neg (t.fp f b) (t.fp f c))

def execFnms (d : RegNo) (t : FFmt) (a b c : RegNo) (s : State) : Host.Outcome State Fault Refusal :=
  let f := t
  s.fpRounding (.fnms d f a b c) d f (fun l m u t => fpFma l m u (t.fp f a).neg (t.fp f b) (t.fp f c).neg)

/-- The mode an `fcvt` uses (02 R60). -/
def Thread.rndMode (t : Thread) : Rnd → RMode
  | .thread => t.rm
  | .rne => .rne | .rna => .rna | .rtz => .rtz | .rup => .rup | .rdn => .rdn | .sr => .sr

/-- How `fcvt` writes a result: `.i32` sign-extended into 64 bits, every other format zero-extended (04 R127). -/
def fcvtReg (toF : Fmt) (bits : Nat) : Reg :=
  if toF = .i32 then Reg.ofWord ((BitVec.ofNat 32 bits).signExtend 64) else Reg.ofNat bits

/-- `fcvt` (04 R127). -/
def execFcvt (d : RegNo) (toF fr : Fmt) (rnd : Rnd) (a : RegNo) (s : State) : Host.Outcome State Fault Refusal :=
  s.issue (.fcvt d toF fr rnd a) (fun t =>
    let m := t.rndMode rnd
    let r := fmtConvert presetE4M3 toF fr m (t.draw (slotOf s.cur) t.draws) ((t.reg a).lo.toNat % 2 ^ Fmt.bits fr)
    s.writesFp d m true (fcvtReg toF r.bits) r.flags)

end Sys2Proof.Machine
end

