-- ==== Sys2Proof/Machine/Copy.lean ====
section
/-!
DEFINITION. Sys2Proof/Machine/Copy.lean: the copy engine (10): slots, shapes, chunks, and the eight copy commands.
-/
namespace Sys2Proof.Machine

/-! ## Shapes (10 R287, R288) -/

/-- Member codes 0 to 4 (10 R286). -/
inductive CpOp where | line | plane | cube | gather | fill
  deriving DecidableEq, Repr

def CpOp.code : CpOp → Nat
  | .line => 0 | .plane => 1 | .cube => 2 | .gather => 3 | .fill => 4

def CpOp.ofCode : Nat → CpOp
  | 0 => .line | 1 => .plane | 2 => .cube | 3 => .gather | _ => .fill

/-- An unsigned field of a shape register. -/
def fld (q : Quad) (lo n : Nat) : Nat := q.toNat / 2 ^ lo % 2 ^ n
/-- A signed field of a shape register. -/
def sfld (q : Quad) (lo n : Nat) : Int := (BitVec.ofNat n (fld q lo n)).toInt

/-- Nonzero bits in a field marked zero. -/
def CpOp.reserved (op : CpOp) (q : Quad) : Bool :=
  match op with
  | .line | .fill => decide (fld q 41 87 ≠ 0)
  | .plane => decide (fld q 48 16 ≠ 0)
  | _ => false

/-- The total of a transfer; a gather's is the sum of its list. -/
def CpOp.total (op : CpOp) (q : Quad) : Nat :=
  match op with
  | .line | .fill => fld q 0 41
  | .plane => fld q 24 24 * fld q 0 24
  | .cube => fld q 28 12 * fld q 16 12 * fld q 0 16
  | .gather => 0

/-- Displacement of position `o` from the source (or destination) cursor, gathers apart. -/
def CpOp.at_ (op : CpOp) (q : Quad) (dst : Bool) (o : Nat) : Int :=
  match op with
  | .plane =>
    let w := fld q 0 24
    (o / w : Nat) * (if dst then sfld q 96 32 else sfld q 64 32) + (o % w : Nat)
  | .cube =>
    let w := fld q 0 16
    let rows := fld q 16 12
    16 * ((o / (rows * w) : Nat) * (if dst then sfld q 106 22 else sfld q 62 22)
        + (o / w % rows : Nat) * (if dst then sfld q 84 22 else sfld q 40 22)) + (o % w : Nat)
  | _ => o

/-- The footprint of one side as displacements from the cursor, for a total above 0 (10 R289). -/
def CpOp.span (op : CpOp) (q : Quad) (dst : Bool) : Int × Int :=
  let ext (n : Nat) (st : Int) : Int × Int := let m := ((n - 1 : Nat) : Int) * st; (min 0 m, max 0 m)
  match op with
  | .plane =>
    let (lo, hi) := ext (fld q 24 24) (if dst then sfld q 96 32 else sfld q 64 32)
    (lo, hi + fld q 0 24)
  | .cube =>
    let (l1, h1) := ext (fld q 16 12) (16 * (if dst then sfld q 84 22 else sfld q 40 22))
    let (l2, h2) := ext (fld q 28 12) (16 * (if dst then sfld q 106 22 else sfld q 62 22))
    (l1 + l2, h1 + h2 + fld q 0 16)
  | op => (0, op.total q)

/-! ## Issue (10 R285, R289) -/

/-- Two addresses lie in different spaces (01 R14). -/
def otherSpace (a b : Word) : Bool :=
  decide (a.getLsbD 63 ≠ b.getLsbD 63) || (a.getLsbD 63 && decide (a.getLsbD 62 ≠ b.getLsbD 62))

/-- R23 check 3 on both ends of a footprint, with the agent-register rule of 05 R166. -/
def spanPlace (c : Reg) (sp : Int × Int) : Option Trap :=
  let lo := BitVec.ofInt 64 (c.cursor.toNat + sp.1)
  let hi := BitVec.ofInt 64 (c.cursor.toNat + sp.2 - 1)
  firstOf [need (canonical lo) (opTrap 0x16 lo), need (canonical hi) (opTrap 0x16 hi), need (!otherSpace lo hi) (opTrap 0x16 hi),
           need (!touchesAgent lo (sp.2 - sp.1).toNat) (opTrap 0x28 lo)]

/-- `check_cap` of a footprint. -/
def spanCap (c : Reg) (perms : BitVec 14) (sp : Int × Int) : Option Trap :=
  checkCap c perms (c.cursor.toNat + sp.1) (sp.2 - sp.1).toNat .command 6

/-- The checks on a gather list's capability. -/
def listChecks (d : Reg) : List (Option Trap) :=
  let room : Int := (boundsOf d).2 - d.cursor.toNat
  [need d.tag (opTrap 0x05 d.cursor), need (!d.sealed_) (opTrap 0x06 d.cursor), need (d.has (permLD ||| permENG)) (opTrap 0x08 d.cursor),
   need (decide (d.cursor.toNat % 8 = 0)) (opTrap 0x09 d.cursor),
   reservedIf (decide (room % 8 ≠ 0) || decide (room / 8 < 1) || decide (65536 < room / 8))]

/-- Entries of a gather list. -/
def listCount (d : Reg) : Nat := (((boundsOf d).2 - d.cursor.toNat) / 8).toNat

/-- `issue_copy` (10 R289). -/
def copyChecks (t : Thread) (op : CpOp) (d a b c : Reg) : List (Option Trap) :=
  let total := op.total d.bits
  [checkCell c, reservedIf (op.reserved d.bits || decide (2 ^ 40 < total))]
  ++ (if op = .gather then listChecks d ++ [opCap a (permST ||| permENG) 0, opCap b (permLD ||| permENG) 0, opPlace a 0]
      else if total = 0 then []
      else [spanCap a (permST ||| permENG) (op.span d.bits true),
            (if op = .fill then none else spanCap b (permLD ||| permENG) (op.span d.bits false)),
            spanPlace a (op.span d.bits true), (if op = .fill then none else spanPlace b (op.span d.bits false))])
  ++ [opWindowUnv t.hid a, cellWindowUnv t.hid c]

/-- A gather list read whole: its total is 0. -/
def State.gatherEmpty (s : State) (p : Party) (d : Reg) : Bool :=
  match (s.engRead p d.cursor (8 * listCount d) d.hostBit).2 with
  | .ok bs => (List.range (listCount d)).all (fun i => decide (bs.getD (8 * i + 6) 0 = 0 ∧ bs.getD (8 * i + 7) 0 = 0))
  | _ => false

/-- A command's traffic to global lines, which is of class 2 at a slice (08 R254). -/
def Cmd.mover (c : Cmd) : Party := { c.party with cls := some 2 }

/-- A transfer takes the lowest free slot, in its turn; with all 128 taken, or others waiting before it, it waits in line. -/
def State.takeSlot (s : State) (x : CopySlot) : Eff :=
  let me := coreOf s.cur
  let k := s.core me
  let first := decide (k.waitingCopies.headD s.cur = s.cur)
  match (if first then tfree k.slots 128 0 else none) with
  | some n => .retire (s.setCore me { k with slots := tput k.slots n x, waitingCopies := k.waitingCopies.filter (· ≠ s.cur) })
  | none =>
    if k.waitingCopies.contains s.cur then .stall
    else .queued (s.setCore me { k with waitingCopies := k.waitingCopies ++ [s.cur] })

/-- The lane of a thread's copy commands, which are applied one at a time, in issue order (10 R293). -/
def Cmd.inCopies (c : Cmd) : Cmd := { c with lane := .copies c.tid }

/-- A transfer as its slot takes it. -/
def newSlot (cmd : Cmd) (op : CpOp) (h : Hint) (d a b : Reg) : CopySlot :=
  { cmd := cmd, member := op.code, hint := h, shape := d, a := a, b := b, total := op.total d.bits, list := []
    state := .inFlight, first := 0, started := 0, done := [], bad := [], fault := none, stop := false }

/-- Members 0 to 4; behind an earlier copy command of the thread that is not complete they wait at issue (10 R293) (log 125, DEDUCED,
DEDUCED). -/
def State.copy (s : State) (i : Instr) (op : CpOp) (h : Hint) (d a b c : RegNo) (x : Cx) : Host.Outcome State Fault Refusal :=
  s.command i x (fun t => copyChecks t op (t.reg d) (t.reg a) (t.reg b) (t.reg c))
    (fun t =>
      let cmd := t.cmd s.cur x (t.reg c)
      let rd := t.reg d
      if s.laneBusy cmd.inCopies.lane then .stall
      else if (op ≠ .gather ∧ op.total rd.bits = 0) ∨ (op = .gather ∧ s.gatherEmpty cmd.party rd) then .retire (s.complete cmd 0)
      else s.takeSlot (newSlot cmd op h rd (t.reg a) (t.reg b)))

def execCp1d (h : Hint) (d a b c : RegNo) (x : Cx) (s : State) : Host.Outcome State Fault Refusal := s.copy (.cp1d h d a b c x) .line h d a b c x
def execCp2d (h : Hint) (d a b c : RegNo) (x : Cx) (s : State) : Host.Outcome State Fault Refusal := s.copy (.cp2d h d a b c x) .plane h d a b c x
def execCp3d (h : Hint) (d a b c : RegNo) (x : Cx) (s : State) : Host.Outcome State Fault Refusal := s.copy (.cp3d h d a b c x) .cube h d a b c x
def execCpGat (h : Hint) (d a b c : RegNo) (x : Cx) (s : State) : Host.Outcome State Fault Refusal := s.copy (.cpGat h d a b c x) .gather h d a b c x
def execCpFill (h : Hint) (d a b c : RegNo) (x : Cx) (s : State) : Host.Outcome State Fault Refusal := s.copy (.cpFill h d a b c x) .fill h d a b c x

/-! ## Chunks (10 R290) -/

/-- Sum of the lengths of list entries. -/
def listSum (l : List (Nat × Nat)) : Nat := (l.map Prod.fst).foldl (· + ·) 0

/-- The first failing check on the spans of a gather entry, as it is read (10 R289). -/
def CopySlot.entryCause (x : CopySlot) (l : List (Nat × Nat)) (len off : Nat) : Option Byte :=
  if len = 0 then none
  else (capCause x.b (permLD ||| permENG) (x.b.cursor.toNat + off) len).orElse
    (fun _ => capCause x.a (permST ||| permENG) (x.a.cursor.toNat + listSum l) len)

/-- Reads gather entries until they cover `upto` positions and what follows is no entry of length 0, or until the list ends. A
later entry that fails its checks is left to the chunk that needs it. -/
def State.readList (s : State) (x : CopySlot) (upto : Nat) : Nat → List (Nat × Nat) → State × Acc (List (Nat × Nat))
  | 0, l => (s, .ok l)
  | fuel + 1, l =>
    if listCount x.shape ≤ l.length ∨ upto < listSum l then (s, .ok l)
    else
      match s.engRead1 x.cmd.mover (x.shape.cursor + BitVec.ofNat 64 (8 * l.length)) 8 x.shape.hostBit with
      | (s, .ok (bs, _)) =>
        let len : Nat := leNat bs / 2 ^ 48
        let off : Nat := leNat bs % 2 ^ 48
        (match x.entryCause l len off with
         | some c => (s, if upto ≤ listSum l then .ok l else .fault c)
         | none => s.readList x upto fuel (l ++ [(len, off)]))
      | (s, .fault c) => (s, .fault c)
      | (s, .hold) => (s, .hold)

/-- Displacement of a gather's source at position `o` (log 61, DEDUCED) (log 108, DEDUCED). -/
def gatherAt : List (Nat × Nat) → Nat → Nat
  | [], _ => 0
  | (len, off) :: r, o => if o < len then off + o else gatherAt r (o - len)

/-- Source address of a position, none for a fill. -/
def CopySlot.src (x : CopySlot) (o : Nat) : Option Word :=
  match CpOp.ofCode x.member with
  | .fill => none
  | .gather => some (x.b.cursor + BitVec.ofNat 64 (gatherAt x.list o))
  | op => some (BitVec.ofInt 64 (x.b.cursor.toNat + op.at_ x.shape.bits false o))

/-- Destination address of a position. -/
def CopySlot.dst (x : CopySlot) (o : Nat) : Word :=
  BitVec.ofInt 64 (x.a.cursor.toNat + (CpOp.ofCode x.member).at_ x.shape.bits true o)

/-- Addresses in runs that follow one another within a line: the first address and the number of bytes. -/
def runsOf : List Word → List (Word × Nat)
  | [] => []
  | a :: r =>
    match runsOf r with
    | (b, n) :: rest => if b = a + 1 ∧ b.toNat % 64 ≠ 0 then (a, n + 1) :: rest else (a, 1) :: (b, n) :: rest
    | [] => [(a, 1)]

/-- Reads runs of bytes. -/
def State.readRuns (s : State) (p : Party) (host : Bool) : List (Word × Nat) → List Byte → State × Acc (List Byte)
  | [], acc => (s, .ok acc)
  | (a, n) :: r, acc =>
    match s.engRead1 p a n host with
    | (s, .ok (bs, _)) => s.readRuns p host r (acc ++ bs)
    | (s, .fault c) => (s, .fault c)
    | (s, .hold) => (s, .hold)

/-- The source bytes of positions; a fill's are those of its pattern. -/
def State.chunkRead (s : State) (x : CopySlot) (os : List Nat) : State × Acc (List Byte) :=
  match CpOp.ofCode x.member with
  | .fill => (s, .ok (os.map (fun o => x.b.bits.extractLsb' (8 * ((x.dst o).toNat % 16)) 8)))
  | _ => s.readRuns x.cmd.mover x.b.hostBit (runsOf (os.filterMap x.src)) []

/-- One position of a chunk takes effect: where its source byte is one that the chunk has written, either value is read; where
its destination is, either stays (10 R290). `new`: the bytes by address. -/
def State.land (s : State) (new : Table Byte) (src : Option Word) (dst : Word) (b : Byte) : State × Table Byte :=
  let (s, v) := match src.bind (fun a => tget new a.toNat) with
    | some w => let (s, y) := s.choose; (s, if y then w else b)
    | none => (s, b)
  match tget new dst.toNat with
  | some _ => let (s, y) := s.choose; (s, if y then tput new dst.toNat v else new)
  | none => (s, tput new dst.toNat v)

/-- The bytes that a chunk leaves, by address: positions that meet take effect in rising or falling order (log 126, DESIGN
CHOICE). -/
def State.chunkBytes (s : State) (x : CopySlot) (l : List (Nat × Byte)) : State × Table Byte :=
  let dsts := l.map (fun (o, _) => x.dst o)
  let meets := dsts.eraseDups.length ≠ dsts.length ∨ l.any (fun (o, _) => (x.src o).any dsts.contains)
  let (s, up) := if meets then s.choose else (s, true)
  (if up then l else l.reverse).foldl (fun (s, new) (o, b) => s.land new (x.src o) (x.dst o) b) (s, [])

/-- A line written with a hint keeps it at its slice (10 R290, 08 R249). -/
def State.noteHint (s : State) (part : Nat) (a : Word) (h : Hint) : State :=
  if h = .none ∨ isWindow a then s else s.useData (s.homeOfLine part (a.toNat / 64)) part (a.toNat / 64) h

/-- Bytes by address in runs that follow one another within a line. -/
def byteRuns : Table Byte → List (Word × List Byte)
  | [] => []
  | (a, b) :: r =>
    match byteRuns r with
    | (a', bs) :: rest =>
      if a'.toNat = a + 1 ∧ a'.toNat % 64 ≠ 0 then (BitVec.ofNat 64 a, b :: bs) :: rest else (BitVec.ofNat 64 a, [b]) :: (a', bs) :: rest
    | [] => [(BitVec.ofNat 64 a, [b])]

/-- Writes a transfer's runs of bytes. -/
def State.writeRuns (s : State) (x : CopySlot) : List (Word × List Byte) → State × Acc Unit
  | [] => (s, .ok ())
  | (a, bs) :: r =>
    match s.engWrite1 x.cmd.mover a bs false x.a.hostBit x.a.unv false with
    | (s, .ok ()) => (s.noteHint x.cmd.part a x.hint).writeRuns x r
    | (s, .fault c) => (s, .fault c)
    | (s, .hold) => (s, .hold)

/-- The destination bytes of positions. -/
def State.chunkWrite (s : State) (x : CopySlot) (l : List (Nat × Byte)) : State × Acc Unit :=
  let r := s.chunkBytes x l
  r.1.writeRuns x (byteRuns r.2)

/-- The lowest chunk from `k` on that is not in the list. -/
def firstGap (done : List Nat) : Nat → Nat → Nat
  | 0, k => k
  | fuel + 1, k => if done.contains k then firstGap done fuel (k + 1) else k

/-- The lowest chunk not performed; the resume offset is 64 times it (10 R291). -/
def CopySlot.gap (x : CopySlot) : Nat := firstGap x.done x.done.length x.first

/-- The total is known: a gather's once its list is read. -/
def CopySlot.totalNow (x : CopySlot) : Option Nat :=
  if x.member = 3 then (if listCount x.shape ≤ x.list.length then some (listSum x.list) else none) else some x.total

/-- The transfer has a chunk `k`, as far as is known. -/
def CopySlot.has (x : CopySlot) (k : Nat) : Bool :=
  match x.totalNow with
  | some n => decide (64 * k < n)
  | none => true

/-- Every chunk is performed. -/
def CopySlot.allDone (x : CopySlot) : Bool :=
  match x.totalNow with
  | some n => decide (n ≤ 64 * x.gap)
  | none => false

/-- The next chunk may be started (10 R290, R291, R296). -/
def CopySlot.mayStart (x : CopySlot) : Bool :=
  x.state == .inFlight && !x.stop && x.fault.isNone && x.has x.started && decide (x.started < x.gap + 8)

/-- Chunk `k` is in flight: it has been started and has neither been performed nor faulted. -/
def CopySlot.mayDo (x : CopySlot) (k : Nat) : Bool :=
  x.state == .inFlight && decide (x.first ≤ k) && decide (k < x.started) && !x.done.contains k && !x.bad.contains k && x.has k

/-- No chunk is in flight. -/
def CopySlot.settled (x : CopySlot) : Bool := (List.range' x.first (x.started - x.first)).all (fun k => !x.mayDo k)

/-- Chunk `k` is performed. -/
def CopySlot.performed (x : CopySlot) (k : Nat) : CopySlot :=
  let y := { x with done := sinsert x.done k }
  { y with first := y.gap, done := y.done.filter (fun j => decide (y.gap < j)) }

/-- Chunk `k` has faulted; the lowest one's cause counts (10 R291). -/
def CopySlot.faulted (x : CopySlot) (k : Nat) (c : Byte) : CopySlot :=
  { x with bad := sinsert x.bad k
           fault := match x.fault with
             | some (j, d) => if j ≤ k then some (j, d) else some (k, c)
             | none => some (k, c) }

def State.setSlot (s : State) (core n : Nat) (x : CopySlot) : State :=
  let k := s.core core
  s.setCore core { k with slots := tput k.slots n x }

/-- One chunk of a core is started: of the first slot, in rising order from the slot after the last one served, that can start
one (10 R290). -/
def Core.startChunk (k : Core) : Core :=
  let order := (k.slots.filter (fun (n, _) => decide (k.lastCopy < n))) ++ k.slots.filter (fun (n, _) => decide (n ≤ k.lastCopy))
  match order.find? (fun (_, x) => x.mayStart) with
  | some (n, x) => { k with slots := tput k.slots n { x with started := x.started + 1 }, lastCopy := n }
  | none => k

/-- The chunks a core starts in some cycles; 128 slots have at most 1,024 in flight. -/
def Core.startChunks (k : Core) : Nat → Core
  | 0 => k
  | n + 1 => if k.slots.any (fun (_, x) => x.mayStart) then k.startChunk.startChunks n else k

/-- Every core's copy engine starts one chunk a cycle; a quarantined core's none. -/
def State.startCopies (s : State) (cycles : Nat) : State :=
  s.cores.foldl (fun s (c, k) =>
    if k.quarantined = false ∧ k.slots.any (fun (_, x) => x.mayStart) then s.setCore c (k.startChunks (min cycles 1024)) else s) s

/-- COPY_CHUNK_DONE (10 R290): one chunk is read and written, or faults. Of a chunk that faults in writing, what was
written stays (log 63, DEDUCED). -/
def execCopyChunkDone (core slot chunk : Nat) (s : State) : Host.Outcome State Fault Refusal :=
  match tget (s.core core).slots slot with
  | none => .next s
  | some x =>
    if x.mayDo chunk = false ∨ (s.core core).quarantined then .next s
    else
      match if x.member = 3 then s.readList x (64 * chunk + 64) 65536 x.list else (s, .ok []) with
      | (s', .fault c) => .next (s'.setSlot core slot (x.faulted chunk c))
      | (s', .hold) => .next (s.keepWaiting s')
      | (s', .ok l) =>
        let x := { x with list := l }
        let n := Nat.min 64 ((x.totalNow.getD (listSum l)) - 64 * chunk)
        let os := (List.range n).map (· + 64 * chunk)
        match s'.chunkRead x os with
        | (s', .fault c) => .next (s'.setSlot core slot (x.faulted chunk c))
        | (s', .hold) => .next (s.keepWaiting s')
        | (s', .ok bs) =>
          match s'.chunkWrite x (os.zip bs) with
          | (s', .fault c) => .next (s'.setSlot core slot (x.faulted chunk c))
          | (s', .hold) => .next (s.keepWaiting s')
          | (s', .ok ()) => .next (s'.setSlot core slot (if n = 0 then x else x.performed chunk))

/-- The status of a transfer that ended with code 0x01 or 0x02 (10 R291). -/
def copyStatus (slot resume : Nat) (cause : Byte) (code : Nat) : Word :=
  BitVec.ofNat 64 (slot * 2 ^ 57 + resume * 2 ^ 16 + cause.toNat * 256 + code)

def State.freeSlot (s : State) (core n : Nat) : State :=
  let k := s.core core
  s.setCore core { k with slots := tdel k.slots n }

/-- A transfer with nothing in flight ends as its run stands: done, or held at its fault; under a refuted ID with code 0x02 (10
R298). While its cell cannot be written it stays in flight. -/
def State.endCopy (s : State) (core slot : Nat) (x : CopySlot) : State :=
  if s.refuted x.cmd.part x.cmd.hid then
    (match s.completing x.cmd (copyStatus slot (64 * x.gap) 0 2) with
     | (s, true) => s.freeSlot core slot
     | (s, false) => s)
  else if x.settled = false then s
  else match x.fault with
    | some (_, c) =>
      (match s.completing x.cmd (copyStatus slot (64 * x.gap) c 1) with
       | (s, true) => s.setSlot core slot { x with state := .held }
       | (s, false) => s)
    | none =>
      if x.allDone then
        (match s.completing x.cmd 0 with
         | (s, true) => s.freeSlot core slot
         | (s, false) => s)
      else s

/-- COPY_TRANSFER_END (10 R291). A command that waits for a slot may then take it (COPY_SLOT_TAKE, 10 R285). -/
def execCopyTransferEnd (core slot : Nat) (s : State) : Host.Outcome State Fault Refusal :=
  match tget (s.core core).slots slot with
  | some x => if x.state = .inFlight ∧ (s.core core).quarantined = false then .next (s.endCopy core slot x) else .next s
  | none => .next s

/-! ## `cp.stat`, `cp.resume`, `cp.cancel` (10 R293 to R296) -/

/-- A mask with bit i set for each number in the list. -/
def maskOf (l : List Nat) : Nat := l.foldl (fun m i => m + 2 ^ i) 0

/-- The effect of `cp.stat` (10 R294). -/
def State.cpStatEff (a c : RegNo) (x : Cx) (s : State) (t : Thread) : Eff :=
  let ra := t.reg a
  let cmd := (t.cmd s.cur x (t.reg c)).inCopies
  let slots := (s.core (coreOf s.cur)).slots
  let mine := slots.filter (fun (_, v) => v.cmd.tid = s.cur)
  let held := mine.filter (fun (_, v) => v.state = .held)
  let bs := leBytes 16 (maskOf (mine.map Prod.fst)) ++ leBytes 16 (maskOf (held.map Prod.fst)) ++ leBytes 8 slots.length ++ zeroBytes 24
  match s.engWrite cmd.mover ra.cursor bs ra.hostBit ra.unv false with
  | (s', .ok ()) => .retire (s'.complete cmd 0)
  | (s', .fault e) => .retire (s'.complete cmd (faultStatus e 0))
  | (s', .hold) => s.pends s' cmd

/-- A copy command that is applied in its thread's order (10 R293). -/
def State.copyLane (s : State) (i : Instr) (x : Cx) (c : RegNo) (more : Thread → List (Option Trap)) (f : State → Thread → Eff) :
    Host.Outcome State Fault Refusal :=
  s.command i x (fun t => [checkCell (t.reg c), cellWindowUnv t.hid (t.reg c)] ++ more t)
    (fun t => s.inLane (t.cmd s.cur x (t.reg c)).inCopies (fun _ => f s t))

/-- `cp.stat` (10 R294). -/
def execCpStat (a c : RegNo) (x : Cx) (s : State) : Host.Outcome State Fault Refusal :=
  s.copyLane (.cpStat a c x) x c
    (fun t => let ra := t.reg a
      [opCap ra (permST ||| permENG) 64, opAlign ra 64, opPlace ra 64])
    (State.cpStatEff a c x)

/-- The issuer's slots that a mask names. -/
def State.namedSlots (s : State) (mask : Quad) : List (Nat × CopySlot) :=
  (s.core (coreOf s.cur)).slots.filter (fun (n, v) => mask.getLsbD n && decide (v.cmd.tid = s.cur))

/-- A held transfer goes in flight again at its resume offset. -/
def CopySlot.resumed (x : CopySlot) : CopySlot :=
  { x with state := .inFlight, first := x.gap, started := x.gap, done := [], bad := [], fault := none, stop := false }

/-- The effect of `cp.resume` (10 R295). -/
def State.cpResumeEff (b c : RegNo) (x : Cx) (s : State) (t : Thread) : Eff :=
  let me := coreOf s.cur
  let (s', n) := (s.namedSlots (t.reg b).bits).foldl (fun (s, n) (i, v) =>
    if v.state ≠ .held then (s, n)
    else if s.refuted v.cmd.part v.cmd.hid then (s.freeSlot me i, n)
    else (s.setSlot me i v.resumed, n + 1)) (s, 0)
  .retire (s'.complete (t.cmd s.cur x (t.reg c)).inCopies (statusWord 0 0 n))

/-- `cp.resume` (10 R295). -/
def execCpResume (b c : RegNo) (x : Cx) (s : State) : Host.Outcome State Fault Refusal :=
  s.copyLane (.cpResume b c x) x c (fun _ => []) (State.cpResumeEff b c x)

/-- A cancelled transfer ends once nothing of it is in flight and its cell can be written: with 0x00 if every chunk is
performed, otherwise with 0x02; one that met a fault meanwhile has exactly one of two outcomes (10 R296, R298) (log 127, DEDUCED,
DEDUCED). The second answer says whether the slot was freed, the third whether the cancel counts it. -/
def State.cancelSlot (s : State) (core n : Nat) (v : CopySlot) : State × Bool × Bool :=
  if v.state = .held then (s.freeSlot core n, true, true)
  else if v.settled = false then (s, false, false)
  else
    let (s, st, counts) := match v.fault with
      | some (_, c) =>
        let (s, y) := s.choose
        (s, if y then copyStatus n (64 * v.gap) c 1 else copyStatus n (64 * v.gap) 0 2, true)
      | none => if v.allDone then (s, 0, false) else (s, copyStatus n (64 * v.gap) 0 2, true)
    match s.completing v.cmd st with
    | (s, true) => (s.freeSlot core n, true, counts)
    | (s, false) => (s, false, false)

/-- A cancel tries each slot it still waits for; the second answer is whether one remains. -/
def State.cancelAll (s : State) (me tid : Nat) : State × Bool :=
  ((s.core me).slots.filter (fun (_, v) => decide (v.cmd.tid = tid) && v.stop)).foldl (fun (s, rest) (i, v) =>
    match s.cancelSlot me i v with
    | (s, freed, counts) =>
      let k := s.core me
      (if counts then s.setCore me { k with freed := tput k.freed tid (((tget k.freed tid).getD 0) + 1) } else s, rest || !freed)) (s, false)

/-- The effect of `cp.cancel` (10 R296): when it is first applied the slots it names stop; it completes when all have ended. -/
def State.cpCancelEff (b c : RegNo) (x : Cx) (s : State) (t : Thread) : Eff :=
  let me := coreOf s.cur
  let cmd := (t.cmd s.cur x (t.reg c)).inCopies
  let s := if (tget (s.core me).freed s.cur).isSome then s
    else
      let s' := (s.namedSlots (t.reg b).bits).foldl (fun s (i, v) => s.setSlot me i { v with stop := true }) s
      s'.setCore me { s'.core me with freed := tput (s'.core me).freed s.cur 0 }
  match s.cancelAll me s.cur with
  | (s, true) => .pend s cmd
  | (s, false) =>
    let k := s.core me
    .retire ((s.setCore me { k with freed := tdel k.freed s.cur }).complete cmd (statusWord 0 0 ((tget k.freed s.cur).getD 0)))

/-- `cp.cancel` (10 R296). -/
def execCpCancel (b c : RegNo) (x : Cx) (s : State) : Host.Outcome State Fault Refusal :=
  s.copyLane (.cpCancel b c x) x c (fun _ => []) (State.cpCancelEff b c x)

/-- Transfers under refuted IDs end with code 0x02, held ones are freed (10 R298, 15 R412); a quarantined core's never complete
(01 R40). One whose cell cannot be written yet stays. -/
def State.refuteCopies (s : State) (part : Nat) : State :=
  s.cores.foldl (fun s (c, k) =>
    if k.quarantined then s else
    k.slots.foldl (fun s (n, v) =>
      if v.cmd.part = part ∧ s.refuted part v.cmd.hid then
        (if v.state = .held then s.freeSlot c n
         else match s.completing v.cmd (copyStatus n (64 * v.gap) 0 2) with
           | (s, true) => s.freeSlot c n
           | (s, false) => s)
      else s) s) s

/-- A `cp.cancel` of the thread in progress is given up: what it has stopped goes on. -/
def State.endCancel (s : State) (tid : Nat) : State :=
  let k := s.core (coreOf tid)
  s.setCore (coreOf tid) { k with freed := tdel k.freed tid
                                  slots := k.slots.map (fun (n, v) => (n, if v.cmd.tid = tid then { v with stop := false } else v)) }

/-- A thread's held slots are freed when it exits (10 R284). -/
def State.freeHeldSlots (s : State) (tid : Nat) : State :=
  let s := s.endCancel tid
  let k := s.core (coreOf tid)
  s.setCore (coreOf tid) { k with slots := k.slots.filter (fun (_, v) => !(v.cmd.tid = tid ∧ v.state = .held)) }

end Sys2Proof.Machine
end

