-- ==== Sys2Proof/Machine/Message.lean ====
section
/-!
DEFINITION. Sys2Proof/Machine/Message.lean: the message engine (11): receive ports, sends, deliveries, and what the vector
engine takes from a stream (11 R310, 12 R328).
-/
namespace Sys2Proof.Machine

/-! ## The ring of a port (11 R303, R304) -/

def Port.bytes (p : Port) : Nat := 2 ^ (p.size + 8)

/-- Bytes of a core's TCM at an offset. -/
def State.tcmBytes (s : State) (core off n : Nat) : List Byte := s.bytesAt (flatTcm core off) n

/-- A write of a core's TCM by its message or vector engine: tags clear, watches fire (07 R191, R208). -/
def State.tcmWrite (s : State) (core off : Nat) (bs : List Byte) : State :=
  s.writeLocal (.core core off) ((List.range bs.length).map (fun i => flatTcm core off + i)) bs false

/-- The consumed word as the engine takes it: a value that no consumer may write is taken as head less the ring's size
(11 R303), or the ring's first byte where that is below zero. -/
def State.consumed (s : State) (core : Nat) (p : Port) : Nat :=
  let c := leNat (s.tcmBytes core (p.ctl + 0x10) 8)
  if p.head ≤ c + p.bytes ∧ c ≤ p.head then c else p.head - p.bytes

/-- Free bytes of the ring: none where the consumed word is a value that no consumer may write (11 R303). -/
def State.ringRoom (s : State) (core : Nat) (p : Port) : Nat :=
  let c := leNat (s.tcmBytes core (p.ctl + 0x10) 8)
  if p.head ≤ c + p.bytes ∧ c ≤ p.head then p.bytes - (p.head - c) else 0

/-- A record header (11 R304). -/
def recordHeader (word : Word) (chip tid : Nat) (eos pad : Bool) (len : Nat) : Quad :=
  BitVec.ofNat 128 (word.toNat * 2 ^ 64 + chip % 512 * 2 ^ 55 + tid % 2 ^ 28 * 2 ^ 27 + (if eos then 2 ^ 14 else 0)
    + (if pad then 2 ^ 13 else 0) + len % 2 ^ 13)

/-- Bytes of a record with its header and fill. -/
def recordBytes (len : Nat) : Nat := 16 + (len + 15) / 16 * 16

def State.setPort (s : State) (core n : Nat) (p : Port) : State :=
  let k := s.core core
  s.setCore core { k with ports := tput k.ports n p }


/-- An operation that reads one of these stream entries gets no more bytes of them: they are unbound, or bound anew (12 R328). -/
def VmuEntry.cutFrom (e : VmuEntry) (gone : Nat → Bool) : VmuEntry :=
  match e.op with
  | .vec j => if j.sb.any gone || j.sc.any gone then { e with short := true } else e
  | _ => e

/-- Started operations, and the one at the head of the queue, that wait on stream entries whose binding goes (12 R328). -/
def Core.cutStreamOps (k : Core) (gone : Nat → Bool) : Core :=
  { k with started := k.started.map (fun e => e.cutFrom gone)
           vq := match k.vq with | e :: r => e.cutFrom gone :: r | [] => [] }

/-- A thread's bindings are released (11 R300). -/
def State.unbindPorts (s : State) (tid : Nat) : State :=
  let k := s.core (coreOf tid)
  let gone (entry : Nat) : Bool := k.ports.any (fun (_, p) => decide (p.cmd.tid = tid ∧ p.entry = entry) && p.stream)
  s.setCore (coreOf tid) { k.cutStreamOps gone with ports := k.ports.filter (fun (_, p) => p.cmd.tid ≠ tid) }

/-- The binding of a port is released. -/
def State.dropPort (s : State) (core n : Nat) : State :=
  let k := s.core core
  let gone (entry : Nat) : Bool := match tget k.ports n with | some p => p.stream && decide (p.entry = entry) | none => false
  s.setCore core { k.cutStreamOps gone with ports := tdel k.ports n }

/-! ## `rcv.bind` (11 R301, R302) -/

def bindPort (d : Quad) : Nat := fld d 0 4
def bindSize (d : Quad) : Nat := fld d 4 4
def bindEntry (d : Quad) : Nat := fld d 8 4
def bindKind (d : Quad) : Nat := fld d 12 2
def bindFilter (d : Quad) : Nat := fld d 14 2

/-- Reserved values of the descriptor; the registers a kind does not use are c0. -/
def bindReserved (d : Quad) (a b : RegNo) : Bool :=
  decide (fld d 16 112 ≠ 0) || decide (2 ≤ bindFilter d) || decide (9 ≤ bindSize d) || decide (bindKind d = 3)
    || (decide (bindKind d ≠ 2) && (decide (bindEntry d ≠ 0) || decide (b ≠ 0)))
    || (decide (bindKind d = 0) && (decide (fld d 4 12 ≠ 0) || decide (a ≠ 0)))

/-- Offset of a span in the TCM of the issuer's own core below its warm-context area, if it lies there. -/
def State.ownTcm (s : State) (me : Nat) (a : Word) (n : Nat) : Option Nat :=
  match placeOf s.bridge.chip me a with
  | .core c off => if c = me ∧ off + n ≤ (s.core me).tcmPlain then some off else none
  | _ => none

/-- `issue_rcv_bind` (11 R302). -/
def State.bindChecks (s : State) (t : Thread) (me : Nat) (d a b c : RegNo) : List (Option Trap) :=
  let q := (t.reg d).bits
  let ra := t.reg a
  let n := 64 + 2 ^ (bindSize q + 8)
  [checkCell (t.reg c), reservedIf (bindReserved q a b)]
  ++ (if bindKind q = 0 then []
      else [opCap ra (permLD ||| permST ||| permENG) n, opAlign ra 64, spanPlace ra (0, n), reservedIf (s.ownTcm me ra.cursor n).isNone])
  ++ [if bindKind q = 2 then checkCell (t.reg b) else none,
      if bindKind q = 0 then cellUnv t.hid (t.reg c) else opUnv t.hid ra]

/-- A stream begun and not ended is cut: its end cell is written with code 0x02. A stream has begun once a record of it stands in
the ring (log 103, DEDUCED). -/
def State.cutStream (s : State) (core : Nat) (p : Port) : State :=
  if p.stream ∧ (p.begun ∨ s.consumed core p < p.head) then s.complete p.cmd (statusWord 2 0 p.streamBytes) else s

/-- `apply_rcv_bind` (11 R302). A binding is not versioned. -/
def State.applyBind (s : State) (cmd : Cmd) (d : Quad) (a b : Reg) : State :=
  let me := cmd.core
  let n := bindPort d
  let old := tget (s.core me).ports n
  if (match old with | some p => decide (p.cmd.tid ≠ cmd.tid) | none => false) then s.complete cmd 0x82
  else
    let s := match old with | some p => s.cutStream me p | none => s
    if bindKind d = 2 ∧ (s.core me).ports.any (fun (i, p) => decide (i ≠ n) && p.stream && decide (p.entry = bindEntry d)) then
      s.complete cmd 0x82
    else
      let s := s.dropPort me n
      let s := if bindKind d = 0 then s else
        match s.ownTcm me a.cursor 64 with
        | some off =>
          (s.tcmWrite me off (zeroBytes 64)).setPort me n
            { cmd := { cmd with cell := if bindKind d = 2 then some (cellRef b) else none }, stream := decide (bindKind d = 2)
              filter := decide (bindFilter d = 1), entry := bindEntry d, size := bindSize d, ctl := off, head := 0, count := 0
              refused := 0, begun := false, streamBytes := 0, part_ := 0 }
        | none => s
      s.complete cmd 0

/-- `rcv.bind`, binding or unbinding. -/
def State.rcv (s : State) (i : Instr) (d a b c : RegNo) (x : Cx) : Host.Outcome State Fault Refusal :=
  s.command i x (fun t => s.bindChecks t (coreOf s.cur) d a b c)
    (fun t => .retire (s.applyBind (t.cmd s.cur x (t.reg c)) (t.reg d).bits (t.reg a) (t.reg b)))

def execRcvBind (d a b c : RegNo) (x : Cx) (s : State) : Host.Outcome State Fault Refusal := s.rcv (.rcvBind d a b c x) d a b c x
def execRcvBindUnbind (d a b c : RegNo) (x : Cx) (s : State) : Host.Outcome State Fault Refusal := s.rcv (.rcvBindUnbind d a b c x) d a b c x

/-! ## `snd` (11 R305 to R307) -/

def sndLen (d : Quad) : Nat := fld d 0 13
def sndPort (d : Quad) : Nat := fld d 13 4
def sndCore (d : Quad) : Nat := fld d 17 20
def sndChip (d : Quad) : Nat := fld d 37 9
def sndWait (d : Quad) : Bool := d.getLsbD 46
def sndEos (d : Quad) : Bool := d.getLsbD 47
def sndWord (d : Quad) : Word := d.extractLsb' 64 64

/-- `issue_snd` (11 R306), with the agent-register rule of 05 R166. -/
def sndChecks (t : Thread) (d a c : RegNo) : List (Option Trap) :=
  let q := (t.reg d).bits
  let ra := t.reg a
  let n := sndLen q
  let last := ra.cursor + BitVec.ofNat 64 (n - 1)
  [checkCell (t.reg c), reservedIf (decide (fld q 48 16 ≠ 0) || decide (n = 0) || decide (4096 < n)),
   need (decide (sndChip q ≤ 287) || decide (sndChip q = 0x1FF)) (plainTrap 0x16),
   opCap ra (permLD ||| permENG) n, need (canonical ra.cursor) (opTrap 0x16 ra.cursor), need (canonical last) (opTrap 0x16 last),
   need (!otherSpace ra.cursor last) (opTrap 0x16 last), need (!touchesAgent ra.cursor n) (opTrap 0x28 ra.cursor), opUnv t.hid ra]

/-- The target core of a descriptor, for a sender on core `me`. -/
def sndTarget (me : Nat) (d : Quad) : Nat := if sndChip d = 0x1FF ∧ sndCore d = 0xFFFFF then me else sndCore d

/-- `snd` (11 R305): a free slot is taken, in turn, or the thread waits in line for one (R307). -/
def execSnd (d a c : RegNo) (x : Cx) (s : State) : Host.Outcome State Fault Refusal :=
  s.command (.snd d a c x) x (fun t => sndChecks t d a c)
    (fun t =>
      let me := coreOf s.cur
      let k := s.core me
      let q := (t.reg d).bits
      if k.sends.length < 32 ∧ k.waitingSends.headD s.cur = s.cur then
        .retire (s.setCore me { k with
          sends := k.sends ++ [{ cmd := t.cmd s.cur x (t.reg c), d := q, a := t.reg a, chip := sndChip q, core := sndTarget me q
                                 port := sndPort q, len := sndLen q, retryAt := 0, order := k.sendOrder, payload := none, ended := none }]
          sendOrder := k.sendOrder + 1, waitingSends := k.waitingSends.filter (· ≠ s.cur) })
      else if k.waitingSends.contains s.cur then .stall
      else .queued (s.setCore me { k with waitingSends := k.waitingSends ++ [s.cur] }))

/-! ## Deliveries (11 R308) -/

/-- A message at its target: the sender's module, thread and load, whether its partition (or domain tag) is the binder's,
and the message itself. -/
structure Message where
  chip : Nat
  tid : Nat
  load : Option Nat
  samePart : Nat → Bool
  port : Nat
  word : Word
  payload : List Byte
  eos : Bool
  wait : Bool

/-- What a delivery comes to: a status for the sender's cell; a wait of 256 cycles; nothing yet, while another thread's
reservation holds the ring (07 R202). -/
inductive Delivered where
  | status (w : Word)
  | later
  | notYet

/-- A load's state is held (06 R183). -/
def State.loadHeld (s : State) (load : Nat) : Bool :=
  match tget s.loads load with | some l => l.state == .held | none => false

/-- `deliver` (11 R308): one action at the port (log 65, DEDUCED). -/
def State.deliverMsg (s : State) (core : Nat) (m : Message) : State × Delivered :=
  let k := s.core core
  if k.quarantined then (s, .status (faultStatus 0x39 0))
  else match tget k.ports m.port with
  | none => (s, .status 0x80)
  | some p =>
    if m.samePart p.cmd.part = false ∨ (p.filter = true ∧ m.load ≠ some p.cmd.load) then (s, .status 0x84)
    else
      let r := p.bytes
      let size := recordBytes m.payload.length
      if r < size then (s, .status 0x85)
      else if p.stream ∧ s.loadHeld p.cmd.load then (s, if m.wait then .later else .status 0x83)
      else if (s.core core).tcmPlain < p.ctl + 64 + r then (s, .status (faultStatus 0x10 0))
      else
        let off := p.head % r
        let pad := if r < off + size then r - off else 0
        let base := flatTcm core (p.ctl + 64)
        let line := flatTcm core p.ctl
        let spans := [(line, 32), (base + off, pad), (base + (p.head + pad) % r, size)]
        if s.heldByOther none (fun v => spans.any (fun (a, n) => resvOnFlat a n v)) then (s, .notYet)
        else if s.ringRoom core p < pad + size then
          if m.wait then (s, .later)
          else
            let p := { p with refused := p.refused + 1 }
            ((s.setPort core m.port p).tcmWrite core (p.ctl + 0x18) (leBytes 8 p.refused), .status 0x81)
        else
          let s := if pad = 0 then s else s.tcmWrite core (p.ctl + 64 + off) (quadBytes (recordHeader 0 0 0 false true 0))
          let at_ := p.ctl + 64 + (p.head + pad) % r
          let s := s.tcmWrite core (at_ + 16) (m.payload ++ zeroBytes (size - 16 - m.payload.length))
          let s := s.tcmWrite core at_ (quadBytes (recordHeader m.word m.chip m.tid m.eos false m.payload.length))
          let pos := p.head + pad
          let p := { p with head := pos + size, count := p.count + 1 }
          let s := s.setPort core m.port p
          let s := s.tcmWrite core (p.ctl + 0x18) (leBytes 8 p.refused)
          let s := s.tcmWrite core p.ctl (leBytes 8 p.head ++ leBytes 8 p.count)
          (s, .status (statusWord 0 0 (pos % 2 ^ 48)))

/-- An earlier send of the same core to the same port has not been delivered (11 R313); `own` is this module's number, which 0x1FF
names too. -/
def behindSend (own : Nat) (sends : List Send) (x : Send) : Bool :=
  let chip (z : Send) : Nat := if z.chip = 0x1FF then own else z.chip
  sends.any (fun y => chip y = chip x ∧ y.core = x.core ∧ y.port = x.port ∧ y.order < x.order ∧ y.ended = none)

/-- A send slot as it now stands. -/
def State.setSend (s : State) (core : Nat) (x : Send) : State :=
  let k := s.core core
  s.setCore core { k with sends := k.sends.map (fun y => if y.order = x.order then x else y) }

/-- The send ends with a status: it leaves its slot once its cell is written (11 R307). -/
def State.endSend (s : State) (core : Nat) (x : Send) (status : Word) : State :=
  match s.completing x.cmd status with
  | (s, true) =>
    let k := s.core core
    s.setCore core { k with sends := k.sends.filter (fun y => y.order ≠ x.order) }
  | (s, false) => s.setSend core { x with ended := some status }

/-- The message of a send is carried to its target. One to another module ends with the status that module answers with, which
is outside this one: a free value (18 R460). -/
def State.carrySend (s : State) (core : Nat) (x : Send) (bs : List Byte) : State :=
  if x.chip ≠ 0x1FF ∧ x.chip ≠ s.bridge.chip then
    if s.reachable x.chip then
      (({ s with free := s.free + 1 }).emit (.toPeer x.chip (BitVec.ofNat 64 x.core) x.len)).endSend core x (Config.peerStatus s.free)
    else s.endSend core x (faultStatus 0x10 0)
  else
    match s.deliverMsg x.core { chip := s.bridge.chip, tid := x.cmd.tid, load := some x.cmd.load
                                samePart := fun p => decide (p = x.cmd.part), port := x.port, word := sndWord x.d, payload := bs
                                eos := sndEos x.d, wait := sndWait x.d } with
    | (s', .status w) => s'.endSend core x w
    | (_, .notYet) => s.setSend core { x with payload := some bs }
    | (_, .later) => s.setSend core { x with payload := some bs, retryAt := s.cycle + 256 }

/-- A send goes on: its source is read once, then its message is delivered, then its cell is written (11 R308). -/
def State.attemptSend (s : State) (core : Nat) (x : Send) : State :=
  if s.refuted x.cmd.part x.cmd.hid then s.endSend core x 2
  else match x.ended, x.payload with
  | some w, _ => s.endSend core x w
  | none, some bs => s.carrySend core x bs
  | none, none =>
    match s.engRead x.cmd.mover x.a.cursor x.len x.a.hostBit with
    | (s', .fault c) => s'.endSend core x (faultStatus c 0)
    | (s', .hold) => s.keepWaiting s'
    | (s', .ok bs) => s'.carrySend core x bs

/-- The `i`-th send of a core, when it may go on now; `again` is a retry. One that only waits for its cell goes on at either. -/
def State.sendReady (s : State) (core i : Nat) (again : Bool) : Option Send :=
  let k := s.core core
  match k.sends[i]? with
  | some x =>
    if k.quarantined then none
    else if x.ended.isSome then some x
    else if behindSend s.bridge.chip k.sends x ∨ (again = decide (x.retryAt = 0)) ∨ s.cycle < x.retryAt then none else some x
  | none => none

/-- The domain tag of a partition. -/
def State.domTagOf (s : State) (part : Nat) : Option Nat := (tget s.parts part).map Partition.domTag

/-- MESSAGE_DELIVERY (11 R308): the first attempt of a send, or a message of another module's thread, whose partition is
compared by domain tag (18 R461). -/
def execMessageDelivery (m : MsgSrc) (s : State) : Host.Outcome State Fault Refusal :=
  match m with
  | .slot core i =>
    (match s.sendReady core i false with
     | some x => .next (s.attemptSend core x)
     | none => .next s)
  | .peer chip tag tid core port word payload eos wait =>
    let answer (s : State) (w : Word) : State := s.emit (.peerReply chip.toNat 0 (w.setWidth 128) false 0)
    if s.steward.power ≠ .aster ∨ payload = [] ∨ 4096 < payload.length then .next s
    else if (s.core core).quarantined = false ∧ s.domainRefused core tag then .next (answer s 0x84)
    else
      match s.deliverMsg core { chip := chip.toNat, tid := tid.toNat, load := none
                                samePart := fun p => decide (s.domTagOf p = some tag.toNat), port := port, word := word, payload := payload
                                eos := eos, wait := wait } with
      | (s', .status w) => .next (answer s' w)
      | _ => .next s

/-- MESSAGE_RETRY (11 R308): a waiting send is tried again after 256 cycles. -/
def execMessageRetry (core i : Nat) (s : State) : Host.Outcome State Fault Refusal :=
  match s.sendReady core i true with
  | some x => .next (s.attemptSend core x)
  | none => .next s

/-! ## Streams, as the vector engine takes them (11 R310, 12 R328) -/

/-- The port a stream-table entry is bound to. -/
def Core.streamPort (k : Core) (entry : Nat) : Option (Nat × Port) := k.ports.find? (fun (_, p) => p.stream && decide (p.entry = entry))

/-- What walking a stream gives: the bytes, the new consumed word and place in the record, payload bytes of the stream so
far, and whether the eos record was used up. -/
structure Taken where
  bytes : List Byte
  consumed : Nat
  inRec : Nat
  count : Nat
  ended : Bool
  deriving DecidableEq, Repr

/-- Takes up to `n` payload bytes, record by record; it stops where the records written so far end, and after an eos
record. -/
def State.walkStream (s : State) (core : Nat) (p : Port) : Nat → Nat → Taken → Taken
  | 0, _, w => w
  | fuel + 1, n, w =>
    if p.head ≤ w.consumed ∨ w.ended then w
    else
      let off := w.consumed % p.bytes
      let h := leNat (s.tcmBytes core (p.ctl + 64 + off) 16)
      let len := h % 2 ^ 13
      if h / 2 ^ 13 % 2 = 1 then s.walkStream core p fuel n { w with consumed := w.consumed + (p.bytes - off) }
      else
        let got := Nat.min n (len - w.inRec)
        let bs := s.tcmBytes core (p.ctl + 64 + off + 16 + w.inRec) got
        let w := { w with bytes := w.bytes ++ bs, inRec := w.inRec + got, count := w.count + got }
        if w.inRec < len then w
        else
          s.walkStream core p fuel (n - got)
            { w with consumed := w.consumed + recordBytes len, inRec := 0, ended := decide (h / 2 ^ 14 % 2 = 1) }

/-- A walk of up to `n` bytes of the entry's stream, nothing changed; none where the entry is not bound. -/
def State.peekStream (s : State) (core entry n : Nat) : Option (Nat × Port × Taken) :=
  ((s.core core).streamPort entry).map (fun (i, p) =>
    (i, p, s.walkStream core p (p.bytes / 16 + 2) n ⟨[], s.consumed core p, p.part_, p.streamBytes, false⟩))

/-- The stream holds `n` bytes, or what is left of it ends before that (log 30, DEDUCED). -/
def State.streamHas (s : State) (core entry n : Nat) : Bool :=
  match s.peekStream core entry n with
  | some (_, _, w) => decide (n ≤ w.bytes.length) || w.ended
  | none => true

/-- Takes up to `n` bytes: the consumed word is written, and an eos record used up ends the stream: the next record begins a
new one. The bytes, and the end cell's command and status once the stream has ended. -/
def State.takeStream (s : State) (core entry n : Nat) : State × List Byte × Option (Cmd × Word) :=
  match s.peekStream core entry n with
  | none => (s, [], none)
  | some (i, p, w) =>
    let p' := { p with part_ := w.inRec, begun := if w.ended then false else (p.begun || decide (w.bytes ≠ []))
                       streamBytes := if w.ended then 0 else w.count }
    let s := (s.setPort core i p').tcmWrite core (p.ctl + 0x10) (leBytes 8 w.consumed)
    (s, w.bytes, if w.ended then some (p.cmd, statusWord 0 0 w.count) else none)

end Sys2Proof.Machine
end

