-- ==== Sys2Proof/Machine/Vmu.lean ====
section
/-!
DEFINITION. Sys2Proof/Machine/Vmu.lean: the dispatch queue of a core (12 R315), the local operands of vector and matrix
operations (12 R320, R321), failure latches (12 R329) and `v.sync` (12 R330).
-/
namespace Sys2Proof.Machine

/-! ## Local operands (12 R320, R321) -/

/-- `check_local` of a span for an operation of core `me`: 0x02 outside local memory, 0x10 beyond the core's TCM. -/
def State.localCause (s : State) (me : Nat) (a : Word) (n : Nat) : Option Byte :=
  let n := max n 1
  match placeOf s.bridge.chip me a with
  | .core c off =>
    if c ≠ me ∨ agentBase ≤ off then some 0x02
    else if (s.core me).tcmBytes ≤ off then some 0x10
    else if (s.core me).tcmPlain < off + n then some 0x02
    else none
  | .clu cl off => if cl = clusterOf me ∧ off + n ≤ 2 ^ 39 then none else some 0x02
  | _ => some 0x02

/-- `check_local` as a check of an operand, after R23 check 3 and the agent-register rule of 05 R166 (01 R23) (log 102, DEDUCED). -/
def State.opLocal (s : State) (me : Nat) (c : Reg) (n : Nat) : Option Trap :=
  firstOf [opPlace c (max n 1), (s.localCause me c.cursor n).map (fun x => opTrap x c.cursor)]

/-- A read of local memory by an operation of core `me`: presence is checked where it is made; data marked poisoned is cause 0x38
(12 R329, 13 R343). A store of the issuer to its own local memory is performed as it issues, so it is read (01 R32) (log 130, DESIGN CHOICE,
DESIGN CHOICE). -/
def State.vmuRead (s : State) (me : Nat) (a : Word) (n : Nat) : Except Byte (List Byte) :=
  match s.localCause me a n with
  | some c => .error c
  | none => (s.localFlat (placeOf s.bridge.chip me a) n).bind (fun fs => if s.poisonedAt fs then .error 0x38 else .ok (s.readLocal fs).1)

/-- A write of local memory by an operation; it waits while another thread's reservation holds the unit (07 R202). -/
def State.vmuWrite (s : State) (me : Nat) (a : Word) (bs : List Byte) : State × Acc Unit :=
  match s.localCause me a bs.length with
  | some c => (s, .fault c)
  | none =>
    let p := placeOf s.bridge.chip me a
    match s.localFlat p bs.length with
    | .error c => (s, .fault c)
    | .ok fs => if s.heldByOther none (fun r => fs.any (fun x => resvOnFlat x 1 r)) then (s, .hold) else (s.writeLocal p fs bs false, .ok ())

/-! ## The queue -/

/-- The operation rounds (12 R318). -/
def VecOp.rounds (op : VecOp) (toF fr : Fmt) : Bool :=
  match op with
  | .add | .sub | .mul | .rsum => toF.vecFloat
  | .div | .sqrt | .fma => true
  | .cvt => !(toF.isInt && fr.isInt)
  | _ => false

/-- Draws an operation of `n` elements takes under SR (12 R323, R325, R326). -/
def VecOp.draws (op : VecOp) (n : Nat) : Nat := if op = .rsum then n - 1 else n

/-- Entries of a queue that a started failure or a refuted hypothesis cancels whole: vector operations of a thread whose
latch holds an element fault, and every operation whose hypothesis is refuted (12 R329, R332; 13 R354). -/
def State.cancelled (s : State) (e : VmuEntry) : Bool :=
  s.refuted e.cmd.part e.cmd.hid ||
    (match e.op with
     | .vec _ => (match s.thread? e.cmd.tid with | some t => decide (t.latch.code = 1) | none => false)
     | .mat (.press _ _ _ _ _ _) => false
     | .mat _ => false)

/-- What an entry leaves of the engine's watch on its wait cell when it goes. -/
def State.entryGone (s : State) (e : VmuEntry) : State :=
  match e.watch with
  | some id => s.endWatch id
  | none => s

/-- Cancels the entries of a core's queue that are to be cancelled; matrix operations complete with code 0x02. An `mrd`
stays: it returns a register value. -/
def State.cancelQueue (s : State) (core : Nat) : State :=
  let k := s.core core
  let gone := k.vq.filter (fun e => s.cancelled e && !e.isMrd)
  let s := s.setCore core { k with vq := k.vq.filter (fun e => !(s.cancelled e && !e.isMrd)) }
  gone.foldl (fun s e => (s.entryGone e).complete e.cmd 2) s

/-- Draws that an operation takes at issue (03 R96). -/
def VmuEntry.draws (e : VmuEntry) : Nat :=
  match e.op with
  | .vec j => if j.op.rounds j.toF j.fr ∧ j.mode = .sr then j.op.draws j.n else 0
  | .mat (.mdrain _ _ mode _ _ _ _ _ _ _) => if mode = .sr then 256 else 0
  | .mat _ => 0

/-- What entering the queue does to the issuer: it takes its draws, counts a vector operation, or waits for an `mrd`. -/
def VmuEntry.entered (e : VmuEntry) (t : Thread) : Thread :=
  match e.op with
  | .vec _ => { t.takeDraws e.draws with latch := { t.latch with issued := t.latch.issued + 1 } }
  | .mat (.mrd _ d _) => { t with wait := .vmu (some d) }
  | .mat _ => t.takeDraws e.draws

/-- An operation enters the queue of its core. -/
def State.pushVmu (s : State) (core tid : Nat) (e : VmuEntry) : State :=
  let k := s.core core
  (s.setCore core { k with vq := k.vq ++ [e] }).modThread tid e.entered

/-- The current thread's operation enters the queue of its core, or waits at issue while the queue is full (12 R315). -/
def State.enterQueue (s : State) (e : VmuEntry) : Eff :=
  let me := coreOf s.cur
  let k := s.core me
  if k.vq.length < 4 then
    let s' := s.pushVmu me s.cur e
    if e.isMrd then .wait s' else .retire (s'.cancelQueue me)
  else .queued ((s.setCore me { k with waitingVmu := k.waitingVmu ++ [(s.cur, e)] }).modThread s.cur (fun t => { t with wait := .queue }))

/-- A waiting operation enters as soon as there is room, and its thread goes on. -/
def State.admitVmu (s : State) (core tid : Nat) (e : VmuEntry) : State :=
  let s := s.modThread tid (fun t => { t.countIssue s.cycle with wait := .none })
  let s := s.pushVmu core tid e
  if e.isMrd then s else ((s.cancelQueue core).modThread tid Thread.advance).showFlags tid

/-- Waiting operations enter a core's queue in the order in which they began to wait (12 R315). -/
def State.fillQueue (s : State) (core : Nat) : Nat → State
  | 0 => s
  | fuel + 1 =>
    let k := s.core core
    match k.waitingVmu with
    | (tid, e) :: r =>
      if k.vq.length < 4 ∧ k.quarantined = false then
        ((s.setCore core { k with waitingVmu := r }).admitVmu core tid e).fillQueue core fuel
      else s
    | [] => s

/-- A fresh entry of a command. -/
def VmuEntry.fresh (cmd : Cmd) (op : VmuOp) (ordinal : Nat) : VmuEntry :=
  { cmd := cmd, op := op, ordinal := ordinal, waitMet := false, failed := none, table := none, dataB := [], dataC := []
    suspended := false, short := false, ends := [], watch := none }

/-- VMU operations of a thread that have not completed. -/
def State.vmuBusy (s : State) (tid : Nat) : Bool :=
  let k := s.core (coreOf tid)
  (k.vq ++ k.started).any (fun e => decide (e.cmd.tid = tid))

/-! ## Latches and `v.sync` (12 R329, R330) -/

/-- Records a failed vector operation: the earliest with an element fault, else the earliest with code 0x04. -/
def Latch.record (l : Latch) (code : Nat) (cause : Byte) (element ordinal : Nat) : Latch :=
  if l.code = 0 ∨ (code = 1 ∧ l.code ≠ 1) ∨ (code = l.code ∧ ordinal < l.ordinal) then
    { l with code := code, cause := cause, element := element, ordinal := ordinal }
  else l

/-- The status `v.sync` writes. -/
def Latch.status (l : Latch) : Word :=
  if l.code = 0 then 0
  else BitVec.ofNat 64 (l.ordinal % 2 ^ 16 * 2 ^ 32 + l.element % 2 ^ 12 * 2 ^ 16 + (if l.code = 1 then l.cause.toNat else 0) * 256 + l.code)

/-- A `v.sync` whose wait is over writes its cell and clears the latch; reached by a refute it leaves the latch. -/
def State.syncEnds (s : State) (cmd : Cmd) (latch : Latch) : State :=
  let s' := s.complete cmd latch.status
  if s.refuted cmd.part cmd.hid then s' else s'.modThread cmd.tid (fun u => { u with latch := ⟨0, 0, 0, 0, 0⟩ })

/-- `v.sync` (12 R330): it waits for the thread's VMU operations, writes its cell, clears the latch and retires. -/
def execVSync (c : RegNo) (x : Cx) (s : State) : Host.Outcome State Fault Refusal :=
  s.command (.vSync c x) x (fun t => [checkCell (t.reg c), cellWindowUnv t.hid (t.reg c)])
    (fun t =>
      let cmd := t.cmd s.cur x (t.reg c)
      if s.vmuBusy s.cur then s.awaits (.vSync c x) cmd t else .retire (s.syncEnds cmd t.latch))

/-- A waiting `v.sync` goes on once its thread's operations have completed. -/
def State.trySync (s : State) (h : HeldCmd) : State :=
  if s.vmuBusy h.cmd.tid then s
  else
    let latch := ((s.thread? h.cmd.tid).map Thread.latch).getD ⟨0, 0, 0, 0, 0⟩
    (({ s with heldCmds := s.heldCmds.erase h } : State).syncEnds h.cmd latch).resume h.cmd.tid id

end Sys2Proof.Machine
end

