-- ==== Sys2Proof/Machine/Vector.lean ====
section
/-!
DEFINITION. Sys2Proof/Machine/Vector.lean: the vector instructions (12 R317 to R327), what they compute, and their
completion.
-/
namespace Sys2Proof.Machine

/-! ## Members -/

/-- The member reads source 2, or an index list, from c. -/
def VecOp.readsC : VecOp → Bool
  | .abs | .neg | .sqrt | .cvt | .rsum | .rmax | .rmin | .bcast => false
  | _ => true

/-- The member reads the destination operand too. -/
def VecOp.readsA : VecOp → Bool
  | .fma | .sel => true
  | _ => false

/-- The reductions. -/
def VecOp.reduces : VecOp → Bool
  | .rsum | .rmax | .rmin => true
  | _ => false

/-- Source 1 is a sequence of elements, which a stream can give (log 73, DEDUCED). -/
def VecOp.streamsB : VecOp → Bool
  | .bcast | .gat => false
  | _ => true

/-! ## The descriptor (12 R318) -/

def descN (q : Quad) : Nat := fld q 0 13
def descSb (q : Quad) : Bool := q.getLsbD 16
def descEb (q : Quad) : Nat := fld q 17 4
def descSc (q : Quad) : Bool := q.getLsbD 21
def descEc (q : Quad) : Nat := fld q 22 4
def descRnd (q : Quad) : Nat := fld q 27 3

/-- Reserved values of the descriptor, and a register named beside a stream. -/
def descReserved (op : VecOp) (toF fr : Fmt) (q : Quad) (b c : RegNo) : Bool :=
  decide (fld q 30 98 ≠ 0) || q.getLsbD 26 || decide (fld q 13 3 ≠ 0) || decide (descN q = 0) || decide (4096 < descN q)
    || decide (descRnd q = 7) || (decide (descRnd q ≠ 0) && !op.rounds toF fr)
    || (!descSb q && decide (descEb q ≠ 0)) || (!descSc q && decide (descEc q ≠ 0))
    || (descSb q && (!op.streamsB || decide (b ≠ 0))) || (descSc q && (!op.readsC || decide (c ≠ 0)))

/-- The mode an rnd field selects (12 R318). -/
def Thread.modeOf (t : Thread) (rnd : Nat) : RMode := if rnd = 0 then t.rm else RMode.ofCode (rnd - 1)

/-! ## Issue (12 R321) -/

/-- The stream entry is bound by a thread of the issuer's load. -/
def State.streamOk (s : State) (me load entry : Nat) : Bool :=
  match (s.core me).streamPort entry with
  | some (_, p) => decide (p.cmd.load = load)
  | none => false

/-- The checks on a memory source that spans `n` bytes with elements of `w` bytes. -/
def State.vecSource (s : State) (me : Nat) (r : Reg) (n w : Nat) : List (Option Trap) :=
  [opCap r (permLD ||| permENG) n, opAlign r w, s.opLocal me r n]

/-- `issue_vec` (12 R321) (log 102, DEDUCED). -/
def State.vecChecks (s : State) (t : Thread) (op : VecOp) (toF fr : Fmt) (d a b c : RegNo) : List (Option Trap) :=
  let me := coreOf s.cur
  let q := (t.reg d).bits
  let n := descN q
  let w := Fmt.bytes toF
  let ra := t.reg a
  let nd := if op = .sct then 0 else if op.reduces then w else n * w
  let perms := permST ||| permENG ||| (if op.readsA then permLD else 0)
  [reservedIf (descReserved op toF fr q b c), opCap ra perms nd, opAlign ra w, s.opLocal me ra nd]
  ++ (if op = .bcast ∨ descSb q then [] else s.vecSource me (t.reg b) (if op = .gat then 0 else n * Fmt.bytes fr) (Fmt.bytes fr))
  ++ (if op.readsC = false ∨ descSc q then []
      else if op = .gat ∨ op = .sct then s.vecSource me (t.reg c) (4 * n) 4 else s.vecSource me (t.reg c) (n * w) w)
  ++ [reservedIf (descSb q && !s.streamOk me t.load (descEb q)), reservedIf (descSc q && !s.streamOk me t.load (descEc q)),
      opUnv t.hid ra]

/-- A vector instruction: it takes its draws and enters the queue; c is c0 where the member has no c. -/
def State.vec (s : State) (i : Instr) (op : VecOp) (toF fr : Fmt) (d a b c : RegNo) (x : Cx) : Host.Outcome State Fault Refusal :=
  s.command i x (fun t => s.vecChecks t op toF fr d a b c)
    (fun t =>
      let q := (t.reg d).bits
      let mode := t.modeOf (descRnd q)
      let j : VecJob :=
        { op := op, toF := toF, fr := fr, mode := mode, seed := t.seed, lcore := t.lcore, draw0 := t.draws, n := descN q
          a := t.reg a, b := t.reg b, c := t.reg c, sb := if descSb q then some (descEb q) else none
          sc := if descSc q then some (descEc q) else none }
      s.enterQueue (VmuEntry.fresh (t.cmdBare s.cur x) (.vec j) t.latch.issued))

def execVAdd (f : Fmt) (d a b c : RegNo) (x : Cx) (s : State) : Host.Outcome State Fault Refusal := s.vec (.vAdd f d a b c x) .add f f d a b c x
def execVSub (f : Fmt) (d a b c : RegNo) (x : Cx) (s : State) : Host.Outcome State Fault Refusal := s.vec (.vSub f d a b c x) .sub f f d a b c x
def execVMul (f : Fmt) (d a b c : RegNo) (x : Cx) (s : State) : Host.Outcome State Fault Refusal := s.vec (.vMul f d a b c x) .mul f f d a b c x
def execVDiv (f : Fmt) (d a b c : RegNo) (x : Cx) (s : State) : Host.Outcome State Fault Refusal := s.vec (.vDiv f d a b c x) .div f f d a b c x
def execVMin (f : Fmt) (d a b c : RegNo) (x : Cx) (s : State) : Host.Outcome State Fault Refusal := s.vec (.vMin f d a b c x) .min f f d a b c x
def execVMax (f : Fmt) (d a b c : RegNo) (x : Cx) (s : State) : Host.Outcome State Fault Refusal := s.vec (.vMax f d a b c x) .max f f d a b c x
def execVFma (f : Fmt) (d a b c : RegNo) (x : Cx) (s : State) : Host.Outcome State Fault Refusal := s.vec (.vFma f d a b c x) .fma f f d a b c x
def execVAbs (f : Fmt) (d a b : RegNo) (x : Cx) (s : State) : Host.Outcome State Fault Refusal := s.vec (.vAbs f d a b x) .abs f f d a b 0 x
def execVNeg (f : Fmt) (d a b : RegNo) (x : Cx) (s : State) : Host.Outcome State Fault Refusal := s.vec (.vNeg f d a b x) .neg f f d a b 0 x
def execVSqrt (f : Fmt) (d a b : RegNo) (x : Cx) (s : State) : Host.Outcome State Fault Refusal := s.vec (.vSqrt f d a b x) .sqrt f f d a b 0 x
def execVAnd (f : Fmt) (d a b c : RegNo) (x : Cx) (s : State) : Host.Outcome State Fault Refusal := s.vec (.vAnd f d a b c x) .and f f d a b c x
def execVOr (f : Fmt) (d a b c : RegNo) (x : Cx) (s : State) : Host.Outcome State Fault Refusal := s.vec (.vOr f d a b c x) .or f f d a b c x
def execVXor (f : Fmt) (d a b c : RegNo) (x : Cx) (s : State) : Host.Outcome State Fault Refusal := s.vec (.vXor f d a b c x) .xor f f d a b c x
def execVShl (f : Fmt) (d a b c : RegNo) (x : Cx) (s : State) : Host.Outcome State Fault Refusal := s.vec (.vShl f d a b c x) .shl f f d a b c x
def execVShr (f : Fmt) (d a b c : RegNo) (x : Cx) (s : State) : Host.Outcome State Fault Refusal := s.vec (.vShr f d a b c x) .shr f f d a b c x
def execVCeq (f : Fmt) (d a b c : RegNo) (x : Cx) (s : State) : Host.Outcome State Fault Refusal := s.vec (.vCeq f d a b c x) .ceq f f d a b c x
def execVClt (f : Fmt) (d a b c : RegNo) (x : Cx) (s : State) : Host.Outcome State Fault Refusal := s.vec (.vClt f d a b c x) .clt f f d a b c x
def execVCle (f : Fmt) (d a b c : RegNo) (x : Cx) (s : State) : Host.Outcome State Fault Refusal := s.vec (.vCle f d a b c x) .cle f f d a b c x
def execVSel (f : Fmt) (d a b c : RegNo) (x : Cx) (s : State) : Host.Outcome State Fault Refusal := s.vec (.vSel f d a b c x) .sel f f d a b c x
def execVCvt (toF fr : Fmt) (d a b : RegNo) (x : Cx) (s : State) : Host.Outcome State Fault Refusal := s.vec (.vCvt toF fr d a b x) .cvt toF fr d a b 0 x
def execVRsum (f : Fmt) (d a b : RegNo) (x : Cx) (s : State) : Host.Outcome State Fault Refusal := s.vec (.vRsum f d a b x) .rsum f f d a b 0 x
def execVRmax (f : Fmt) (d a b : RegNo) (x : Cx) (s : State) : Host.Outcome State Fault Refusal := s.vec (.vRmax f d a b x) .rmax f f d a b 0 x
def execVRmin (f : Fmt) (d a b : RegNo) (x : Cx) (s : State) : Host.Outcome State Fault Refusal := s.vec (.vRmin f d a b x) .rmin f f d a b 0 x
def execVBcast (f : Fmt) (d a b : RegNo) (x : Cx) (s : State) : Host.Outcome State Fault Refusal := s.vec (.vBcast f d a b x) .bcast f f d a b 0 x
def execVGat (f : Fmt) (d a b c : RegNo) (x : Cx) (s : State) : Host.Outcome State Fault Refusal := s.vec (.vGat f d a b c x) .gat f f d a b c x
def execVSct (f : Fmt) (d a b c : RegNo) (x : Cx) (s : State) : Host.Outcome State Fault Refusal := s.vec (.vSct f d a b c x) .sct f f d a b c x

/-! ## What an element becomes (12 R323 to R325, R327) -/

/-- All ones of `n` bits, or zero. -/
def allOnes (n : Nat) (r : Bool × FlagSet) : FRes := ⟨if r.1 then 2 ^ n - 1 else 0, r.2⟩

/-- An element of an integer member: x and y are the sources' bits. -/
def vecInt (op : VecOp) (w : Nat) (signed : Bool) (x y : Nat) : Nat :=
  let xi := intRead w signed x
  let yi := intRead w signed y
  match op with
  | .add | .rsum => intBits w (xi + yi)
  | .sub => intBits w (xi - yi)
  | .mul => intBits w (xi * yi)
  | .min | .rmin => if xi ≤ yi then x else y
  | .max | .rmax => if xi ≤ yi then y else x
  | .abs => intBits w xi.natAbs
  | .neg => intBits w (-xi)
  | .and => (BitVec.ofNat w x &&& BitVec.ofNat w y).toNat
  | .or => (BitVec.ofNat w x ||| BitVec.ofNat w y).toNat
  | .xor => (BitVec.ofNat w x ^^^ BitVec.ofNat w y).toNat
  | .shl => intBits w (xi * 2 ^ (y % w))
  | .shr => intBits w (xi / 2 ^ (y % w))
  | .ceq => if xi = yi then 2 ^ w - 1 else 0
  | .clt => if xi < yi then 2 ^ w - 1 else 0
  | .cle => if xi ≤ yi then 2 ^ w - 1 else 0
  | _ => x

/-- An element of a floating-point member; z is the accumulator's. -/
def vecFp (op : VecOp) (l : FLayout) (mode : RMode) (u x y z : Nat) : FRes :=
  let fx := fpRead l x
  let fy := fpRead l y
  match op with
  | .add | .rsum => fpAdd l mode u fx fy
  | .sub => fpAdd l mode u fx fy.neg
  | .mul => fpMul l mode u fx fy
  | .div => fpDiv l mode u fx fy
  | .min | .rmin => fpMinMax l false x y
  | .max | .rmax => fpMinMax l true x y
  | .fma => fpFma l mode u fx fy (fpRead l z)
  | .abs => ⟨x % l.signBit, 0⟩
  | .neg => ⟨if x / l.signBit % 2 = 1 then x - l.signBit else x + l.signBit, 0⟩
  | .sqrt => fpSqrt l mode u fx
  | .ceq => allOnes l.width (fpEq fx fy)
  | .clt => allOnes l.width (fpLt fx fy)
  | .cle => allOnes l.width (fpLe fx fy)
  | _ => ⟨x, 0⟩

/-- An element of any member: x and y from the sources, z from the destination operand, u the draw. -/
def vecElement (t : K8Table) (op : VecOp) (toF fr : Fmt) (mode : RMode) (u x y z : Nat) : FRes :=
  match op with
  | .sel => ⟨if z ≠ 0 then x else y, 0⟩
  | .bcast | .gat | .sct => ⟨x, 0⟩
  | .cvt => if toF = .k8 ∧ t.encodable = false then ⟨0, 0⟩ else fmtConvert t toF fr mode u x
  | op =>
    match Fmt.layout toF with
    | some l => vecFp op l mode u x y z
    | none => ⟨vecInt op (Fmt.bits toF) (Fmt.intInfo toF).2 x y, 0⟩

/-! ## The reduction tree (03 R98) -/

/-- One level of the tree: the next values, the draws used so far, the flags raised. -/
def treeLevel (f : Nat → Nat → Nat → FRes) : List Nat → Nat → FlagSet → List Nat × Nat × FlagSet
  | x :: y :: r, k, g =>
    let v := f k x y
    let (rs, k', g') := treeLevel f r (k + 1) (g ||| v.flags)
    (v.bits :: rs, k', g')
  | l, k, g => (l, k, g)

/-- The whole tree; `f k x y` combines x and y with the k-th draw. -/
def treeReduce (f : Nat → Nat → Nat → FRes) : Nat → List Nat → Nat → FlagSet → Nat × FlagSet
  | 0, l, _, g => (l.headD 0, g)
  | fuel + 1, l, k, g =>
    match l with
    | [] => (0, g)
    | [x] => (x, g)
    | l => let (l', k', g') := treeLevel f l k g; treeReduce f fuel l' k' g'

/-! ## Carrying out an operation (12 R322, R327 to R329) -/

/-- The j-th draw of an operation. -/
def VecJob.draw (j : VecJob) (slot i : Nat) : Nat := drawOf j.seed j.lcore (srCounter slot (j.draw0 + i))

/-- Bytes of source 1's elements, and of source 2's or the index list's. -/
def VecJob.wb (j : VecJob) : Nat := Fmt.bytes j.fr
def VecJob.wc (j : VecJob) : Nat := if j.op = .gat ∨ j.op = .sct then 4 else Fmt.bytes j.toF

/-- Element `i` of a stream's bytes; a missing byte is cause 0x30. -/
def streamElem (bs : List Byte) (i w : Nat) : Except Byte Nat :=
  if i * w + w ≤ bs.length then .ok (leNat ((bs.drop (i * w)).take w)) else .error 0x30

/-- Element `i` of a memory operand. -/
def State.memElem (s : State) (me : Nat) (r : Reg) (i w : Nat) : Except Byte Nat :=
  (s.vmuRead me (r.cursor + BitVec.ofNat 64 (i * w)) w).map leNat

/-- Element `i` of source 2 or of the index list. -/
def State.elemC (s : State) (me : Nat) (e : VmuEntry) (j : VecJob) (i : Nat) : Except Byte Nat :=
  if j.op.readsC = false then .ok 0
  else if j.sc.isSome then streamElem e.dataC i j.wc else s.memElem me j.c i j.wc

/-- The checked address of element `k` from a base (12 R327). -/
def State.indexed (s : State) (me : Nat) (r : Reg) (perms : BitVec 14) (k w : Nat) : Except Byte Word :=
  let at_ : Nat := r.cursor.toNat + k * w
  let a := BitVec.ofNat 64 at_
  match (capCause r perms at_ w).orElse (fun _ => if at_ % w ≠ 0 then some 0x09 else s.localCause me a w) with
  | some c => .error c
  | none => .ok a

/-- Element `i` of source 1. -/
def State.elemB (s : State) (me : Nat) (e : VmuEntry) (j : VecJob) (i y : Nat) : Except Byte Nat :=
  match j.op with
  | .bcast => .ok (j.b.bits.toNat % 2 ^ Fmt.bits j.toF)
  | .gat => (s.indexed me j.b (permLD ||| permENG) y j.wb).bind (fun a => (s.vmuRead me a j.wb).map leNat)
  | _ => if j.sb.isSome then streamElem e.dataB i j.wb else s.memElem me j.b i j.wb

/-- Element `i` of an element-wise operation: where it goes and its result, or the cause that stops it. -/
def State.vecValue (s : State) (e : VmuEntry) (j : VecJob) (i : Nat) : Except Byte (Word × FRes) :=
  let me := e.cmd.core
  let t := e.table.getD presetE4M3
  let w := Fmt.bytes j.toF
  (s.elemC me e j i).bind (fun y =>
    (s.elemB me e j i y).bind (fun x =>
      (if j.op.readsA then s.memElem me j.a i w else .ok 0).bind (fun z =>
        (if j.op = .sct then s.indexed me j.a (permST ||| permENG) y w else .ok (j.a.cursor + BitVec.ofNat 64 (i * w))).map
          (fun a => (a, vecElement t j.op j.toF j.fr j.mode (j.draw (slotOf e.cmd.tid) i) x y z)))))

/-- Element `i` computed and written: its flags, an element fault, or a wait for another thread's reservation. -/
def State.vecOne (s : State) (e : VmuEntry) (j : VecJob) (i : Nat) : State × Acc FlagSet :=
  match s.vecValue e j i with
  | .error c => (s, .fault c)
  | .ok (a, v) =>
    match s.vmuWrite e.cmd.core a (leBytes (Fmt.bytes j.toF) v.bits) with
    | (s', .ok ()) => (s', .ok v.flags)
    | (s', .fault c) => (s', .fault c)
    | (s', .hold) => (s', .hold)

/-- Elements from `i` on until the first element fault. -/
def State.vecFrom (s : State) (e : VmuEntry) (j : VecJob) : Nat → Nat → FlagSet → State × Acc (FlagSet × Option (Nat × Byte))
  | 0, _, g => (s, .ok (g, none))
  | fuel + 1, i, g =>
    match s.vecOne e j i with
    | (s', .ok f) => s'.vecFrom e j fuel (i + 1) (g ||| f)
    | (s', .fault c) => (s', .ok (g, some (i, c)))
    | (s', .hold) => (s', .hold)

/-- Of some flags, each is raised or not, freely. -/
def State.someFlags (s : State) (f : FlagSet) : State × FlagSet :=
  (List.range 8).foldl (fun (s, g) i =>
    if f.getLsbD i then let (s, b) := s.choose; (s, if b then g ||| BitVec.ofNat _ (2 ^ i) else g) else (s, g)) (s, 0)

/-- Elements above a faulted one: each is written or not, and each of its flags is raised or not, freely (12 R329) (log 66, DEDUCED,
DEDUCED). -/
def State.vecAbove (s : State) (e : VmuEntry) (j : VecJob) : Nat → Nat → FlagSet → State × Acc FlagSet
  | 0, _, g => (s, .ok g)
  | fuel + 1, i, g =>
    match s.vecValue e j i with
    | .error _ => s.vecAbove e j fuel (i + 1) g
    | .ok (a, v) =>
      let (s, f) := s.someFlags v.flags
      let (s, b) := s.choose
      if b then
        match s.vmuWrite e.cmd.core a (leBytes (Fmt.bytes j.toF) v.bits) with
        | (s', .hold) => (s', .hold)
        | (s', _) => s'.vecAbove e j fuel (i + 1) (g ||| f)
      else s.vecAbove e j fuel (i + 1) (g ||| f)

/-- Source elements `i` on of a reduction, up to the first that faults. -/
def State.sourceFrom (s : State) (e : VmuEntry) (j : VecJob) : Nat → Nat → List Nat → Except (Nat × Byte) (List Nat)
  | 0, _, l => .ok l
  | fuel + 1, i, l =>
    match s.elemB e.cmd.core e j i 0 with
    | .ok x => s.sourceFrom e j fuel (i + 1) (l ++ [x])
    | .error c => .error (i, c)

/-- A reduction (12 R326). -/
def State.vecReduce (s : State) (e : VmuEntry) (j : VecJob) : State × Acc (FlagSet × Option (Nat × Byte)) :=
  match s.sourceFrom e j j.n 0 [] with
  | .error (i, c) => (s, .ok (0, some (i, c)))
  | .ok l =>
    let f (k x y : Nat) : FRes := vecElement presetE4M3 j.op j.toF j.fr j.mode (j.draw (slotOf e.cmd.tid) k) x y 0
    let (v, g) := treeReduce f 13 l 0 0
    match s.vmuWrite e.cmd.core j.a.cursor (leBytes (Fmt.bytes j.toF) v) with
    | (s', .ok ()) => (s', .ok (g, none))
    | (s', .fault c) => (s', .ok (0, some (0, c)))
    | (s', .hold) => (s', .hold)

/-- A started vector operation carried out, with the thread's latch; none while a reservation holds one of its writes (log 67, DESIGN CHOICE). -/
def State.vecRun (s : State) (e : VmuEntry) (j : VecJob) : Option State :=
  let tid := e.cmd.tid
  let latch (s : State) (code : Nat) (cause : Byte) (i : Nat) : State :=
    (s.modThread tid (fun t => { t with latch := t.latch.record code cause i e.ordinal })).cancelQueue e.cmd.core
  match if j.op.reduces then s.vecReduce e j else s.vecFrom e j j.n 0 0 with
  | (_, .hold) => none
  | (s, .fault _) => some s
  | (s, .ok (g, none)) =>
    let s := s.raiseFor tid g
    some (if j.op = .cvt ∧ j.toF = .k8 ∧ (e.table.getD presetE4M3).encodable = false then latch s 4 0 0 else s)
  | (s, .ok (g, some (i, c))) =>
    match if j.op.reduces then (s, .ok g) else s.vecAbove e j (j.n - i - 1) (i + 1) g with
    | (s, .ok g) => some (latch (s.raiseFor tid g) 1 c i)
    | (_, _) => none

/-! ## Starting, stream by stream (12 R315, R316, R328) -/

/-- Elements of a lane group (12 R319). -/
def VecJob.group (j : VecJob) : Nat := 64 / max j.wb (Fmt.bytes j.toF)

/-- Elements whose stream bytes have been taken. -/
def VmuEntry.gotten (e : VmuEntry) (j : VecJob) : Nat :=
  match j.sb, j.sc with
  | none, none => j.n
  | some _, none => e.dataB.length / j.wb
  | none, some _ => e.dataC.length / j.wc
  | some _, some _ => Nat.min (e.dataB.length / j.wb) (e.dataC.length / j.wc)

/-- Every lane group has started. -/
def VmuEntry.allStarted (e : VmuEntry) (j : VecJob) : Bool := e.short || decide (j.n ≤ e.gotten j)

/-- Elements of the next group. -/
def VmuEntry.nextGroup (e : VmuEntry) (j : VecJob) : Nat := Nat.min j.group (j.n - e.gotten j)

/-- The streams hold the next group's bytes, or can never. -/
def State.groupReady (s : State) (e : VmuEntry) (j : VecJob) : Bool :=
  let m := e.nextGroup j
  let has (o : Option Nat) (n : Nat) : Bool := match o with | some x => s.streamHas e.cmd.core x n | none => true
  -- one stream may give both sources
  e.short || (if j.sb = j.sc then has j.sb (m * (j.wb + j.wc)) else has j.sb (m * j.wb) && has j.sc (m * j.wc))

/-- Takes the next group's stream bytes. A stream whose eos record is used up before the operation has all its bytes has no more for
it. -/
def State.takeGroup (s : State) (e : VmuEntry) (j : VecJob) : State × VmuEntry :=
  let m := e.nextGroup j
  let last := decide (j.n ≤ e.gotten j + m)
  let take (s : State) (o : Option Nat) (w : Nat) : State × List Byte × Bool × List (Cmd × Word) :=
    match o with
    | some x =>
      let (s', b, ended) := s.takeStream e.cmd.core x (m * w)
      (s', b, decide (b.length < m * w) || (ended.isSome && !last), ended.toList)
    | none => (s, [], false, [])
  let (s, bs, shortB, endB) := take s j.sb j.wb
  let (s, cs, shortC, endC) := take s j.sc j.wc
  (s, { e with dataB := e.dataB ++ bs, dataC := e.dataC ++ cs, short := e.short || shortB || shortC, ends := e.ends ++ endB ++ endC })

/-- Starts lane groups while the streams hold them; short of one the operation is suspended. -/
def State.runGroups (s : State) (e : VmuEntry) (j : VecJob) : Nat → State × VmuEntry
  | 0 => (s, e)
  | fuel + 1 =>
    if e.allStarted j then (s, { e with suspended := false })
    else if s.groupReady e j then let (s, e) := s.takeGroup e j; s.runGroups e j fuel
    else (s, { e with suspended := true })

/-- The started vector operation of a core that has groups left, with its place among the started. -/
def Core.midVec (k : Core) : Option (Nat × VmuEntry × VecJob) :=
  ((List.range k.started.length).filterMap (fun i =>
    match k.started[i]? with
    | some e => (match e.op with | .vec j => if e.allStarted j then none else some (i, e, j) | _ => none)
    | none => none)).head?

/-- A `dtload` has started and its table is not in place: nothing leaves the queue (13 R350). -/
def Core.loadingTable (k : Core) : Bool := k.started.any (fun e => match e.op with | .mat (.dtload _ _) => true | _ => false)

/-- The vector pipe may start or resume an operation of the core (12 R316). -/
def State.vecEligible (s : State) (core : Nat) : Bool :=
  let k := s.core core
  !k.quarantined && !k.loadingTable &&
    (match k.midVec with
     | some (_, e, _) => !e.suspended
     | none =>
       match k.vq with
       | e :: _ => (match e.op with | .vec j => s.groupReady e j | _ => false)
       | [] => false)

/-- Starts or resumes the core's vector operation; whether it was a resumption, which costs no credit. -/
def State.startVec (s : State) (core : Nat) : State × Bool :=
  let k := s.core core
  match k.midVec with
  | some (i, e, j) =>
    let (s, e) := s.runGroups e j 4097
    let k := s.core core
    (s.setCore core { k with started := lset k.started i e }, true)
  | none =>
    match k.vq with
    | e :: r =>
      (match e.op with
       | .vec j =>
         let s := s.setCore core { k with vq := r }
         let (s, e) := s.runGroups { e with table := some k.table } j 4097
         let k := s.core core
         (s.setCore core { k with started := k.started ++ [e] }, false)
       | _ => (s, false))
    | [] => (s, false)

/-- STREAM_RESUME (12 R328): a suspended operation becomes eligible when its stream holds the next group's bytes, or has
ended or is bound no more. -/
def execStreamResume (core : Nat) (s : State) : Host.Outcome State Fault Refusal :=
  let k := s.core core
  match k.midVec with
  | some (i, e, j) =>
    if e.suspended ∧ s.groupReady e j then .next (s.setCore core { k with started := lset k.started i { e with suspended := false } })
    else .next s
  | none => .next s

/-- The operation reads a stream of one of these operations' entries. -/
def VmuEntry.sharesStream (e : VmuEntry) (j : VecJob) : Bool :=
  match e.op with
  | .vec i => [i.sb, i.sc].any (fun o => o.isSome && (o == j.sb || o == j.sc))
  | _ => false

/-- An earlier operation of the core has not yet written what it took from a stream that this one has used up: the stream's end
cell covers its writes too (11 R310). -/
def Core.endsEarly (k : Core) (i : Nat) (e : VmuEntry) (j : VecJob) : Bool :=
  decide (e.ends ≠ []) && (k.started.take i).any (fun f => f.sharesStream j)

/-- VECTOR_OP_COMPLETE (12 R322): the started operation at place `i` of a core has done its work; then the cells of streams it has
used up are written (11 R310). -/
def execVectorOpComplete (core i : Nat) (s : State) : Host.Outcome State Fault Refusal :=
  let k := s.core core
  match k.started[i]? with
  | some e =>
    (match e.op with
     | .vec j =>
       if e.allStarted j ∧ k.endsEarly i e j = false then
         match (s.setCore core { k with started := k.started.eraseIdx i }).vecRun e j with
         | some s' => .next (e.ends.foldl (fun s (cmd, st) => s.complete cmd st) s')
         | none => .next s
       else .next s
     | _ => .next s)
  | none => .next s

/-- A pre-empted load's suspended stream operation ends at its first untaken element (12 R332). -/
def State.endSuspended (s : State) (core load : Nat) : State :=
  let k := s.core core
  s.setCore core { k with started := k.started.map (fun e =>
    match e.op with
    | .vec j => if e.cmd.load = load ∧ e.allStarted j = false then { e with short := true } else e
    | _ => e) }

end Sys2Proof.Machine
end

