-- ==== Sys2Proof/Machine/Matrix.lean ====
section
/-!
DEFINITION. Sys2Proof/Machine/Matrix.lean: the matrix engine (13): the multiply instructions, the accumulator port, the
arbiters that start operations of both pipes (12 R316), and presses once they are queued (14 R365).
-/
namespace Sys2Proof.Machine

/-! ## Operands -/

/-- A register that names nothing: 128 zero bits with a clear tag (13 R341). -/
def Reg.isNothing (r : Reg) : Bool := decide (r.bits = 0) && !r.tag

/-- Bytes of a multiply's tile element. -/
def MmaKind.bytes : MmaKind → Nat
  | .bf16 | .f16 => 2
  | .k8 | .i8 | .k8bs => 1

/-- The checks of a tile operand of `n` bytes (13 R342). -/
def State.tileChecks (s : State) (r : Reg) (perms : BitVec 14) (n : Nat) : List (Option Trap) :=
  [opCap r perms n, opAlign r 64, s.opLocal (coreOf s.cur) r n]

/-- A cell named by a register number, c0 naming none (13 R344). -/
def Thread.optCell (t : Thread) (c : RegNo) : List (Option Trap) := if c = 0 then [] else [checkCell (t.reg c)]

/-- A command whose cell is named by a register that may name none. -/
def Thread.cmdOpt (t : Thread) (tid : Nat) (x : Cx) (c : Option Reg) : Cmd := { t.cmdBare tid x with cell := c.map cellRef }

/-! ## The mma family (13 R340 to R342) -/

/-- `issue_mma` (13 R342). -/
def State.mmaChecks (s : State) (t : Thread) (kind : MmaKind) (d a b c : RegNo) : List (Option Trap) :=
  let d0 := t.reg d
  let d1 := t.reg (d + 1)
  let d2 := t.reg (d + 2)
  let n := 256 * kind.bytes
  [reservedIf (decide (d = 30) || decide (d = 31)), reservedIf (decide (kind = .k8bs) && (decide (c = 0) || decide (c = 31)))]
  ++ (if d = 0 then []
      else [reservedIf (!zeroAbove d2.bits 64), (if d0.isNothing then none else checkCell d0)]
        ++ (if d1.isNothing then []
            else [opCap d1 (permLD ||| permWATCH) 16, opAlign d1 16, opPlace d1 16]))
  ++ s.tileChecks (t.reg a) (permLD ||| permENG) n ++ s.tileChecks (t.reg b) (permLD ||| permENG) n
  ++ [if d = 0 ∨ d0.isNothing then none else cellWindowUnv t.hid d0]

/-- A multiply instruction: it reads its control triple and scales and enters the queue. -/
def State.mma (s : State) (i : Instr) (kind : MmaKind) (acc ta tb : Bool) (d a b c : RegNo) (x : Cx) : Host.Outcome State Fault Refusal :=
  s.command i x (fun t => s.mmaChecks t kind d a b c)
    (fun t =>
      let some_ (r : Reg) : Option Reg := if d = 0 ∨ r.isNothing then none else some r
      let op : MatOp := .mma kind acc ta tb (t.reg a) (t.reg b) (t.reg c).bits (t.reg (c + 1)).bits
        ((some_ (t.reg (d + 1))).map cellRef) (if d = 0 then 0 else (t.reg (d + 2)).lo)
      s.enterQueue (VmuEntry.fresh (t.cmdOpt s.cur x (some_ (t.reg d))) (.mat op) 0))

def execMmaBf16 (acc ta tb : Bool) (d a b : RegNo) (x : Cx) (s : State) : Host.Outcome State Fault Refusal :=
  s.mma (.mmaBf16 acc ta tb d a b x) .bf16 acc ta tb d a b 0 x
def execMmaF16 (acc ta tb : Bool) (d a b : RegNo) (x : Cx) (s : State) : Host.Outcome State Fault Refusal :=
  s.mma (.mmaF16 acc ta tb d a b x) .f16 acc ta tb d a b 0 x
def execMmaK8 (acc ta tb : Bool) (d a b : RegNo) (x : Cx) (s : State) : Host.Outcome State Fault Refusal :=
  s.mma (.mmaK8 acc ta tb d a b x) .k8 acc ta tb d a b 0 x
def execMmaI8 (acc ta tb : Bool) (d a b : RegNo) (x : Cx) (s : State) : Host.Outcome State Fault Refusal :=
  s.mma (.mmaI8 acc ta tb d a b x) .i8 acc ta tb d a b 0 x
def execMmaK8Bs (acc ta tb : Bool) (d a b c : RegNo) (x : Cx) (s : State) : Host.Outcome State Fault Refusal :=
  s.mma (.mmaK8Bs acc ta tb d a b c x) .k8bs acc ta tb d a b c x

/-! ## Accumulator and table instructions (13 R344 to R350) -/

/-- A port instruction with an optional cell in c enters the queue. -/
def State.port (s : State) (i : Instr) (x : Cx) (c : RegNo) (checks : Thread → List (Option Trap)) (op : Thread → MatOp) :
    Host.Outcome State Fault Refusal :=
  s.command i x checks (fun t =>
    s.enterQueue (VmuEntry.fresh (t.cmdOpt s.cur x (if c = 0 then none else some (t.reg c))) (.mat (op t)) 0))

/-- R24 on a cell in c. -/
def Thread.cellUnvOpt (t : Thread) (c : RegNo) : List (Option Trap) := if c = 0 then [] else [cellWindowUnv t.hid (t.reg c)]

def execMzero (acc : Bool) (c : RegNo) (x : Cx) (s : State) : Host.Outcome State Fault Refusal :=
  s.port (.mzero acc c x) x c (fun t => t.optCell c ++ t.cellUnvOpt c) (fun _ => .mzero acc)

def execMld (acc : Bool) (a c : RegNo) (x : Cx) (s : State) : Host.Outcome State Fault Refusal :=
  s.port (.mld acc a c x) x c (fun t => t.optCell c ++ s.tileChecks (t.reg a) (permLD ||| permENG) 1024 ++ t.cellUnvOpt c)
    (fun t => .mld acc (t.reg a))

def execMst (acc : Bool) (a c : RegNo) (x : Cx) (s : State) : Host.Outcome State Fault Refusal :=
  s.port (.mst acc a c x) x c
    (fun t => t.optCell c ++ s.tileChecks (t.reg a) (permST ||| permENG) 1024 ++ [opUnv t.hid (t.reg a)] ++ t.cellUnvOpt c)
    (fun t => .mst acc (t.reg a))

/-- `mrd` waits for its values (13 R347). -/
def execMrd (acc : Bool) (d a : RegNo) (x : Cx) (s : State) : Host.Outcome State Fault Refusal :=
  s.command (.mrd acc d a x) x (fun t => let q := (t.reg a).bits; [reservedIf (!zeroAbove q 8 || decide (q.toNat % 4 ≠ 0))])
    (fun t =>
      s.enterQueue (VmuEntry.fresh (t.cmdBare s.cur x) (.mat (.mrd acc d (t.reg a).bits.toNat)) 0))

/-! ### `mdrain` (13 R348, R349) -/

def drainKeep (q : Quad) : Nat := fld q 48 16
def drainInt (q : Quad) : Bool := q.getLsbD 39
def drainClr (q : Quad) : Bool := q.getLsbD 38
def drainRnd (q : Quad) : Nat := fld q 35 3
def drainRes (q : Quad) : Bool := q.getLsbD 34
def drainRfmt (q : Quad) : Nat := fld q 30 4

/-- The residual format. -/
def resFmt (q : Quad) : Fmt :=
  match drainRfmt q with
  | 1 => .f32
  | 2 => .bf16
  | _ => .f16

/-- Reserved values of the descriptor pair, of d and of b (13 R345). -/
def drainReserved (q q1 : Quad) (f : Fmt) (d b : RegNo) : Bool :=
  decide (d = 0) || decide (d = 31) || !f.drainOk || decide (fld q 40 8 ≠ 0) || decide (fld q 0 30 ≠ 0) || !zeroAbove q1 63
    || decide (drainRnd q = 7)
    || (if drainRes q then !(decide (1 ≤ drainRfmt q) && decide (drainRfmt q ≤ 3)) else decide (drainRfmt q ≠ 0) || decide (b ≠ 0))

def execMdrain (f : Fmt) (acc : Bool) (d a b c : RegNo) (x : Cx) (s : State) : Host.Outcome State Fault Refusal :=
  s.command (.mdrain f acc d a b c x) x
    (fun t =>
      let q := (t.reg d).bits
      [reservedIf (drainReserved q (t.reg (d + 1)).bits f d b)] ++ t.optCell c
      ++ s.tileChecks (t.reg a) (permST ||| permENG) (256 * Fmt.bytes f)
      ++ (if drainRes q then s.tileChecks (t.reg b) (permLD ||| permENG) (256 * Fmt.bytes (resFmt q)) else [])
      ++ [opUnv t.hid (t.reg a)] ++ t.cellUnvOpt c)
    (fun t =>
      let q := (t.reg d).bits
      let mode := t.modeOf (drainRnd q)
      let op : MatOp := .mdrain acc f mode t.draws q (t.reg (d + 1)).bits (t.reg a)
        (if drainRes q then some (t.reg b) else none) t.seed t.lcore
      s.enterQueue (VmuEntry.fresh (t.cmdOpt s.cur x (if c = 0 then none else some (t.reg c))) (.mat op) 0))

def execDtload (d a c : RegNo) (x : Cx) (s : State) : Host.Outcome State Fault Refusal :=
  s.port (.dtload d a c x) x c
    (fun t =>
      let q := (t.reg d).bits
      let ra := t.reg a
      [reservedIf (!zeroAbove q 2 || (decide (q ≠ 0) && decide (a ≠ 0)))] ++ t.optCell c
      ++ (if q = 0 then [opCap ra (permLD ||| permENG) 528, opAlign ra 16, opPlace ra 528] else []) ++ t.cellUnvOpt c)
    (fun t => .dtload (t.reg d).bits.toNat (t.reg a))

/-! ## What an operation computes -/

/-- Element `k` of a tile's bytes with elements of `w` bytes. -/
def tileElem (bs : List Byte) (w k : Nat) : Nat := leNat ((bs.drop (w * k)).take w)

/-- A 16×16 tile of bytes as its elements, row-major. -/
def tileElems (bs : List Byte) (w : Nat) : List Nat := (List.range 256).map (tileElem bs w)

/-- Cuts a list into runs of `n`. -/
def chunksOf {α : Type} (n : Nat) : Nat → List α → List (List α)
  | 0, _ => []
  | fuel + 1, l => if l.isEmpty then [] else l.take n :: chunksOf n fuel (l.drop n)

/-- The datum of an element of a multiply's tile. -/
def MmaKind.read (kind : MmaKind) (t : K8Table) (bits : Nat) : FVal :=
  match kind with
  | .bf16 => fpRead layBF16 bits
  | .f16 => fpRead layF16 bits
  | .i8 => fvalOfInt (intRead 8 true bits)
  | .k8 | .k8bs => t.decode bits

/-- The group size (03 R97). -/
def MmaKind.group : MmaKind → Nat
  | .bf16 | .f16 => 4
  | _ => 8

/-- `mma_element` (03 R97) from the old element and the row of A and column of B, with the scales of R85. -/
def mmaElement (kind : MmaKind) (t : K8Table) (old : Nat) (row col : List Nat) (ea eb : Nat) : FRes :=
  match kind with
  | .i8 =>
    let sum : Int := ((row.zip col).map (fun (x, y) => intRead 8 true x * intRead 8 true y)).foldl (· + ·) 0
    ⟨intBits 32 (intRead 32 true old + sum), 0⟩
  | kind =>
    if kind = .k8bs ∧ (ea = 0xFF ∨ eb = 0xFF) then ⟨layF32.nanBits, flagNV⟩
    else
      let scale : Int := if kind = .k8bs then (ea : Int) + eb - 254 else 0
      let ps := (row.map (kind.read t)).zip (col.map (kind.read t))
      (chunksOf kind.group 4 ps).foldl (fun r g => (mmaGroup r.bits g scale).orFlags r.flags) ⟨old, 0⟩

/-- A whole product added into an accumulator: the new elements and the flags. -/
def mmaTile (kind : MmaKind) (ta tb : Bool) (t : K8Table) (sa sb : Quad) (x : List Nat) (bsA bsB : List Byte) : List Nat × FlagSet :=
  let w := kind.bytes
  let ea := tileElems bsA w
  let eb := tileElems bsB w
  let rs := (List.range 256).map (fun e =>
    let i := e / 16
    let j := e % 16
    let row := (List.range 16).map (fun k => ea.getD (if ta then 16 * k + i else 16 * i + k) 0)
    let col := (List.range 16).map (fun k => eb.getD (if tb then 16 * j + k else 16 * k + j) 0)
    mmaElement kind t (x.getD e 0) row col (fld sa (8 * i) 8) (fld sb (8 * j) 8))
  (rs.map FRes.bits, rs.foldl (fun g r => g ||| r.flags) 0)

/-- `drain_element` (13 R349): element `e` of the output from the accumulator element and the residual's. -/
def drainElement (t : K8Table) (f : Fmt) (mode : RMode) (q q1 : Quad) (seed : Word) (lcore : BitVec 20) (u old e : Nat)
    (res : Option FVal) : FRes :=
  let v := if drainInt q then fvalOfInt (intRead 32 true old) else fpRead layF32 old
  let (v, g) := fpProduct v (fpRead layF32 (fld q 96 32))
  let (v, g) := match res with
    | some r => let (w, h) := fpSum mode [v, r]; (w, g ||| h)
    | none => (v, g)
  if drainKeep q = 0 then (fmtWrite t f mode u v).orFlags g
  else
    let ctr := dropCounter (fld q1 32 31) (fld q1 16 16 + e / 16) (fld q1 0 16 + e % 16)
    if drawOf seed lcore ctr / 2 ^ 16 < drainKeep q then
      let (v, h) := fpProduct v (fpRead layF32 (fld q 64 32))
      (fmtWrite t f mode u v).orFlags (g ||| h)
    else ⟨(fmtWrite t f mode u (.fin false 0 0)).bits, g⟩

/-! ## The two accumulators (13 R333, R338) -/

def Core.acc (k : Core) (one : Bool) : List Nat := if one then k.acc1 else k.acc0
def Core.setAcc (k : Core) (one : Bool) (x : List Nat) : Core := if one then { k with acc1 := x } else { k with acc0 := x }

/-- Fields of a pairing-table entry (14 R362). -/
def entUtag (e : Word) : Nat := (e.extractLsb' 56 8).toNat
def entLtag (e : Word) : Nat := (e.extractLsb' 48 8).toNat
def entFmt (e : Word) : Nat := (e.extractLsb' 44 4).toNat
def entTa (e : Word) : Bool := e.getLsbD 43
def entTb (e : Word) : Bool := e.getLsbD 42
def entAny (e : Word) : Bool := e.getLsbD 41
def entHome (e : Word) : Nat := (e.extractLsb' 37 4).toNat
def entAcc (e : Word) : Bool := e.getLsbD 36
def entSoff (e : Word) : Nat := (e.extractLsb' 23 13).toNat
def entFired (e : Word) : Bool := e.getLsbD 1
def entV (e : Word) : Bool := e.getLsbD 0

/-- The format pair of a press. -/
def entKindOf (e : Word) : MmaKind :=
  match entFmt e with
  | 2 => .bf16 | 3 => .f16 | 4 => .k8 | _ => .i8

/-- The accumulator an operation reads or writes. -/
def MatOp.accOf : MatOp → Option Bool
  | .mma _ acc _ _ _ _ _ _ _ _ | .mzero acc | .mld acc _ | .mst acc _ | .mrd acc _ _ | .mdrain acc _ _ _ _ _ _ _ _ _ => some acc
  | .dtload _ _ => none
  | .press _ _ _ _ _ e => if entAny e then none else some (entAcc e)

/-- Operations of the multiply array. -/
def MatOp.onArray : MatOp → Bool
  | .mma _ _ _ _ _ _ _ _ _ _ | .press _ _ _ _ _ _ => true
  | _ => false

/-- The accumulator of an operation. -/
def VmuEntry.accOf (e : VmuEntry) : Option Bool := match e.op with | .mat m => m.accOf | .vec _ => none
def VmuEntry.onArray (e : VmuEntry) : Bool := match e.op with | .mat m => m.onArray | .vec _ => false

/-- What a started operation makes of its accumulator, with its flags: nothing where it does not write it. -/
def VmuEntry.accAfter (e : VmuEntry) (x : List Nat) : List Nat × FlagSet :=
  let t := e.table.getD presetE4M3
  if e.failed.isSome then (x, 0)
  else match e.op with
    | .mat (.mma kind _ ta tb _ _ sa sb _ _) => mmaTile kind ta tb t sa sb x e.dataB e.dataC
    | .mat (.mzero _) => (List.replicate 256 0, 0)
    | .mat (.mld _ _) => (tileElems e.dataB 4, 0)
    | .mat (.press _ _ _ _ _ ent) =>
      if entAny ent then (x, 0) else mmaTile (entKindOf ent) (entTa ent) (entTb ent) t 0 0 x e.dataB e.dataC
    | _ => (x, 0)

/-- `mrd`'s values: of each element, one of the value before or after the operation in flight (13 R347). -/
def State.mrdPick (s : State) : List Nat → List Nat → List Nat → State × List Nat
  | [], _, acc => (s, acc)
  | i :: r, new, acc =>
    let (s, b) := s.choose
    s.mrdPick r new (if b then lset acc i (new.getD i 0) else acc)

/-- Of the started operations on one accumulator only the first can have made a part of its writes (13 R338); an `mdrain` clears
its accumulator only when it completes, when no fault can come any more (log 131, DESIGN CHOICE). -/
def State.mrdSeen (s : State) (x : List Nat) (els : List Nat) : List VmuEntry → State × List Nat
  | [] => (s, x)
  | e :: _ => s.mrdPick els (e.accAfter x).1 x

/-! ## Starting (12 R316, 13 R336, R337) -/

/-- The multiply array of a quad runs nothing. -/
def State.arrayFree (s : State) (quad : Nat) : Bool :=
  (List.range 4).all (fun i => !(s.core (4 * quad + i)).started.any VmuEntry.onArray)

/-- The matrix pipe may start the head of the core's queue. -/
def State.matEligible (s : State) (core : Nat) : Bool :=
  let k := s.core core
  !k.quarantined && !k.loadingTable &&
    (match k.vq with
     | e :: _ =>
       (match e.op with
        | .mat (.mma _ _ _ _ _ _ _ _ w _) => (w.isNone || e.waitMet) && s.arrayFree (core / 4)
        | .mat m => !m.onArray || s.arrayFree (core / 4)
        | .vec _ => false)
     | [] => false)

/-- `mrd` returns its values to its thread. -/
def State.returnMrd (s : State) (e : VmuEntry) (acc : Bool) (d : RegNo) (at_ : Nat) : State :=
  let k := s.core e.cmd.core
  let x := k.acc acc
  let inFlight := k.started.filter (fun f => f.accOf = some acc)
  let (s, v) := s.mrdSeen x ((List.range 4).map (· + at_)) inFlight
  let n := leNat ((List.range 4).flatMap (fun i => leBytes 4 (v.getD (at_ + i) 0)))
  match s.thread? e.cmd.tid with
  | some t => if t.wait = .vmu (some d) then s.setThread e.cmd.tid ({ t with wait := .none }.setReg d (Reg.ofNat n)).advance else s
  | none => s

/-- Starts the head of the core's queue on the matrix pipe: an `mma` reads its tiles, an `mld` its image. -/
def State.startMat (s : State) (core : Nat) : State :=
  let k := s.core core
  match k.vq with
  | e :: r =>
    let s := s.setCore core { k with vq := r }
    let e := { e with table := some k.table }
    let put (e : VmuEntry) : State := let k := s.core core; s.setCore core { k with started := k.started ++ [e] }
    (match e.op with
     | .mat (.mrd acc d at_) => s.returnMrd e acc d at_
     | .mat (.mma kind _ _ _ a b _ _ _ _) =>
       (match s.vmuRead core a.cursor (256 * kind.bytes), s.vmuRead core b.cursor (256 * kind.bytes) with
        | .ok x, .ok y => put { e with dataB := x, dataC := y }
        | .error c, _ => put { e with failed := some c }
        | _, .error c => put { e with failed := some c })
     | .mat (.mld _ a) =>
       (match s.vmuRead core a.cursor 1024 with
        | .ok x => put { e with dataB := x }
        | .error c => put { e with failed := some c })
     | _ => put e)
  | [] => s

/-- The weight of the operation at the head of a core's queue, or of the one the vector pipe resumes: 1 and the class of its thread,
or the class recorded at `mg.go` for a press (12 R316, 14 R365). -/
def State.headWeight (s : State) (matrix : Bool) (core : Nat) : Nat :=
  let k := s.core core
  let ofEntry (e : VmuEntry) : Nat :=
    match e.op with
    | .mat (.press _ _ _ _ cls _) => 1 + cls
    | _ => 1 + ((s.thread? e.cmd.tid).map Thread.cls).getD 0
  match if matrix then none else k.midVec, k.vq with
  | some (_, e, _), _ => ofEntry e
  | none, e :: _ => ofEntry e
  | none, [] => 1

/-- The queue that starts, with the holder and credit before it (12 R316). -/
def State.arbitrate (s : State) (matrix : Bool) (quad holder credit : Nat) (eligible : Nat → Bool) : Option (Nat × Nat) :=
  if eligible (4 * quad + holder) ∧ 0 < credit then some (holder, credit)
  else (((List.range 4).map (fun i => (holder + 1 + i) % 4)).find? (fun q => eligible (4 * quad + q))).map
    (fun q => (q, s.headWeight matrix (4 * quad + q)))

/-- VECTOR_OP_START (12 R316): the arbiter of a quad's vector or matrix pipe starts the head of an eligible queue, or
resumes a suspended stream operation, which costs no credit. -/
def execVectorOpStart (quad : Nat) (matrix : Bool) (s : State) : Host.Outcome State Fault Refusal :=
  let q := s.quad quad
  if matrix then
    match s.arbitrate true quad q.mHolder q.mCredit s.matEligible with
    | some (h, c) => .next ((s.setQuad quad { q with mHolder := h, mCredit := c - 1 }).startMat (4 * quad + h))
    | none => .next s
  else
    match s.arbitrate false quad q.vHolder q.vCredit s.vecEligible with
    | some (h, c) =>
      let (s', resumed) := s.startVec (4 * quad + h)
      .next (s'.setQuad quad { q with vHolder := h, vCredit := if resumed then c else c - 1 })
    | none => .next s

/-- The wait of the `mma` at the head of a core's queue is over: its watch goes. -/
def State.waitOver (s : State) (core : Nat) (e : VmuEntry) (vq : List VmuEntry) : State :=
  let s := s.entryGone e
  s.setCore core { s.core core with vq := vq }

/-- MMA_WAIT_CHECK (13 R337): the `mma` at the head of a core's queue arms its watch and reads its wait cell; it reads again when
the watch has fired (log 68, DEDUCED). -/
def execMmaWaitCheck (core : Nat) (s : State) : Host.Outcome State Fault Refusal :=
  let k := s.core core
  match k.vq with
  | e :: r =>
    (match e.op with
     | .mat (.mma _ _ _ _ _ _ _ _ (some w) threshold) =>
       if e.waitMet ∨ k.quarantined ∨ e.watch.any s.watching then .next s
       else
         let (s1, id) := match e.watch with | some id => (s, id) | none => s.fresh
         match s1.engWatch e.cmd.party e.cmd.depth w.addr 16 w.host id with
         | (s', .hold) => .next (s.keepWaiting s')
         | (s', .fault c) => .next ((s'.waitOver core e r).complete e.cmd (faultStatus c 0))
         | (s', .ok bs) =>
           let e := { e with watch := some id }
           if leNat (bs.take 8) < threshold.toNat then .next (s'.setCore core { s'.core core with vq := e :: r })
           else if leNat (bs.drop 8) % 256 = 0 then .next (s'.waitOver core e ({ e with waitMet := true, watch := none } :: r))
           else .next ((s'.waitOver core e r).complete e.cmd (faultStatus 0x30 0))
     | _ => .next s)
  | [] => .next s

/-! ## Completing (13 R338, R339) -/

/-- Elements above one whose write faulted: each is written or not, freely (13 R349). -/
def State.tileAbove (s : State) (me : Nat) (a : Word) (w : Nat) : List Nat → Nat → State × Acc Unit
  | [], _ => (s, .ok ())
  | v :: r, e =>
    let (s, b) := s.choose
    if b then
      match s.vmuWrite me (a + BitVec.ofNat 64 (w * e)) (leBytes w v) with
      | (s', .hold) => (s', .hold)
      | (s', _) => s'.tileAbove me a w r (e + 1)
    else s.tileAbove me a w r (e + 1)

/-- Writes a tile's elements row-major; the element and cause of the first that faults. -/
def State.writeTile (s : State) (me : Nat) (a : Word) (w : Nat) : List Nat → Nat → State × Acc (Option (Nat × Byte))
  | [], _ => (s, .ok none)
  | v :: r, e =>
    match s.vmuWrite me (a + BitVec.ofNat 64 (w * e)) (leBytes w v) with
    | (s', .ok ()) => s'.writeTile me a w r (e + 1)
    | (s', .hold) => (s', .hold)
    | (s', .fault c) =>
      match s'.tileAbove me a w r (e + 1) with
      | (s', .hold) => (s', .hold)
      | (s', _) => (s', .ok (some (e, c)))

/-- The residual's elements, or the element and cause of the first read that faults. -/
def State.readResidual (s : State) (me : Nat) (r : Reg) (f : Fmt) : Nat → Nat → List FVal → Except (Nat × Byte) (List FVal)
  | 0, _, l => .ok l
  | fuel + 1, e, l =>
    match s.vmuRead me (r.cursor + BitVec.ofNat 64 (Fmt.bytes f * e)) (Fmt.bytes f) with
    | .ok bs => s.readResidual me r f fuel (e + 1) (l ++ [fmtRead presetE4M3 f (leNat bs)])
    | .error c => .error (e, c)

/-- `mdrain` (13 R349): the state and status; none while a reservation holds one of its writes. -/
def State.drain (s : State) (e : VmuEntry) (acc : Bool) (f : Fmt) (mode : RMode) (draw0 : Nat) (d d1 : Quad) (a : Reg)
    (b : Option Reg) (seed : Word) (lcore : BitVec 20) : Option (State × Word) :=
  let me := e.cmd.core
  let t := e.table.getD presetE4M3
  let x := (s.core me).acc acc
  let clear (s : State) : State :=
    if drainClr d then let k := s.core me; s.setCore me (k.setAcc acc (List.replicate 256 0)) else s
  match (match b with | some r => (s.readResidual me r (resFmt d) 256 0 []).map some | none => .ok none : Except (Nat × Byte) _) with
  | .error (i, c) => some (s, faultStatus c i)
  | .ok res =>
    let bad := decide (f = .k8) && !t.encodable
    let rs := (List.range 256).map (fun i =>
      if bad then ⟨0, 0⟩
      else drainElement t f mode d d1 seed lcore (drawOf seed lcore (srCounter (slotOf e.cmd.tid) (draw0 + i))) (x.getD i 0) i
        (res.map (fun l => l.getD i (.fin false 0 0))))
    match s.writeTile me a.cursor (Fmt.bytes f) (rs.map FRes.bits) 0 with
    | (_, .hold) => none
    | (s, .fault c) => some (s, faultStatus c 0)
    | (s, .ok (some (i, c))) => some (s.raiseFor e.cmd.tid (rs.foldl (fun g r => g ||| r.flags) 0), faultStatus c i)
    | (s, .ok none) => some ((clear s).raiseFor e.cmd.tid (rs.foldl (fun g r => g ||| r.flags) 0), if bad then 4 else 0)

/-- A failed image read of `dtload`, or the new table (13 R350); or the read is held, and only its waiting is left. -/
def State.loadTable (s : State) (e : VmuEntry) (sel : Nat) (a : Reg) : State × Option Word :=
  let me := e.cmd.core
  let put (s : State) (t : K8Table) : State × Option Word :=
    (s.setCore me { s.core me with table := t }, some (statusWord 0 0 (if t.encodable then 1 else 0)))
  match sel with
  | 1 => put s presetE4M3
  | 2 => put s presetE5M2
  | 3 => put s presetE2M1
  | _ =>
    match s.engRead e.cmd.party a.cursor 528 a.hostBit with
    | (s', .ok bs) => put s' (tableOfImage bs)
    | (s', .fault c) => (s', some (faultStatus c 0))
    | (s', .hold) => (s', none)

/-- Every earlier started operation on the same accumulator has made its accesses (13 R338). -/
def Core.accTurn (k : Core) (i : Nat) (e : VmuEntry) : Bool :=
  match e.accOf with
  | none => true
  | some x => (k.started.take i).all (fun f => f.accOf ≠ some x)

/-- One add into a scratch word: the flags, a skip with its cause, or a wait for another thread's reservation. -/
def State.scratchAdd (s : State) (cl off : Nat) (int : Bool) (v : Nat) : State × Acc FlagSet :=
  let p : Place := .clu cl off
  match s.localFlat p 4 with
  | .error c => (s, .fault c)
  | .ok fs =>
    if s.heldByOther none (fun r => fs.any (fun a => resvOnFlat a 1 r)) then (s, .hold)
    else
      let old := leNat (s.readLocal fs).1
      let r : FRes := if int then ⟨intBits 32 (intRead 32 true old + intRead 32 true v), 0⟩
        else fpAdd layF32 .rne 0 (fpRead layF32 old) (fpRead layF32 v)
      (s.writeLocal p fs (leBytes 4 r.bits) false, .ok r.flags)

/-- A finished press: a homed one adds into its accumulator, an any-home one hands its product to its ring (14 R365); one whose
session has gone with its load still finishes (14 R385). -/
def State.endPress (s : State) (e : VmuEntry) (g pos order idx : Nat) (ent : Word) : State :=
  let t := e.table.getD presetE4M3
  let cl := g / 4
  let stale := decide ((s.ring g).goCmd.map Cmd.load ≠ some e.cmd.load)
  if entAny ent then
    let (p, f) := mmaTile (entKindOf ent) (entTa ent) (entTb ent) t 0 0 (List.replicate 256 0) e.dataB e.dataC
    let s := s.raiseUnion cl f
    let r := s.ring g
    let add : AnyAdd := ⟨order, idx, entSoff ent, decide (entKindOf ent = .i8), pos, p⟩
    s.setRing g (if stale then { r with late := r.late ++ [(e.cmd.load, add)] } else { r with adds := r.adds ++ [add] })
  else
    let k := s.core e.cmd.core
    let (x, f) := e.accAfter (k.acc (entAcc ent))
    let s := (s.setCore e.cmd.core (k.setAcc (entAcc ent) x)).raiseUnion cl f
    let r := s.ring g
    if stale then s else s.setRing g { r with openPress := r.openPress - 1 }

/-- A started matrix operation carried out: the state and, unless one of its accesses is held, its status; a press has none. -/
def State.matRun (s : State) (e : VmuEntry) (m : MatOp) : State × Option Word :=
  let me := e.cmd.core
  match e.failed with
  | some c => (s, some (faultStatus c 0))
  | none =>
    match m with
    | .mma _ acc _ _ _ _ _ _ _ _ =>
      let k := s.core me
      let (x, f) := e.accAfter (k.acc acc)
      ((s.setCore me (k.setAcc acc x)).raiseFor e.cmd.tid f, some 0)
    | .mzero acc | .mld acc _ =>
      let k := s.core me
      (s.setCore me (k.setAcc acc (e.accAfter (k.acc acc)).1), some 0)
    | .mst acc a =>
      (match s.writeTile me a.cursor 4 ((s.core me).acc acc) 0 with
       | (_, .hold) => (s, none)
       | (s, .ok (some (i, c))) => (s, some (faultStatus c i))
       | (s, _) => (s, some 0))
    | .mrd _ _ _ => (s, some 0)
    | .mdrain acc f mode n d d1 a b seed lcore =>
      (match s.drain e acc f mode n d d1 a b seed lcore with
       | some (s, st) => (s, some st)
       | none => (s, none))
    | .dtload sel a => s.loadTable e sel a
    | .press g pos order idx _ ent => (s.endPress e g pos order idx ent, some 0)

/-- MATRIX_OP_COMPLETE (13 R339): the started operation at place `i` of a core has made its writes. -/
def execMatrixOpComplete (core i : Nat) (s : State) : Host.Outcome State Fault Refusal :=
  let k := s.core core
  match k.started[i]? with
  | some e =>
    (match e.op with
     | .mat m =>
       if k.accTurn i e then
         match (s.setCore core { k with started := k.started.eraseIdx i }).matRun e m with
         | (s', some st) => .next (s'.complete e.cmd st)
         | (s', none) => .next (s.keepWaiting s')
       else .next s
     | .vec _ => .next s)
  | none => .next s

/-- At a pre-emption, an `mma` of the load that still waits on its cell completes with 0x02 and detail[16] set, and so does
every later entry of the queue that the load issued (13 R354). -/
def State.preemptQueue (s : State) (core load : Nat) : State :=
  let k := s.core core
  match k.vq with
  | e :: _ =>
    (match e.op with
     | .mat (.mma _ _ _ _ _ _ _ _ (some _) _) =>
       if e.waitMet = false ∧ e.cmd.load = load then
         let mine (f : VmuEntry) : Bool := decide (f.cmd.load = load) && (match f.op with | .mat (.press _ _ _ _ _ _) => false | _ => true)
         let gone := k.vq.filter mine
         gone.foldl (fun s f => (s.entryGone f).complete f.cmd (statusWord 2 0 1)) (s.setCore core { k with vq := k.vq.filter (fun f => !mine f) })
       else s
     | _ => s)
  | [] => s

end Sys2Proof.Machine
end

