-- ==== Sys2Proof/Machine/Mangle.lean ====
section
/-!
DEFINITION. Sys2Proof/Machine/Mangle.lean: the mangle ring (14): half-steps, presses, sessions, the eight mg commands, and
what a pre-emption saves of it.
-/
namespace Sys2Proof.Machine

/-! ## The ring's parts -/

def ringHold (w : Word) : Nat := (w.extractLsb' 32 16).toNat
def ringLaps (w : Word) : Nat := (w.extractLsb' 24 8).toNat
def ringPeriod (w : Word) : Nat := (w.extractLsb' 12 12).toNat
def ringPass (w : Word) : Bool := w.getLsbD 0

/-- Valid entries that have not fired. -/
def Ring.unfired (r : Ring) : Nat := (r.table.filter (fun (_, e) => entV e && !entFired e)).length

/-- Latches of a family: `true` the lower. -/
def Ring.latches (r : Ring) (lower : Bool) : Table Sheet := if lower then r.lower else r.upper
def Ring.setLatches (r : Ring) (lower : Bool) (t : Table Sheet) : Ring := if lower then { r with lower := t } else { r with upper := t }

/-- Position of the sheet with a tag. -/
def Ring.find (r : Ring) (lower : Bool) (tag : Nat) : Option (Nat × Sheet) := (r.latches lower).find? (fun (_, x) => x.tag = tag)

/-- A family's injections that wait. -/
def Ring.tagWaits (r : Ring) (lower : Bool) (tag : Nat) : Bool :=
  r.waiting.any (fun w => decide (w.member = if lower then 3 else 2) && w.sheet.any (fun x => decide (x.tag = tag)))

/-- The live load that claims the ring of a group (14 R355). -/
def State.ringOwner (s : State) (g : Nat) : Option (Nat × Load) :=
  s.loads.find? (fun (_, l) => l.ring && (l.state == .live || l.state == .stopping) && decide (l.core0 ≤ 16 * g ∧ 16 * g < l.core0 + l.cores))

/-- The load that claims the ring is being pre-empted: no other count begins (14 R383). -/
def State.ringStopping (s : State) (g : Nat) : Bool := match s.ringOwner g with | some (_, l) => l.state == .stopping | none => false

/-- The issuer's load claims the ring of the issuer's group. -/
def State.claimsRing (s : State) (t : Thread) (g : Nat) : Bool :=
  match s.ringOwner g with | some (n, _) => decide (n = t.load) | none => false

/-- A write of a cell of the ring (14 R371), unversioned, for the `mg.go` that began the session. -/
def ringWrite (cmd : Cmd) (c : CellRef) (status : Word) : CellWrite :=
  ⟨{ cmd with cell := some c, lane := .open_ }, status, 1, none, 18, cmd.load, []⟩

/-- A cell of the ring is written, or waits to be. -/
def State.ringCell (s : State) (g : Nat) (c : CellRef) (status : Word) : State :=
  match (s.ring g).goCmd with
  | some cmd => s.writeCell (ringWrite cmd c status)
  | none => s

/-- The lane of a ring's commands: they are applied one at a time, in the order they reach it (14 R373). -/
def Cmd.inRing (c : Cmd) : Cmd := { c with lane := .ring (groupOf c.core) }

/-- Commands at the ring wait for step 6 of its count. -/
def Ring.step6Waits (r : Ring) : Bool := r.waiting.any (fun w => w.sheet.isNone)

/-! ## Placing injections (14 R376) -/

def statusPlaced (t : Nat) : Word := statusWord 0 0 (t % 2 ^ 48)

/-- Waiting injections are placed, at count `t`, in the order in which they came; one without wait that finds its latch
full ends with 0x83. -/
def State.placeWaiting (s : State) (g t : Nat) : List RingCmd → State
  | [] => s
  | w :: rest =>
    match w.sheet with
    | none => s.placeWaiting g t rest
    | some x =>
      let r := s.ring g
      let lower := decide (w.member = 3)
      if (tget (r.latches lower) w.pos).isNone then
        let r := r.setLatches lower (tput (r.latches lower) w.pos { x with lap := 0, inj := w.pos, t := t })
        ((s.setRing g { r with waiting := r.waiting.filter (· ≠ w) }).complete w.cmd (statusPlaced t)).placeWaiting g t rest
      else if w.d.getLsbD 0 then s.placeWaiting g t rest
      else ((s.setRing g { r with waiting := r.waiting.filter (· ≠ w) }).complete w.cmd 0x83).placeWaiting g t rest

def State.placeInjections (s : State) (g t : Nat) : State := s.placeWaiting g t (s.ring g).waiting

/-! ## Applying commands -/

/-- The image of a sheet (14 R356). -/
def Sheet.header (x : Sheet) (lower : Bool) : Quad :=
  BitVec.ofNat 128 ((if lower then 2 ^ 32 else 0) + x.inj % 16 * 2 ^ 28 + x.lap % 256 * 2 ^ 20 + x.use_ % 256 * 2 ^ 12 + x.fmt % 16 * 2 ^ 8 + x.tag % 256)
def Sheet.image (x : Sheet) (lower : Bool) : List Byte := quadBytes (x.header lower) ++ x.tile ++ zeroBytes (512 - x.tile.length)

/-- A malformed valid entry (14 R375). -/
def entryBad (e : Word) : Bool :=
  entV e && (!(decide (2 ≤ entFmt e) && decide (entFmt e ≤ 5)) || decide (e.extractLsb' 2 21 ≠ 0) || entFired e
    || (entAny e && (decide (entHome e ≠ 0) || entAcc e)) || (!entAny e && decide (entSoff e ≠ 0)))

/-- The end of one command: done with its status; or held at an access. -/
abbrev Applied := State × Option Word

/-- `mg.tbl` applied (14 R375). -/
def State.applyTbl (s : State) (g : Nat) (w : RingCmd) : Applied :=
  let first := fld w.d 0 8
  let n := fld w.d 8 9
  match s.engRead w.cmd.party w.a.cursor (8 * n) w.a.hostBit with
  | (s', .fault c) => (s', some (faultStatus c 0))
  | (s', .hold) => (s.keepWaiting s', none)
  | (s', .ok bs) =>
    let es := (List.range n).map (fun i => BitVec.ofNat 64 (leNat ((bs.drop (8 * i)).take 8)))
    match (List.range n).find? (fun i => entryBad (es.getD i 0)) with
    | some i => (s', some (statusWord 0x85 0 (first + i)))
    | none =>
      let r := s'.ring g
      let t := (List.range n).foldl (fun t i => let e := es.getD i 0; if entV e then tput t (first + i) e else tdel t (first + i)) r.table
      (s'.setRing g { r with table := t }, some 0)

/-- The line `mg.stat` writes (14 R378). -/
def Ring.statLine (r : Ring) : List Byte :=
  let occ (t : Table Sheet) : Nat := maskOf (t.map Prod.fst)
  let st := match r.state with | .off => 0 | .ready => 1 | .running => 2
  leBytes 8 (st + (if ringPass r.config then 4 else 0)) ++ leBytes 8 r.next ++ leBytes 8 r.presses ++ leBytes 8 r.misses
    ++ leBytes 8 r.stranded ++ leBytes 8 (r.unfired + occ r.upper * 2 ^ 16 + occ r.lower * 2 ^ 32) ++ leBytes 8 r.heldCycles
    ++ wordBytes r.config

def State.applyStat (s : State) (g : Nat) (w : RingCmd) : Applied :=
  match s.engWrite w.cmd.party w.a.cursor (s.ring g).statLine w.a.hostBit w.a.unv false with
  | (s', .ok ()) => (s', some 0)
  | (s', .fault c) => (s', some (faultStatus c 0))
  | (s', .hold) => (s.keepWaiting s', none)

/-- `mg.ej` applied (14 R379). -/
def State.applyEj (s : State) (g : Nat) (w : RingCmd) : Applied :=
  let lower := w.d.getLsbD 8
  match (s.ring g).find lower (fld w.d 0 8) with
  | none => (s, some 0x82)
  | some (p, x) =>
    match s.engWrite w.cmd.party w.a.cursor (x.image lower) w.a.hostBit w.a.unv false with
    | (s', .fault c) => (s', some (faultStatus c 0))
    | (s', .hold) => (s.keepWaiting s', none)
    | (s', .ok ()) =>
      let r := s'.ring g
      (s'.setRing g (r.setLatches lower (tdel (r.latches lower) p)), some (statusWord 0 0 p))

/-- A command of step 6 applied; one whose hypothesis is refuted ends with 0x02 (14 R382). -/
def State.applyStep6 (s : State) (g : Nat) (w : RingCmd) : Applied :=
  if s.refuted w.cmd.part w.cmd.hid then (s, some 2)
  else match w.member with
    | 1 => s.applyTbl g w
    | 6 => s.applyStat g w
    | _ => s.applyEj g w

/-- Commands of step 6 in the order in which they came; false where one is held. -/
def State.runStep6 (s : State) (g : Nat) : List RingCmd → State × Bool
  | [] => (s, true)
  | w :: rest =>
    if w.sheet.isSome then s.runStep6 g rest
    else match s.applyStep6 g w with
      | (s', some st) =>
        let r := s'.ring g
        ((s'.setRing g { r with waiting := r.waiting.filter (· ≠ w) }).complete w.cmd st).runStep6 g rest
      | (s', none) => (s', false)

/-- A ring that is not running applies what waits. -/
def State.drainReady (s : State) (g : Nat) : State := ((s.runStep6 g (s.ring g).waiting).1).placeInjections g (s.ring g).next

/-! ## Half-steps (14 R358 to R370) -/

/-- Step 1. -/
def Ring.move (r : Ring) (h : Nat) : Ring :=
  if h = 0 then r
  else if h % 2 = 1 then { r with upper := r.upper.foldl (fun t (p, x) => tput t ((p + 1) % 16) x) [] }
  else { r with lower := r.lower.foldl (fun t (p, x) => tput t ((p + 15) % 16) x) [] }

/-- Step 2 for a family: laps, and sheets ejected as stranded with their positions. -/
def lapFamily (limit h : Nat) (t : Table Sheet) : Table Sheet × List (Nat × Sheet) :=
  let t := t.map (fun (p, x) => (p, if x.t < h ∧ (h - x.t) % 32 = 0 then { x with lap := x.lap + 1 } else x))
  let out (x : Sheet) : Bool := decide (x.t < h ∧ (h - x.t) % 32 = 0 ∧ x.lap = limit ∧ 0 < x.use_)
  (t.filter (fun (_, x) => !out x), t.filter (fun (_, x) => out x))

/-- The fault cell's status of a stranded sheet (14 R371). -/
def strandedStatus (lower : Bool) (x : Sheet) (p h : Nat) : Word :=
  statusWord 0x80 0 ((if lower then 1 else 0) + x.tag % 256 * 2 + x.use_ % 256 * 2 ^ 9 + p % 16 * 2 ^ 17 + h % 2 ^ 27 * 2 ^ 21)

def State.ringLapsStep (s : State) (g h : Nat) : State :=
  let r := s.ring g
  let (u, outU) := lapFamily (ringLaps r.config) h r.upper
  let (l, outL) := lapFamily (ringLaps r.config) h r.lower
  let s := s.setRing g { r with upper := u, lower := l, stranded := r.stranded + outU.length + outL.length }
  let s := outU.foldl (fun s (p, x) => s.ringCell g (s.ring g).faultCell (strandedStatus false x p h)) s
  outL.foldl (fun s (p, x) => s.ringCell g (s.ring g).faultCell (strandedStatus true x p h)) s

/-- `fire` (14 R363): the press enters the queue of its position's core. -/
def State.firePress (s : State) (g h p idx : Nat) : State :=
  let r := s.ring g
  match tget r.upper p, tget r.lower p, tget r.table idx with
  | some u, some l, some e =>
    let core := 16 * g + p
    let load := (s.ringOwner g).map Prod.fst |>.getD 0
    let cmd : Cmd := ⟨2 ^ 28, 0, .open_, load, 0, core, 0, 0, .mod, none, 0⟩
    let press := { VmuEntry.fresh cmd (.mat (.press g p (16 * h + p) idx r.cls e)) 0 with dataB := u.tile, dataC := l.tile }
    let k := s.core core
    let s := s.setCore core { k with vq := k.vq ++ [press] }
    s.setRing g { r with
      upper := tput r.upper p { u with use_ := u.use_ - 1 }, lower := tput r.lower p { l with use_ := l.use_ - 1 }
      table := tput r.table idx (e ||| 2#64), presses := r.presses + 1, openPress := r.openPress + 1
      pend := if entAny e then sinsert r.pend (16 * h + p) else r.pend }
  | _, _, _ => s

/-- `check` (14 R363) at one position, with hold or miss (R366). -/
def State.checkPos (s : State) (g h p : Nat) : State :=
  let r := s.ring g
  match tget r.upper p, tget r.lower p with
  | some u, some l =>
    let es := r.table.filter (fun (_, e) => entV e && !entFired e && decide (entUtag e = u.tag) && decide (entLtag e = l.tag)
      && decide (entFmt e = u.fmt) && decide (u.fmt = l.fmt) && (entAny e || decide (entHome e = p)))
    (match es with
     | [] => s
     | (idx, _) :: rest =>
       let s := s.setRing g { r with misses := r.misses + rest.length }
       if (s.core (16 * g + p)).vq.length < 4 then s.firePress g h p idx
       else
         let r := s.ring g
         if ringPass r.config ∨ ringHold r.config = 0 then s.setRing g { r with misses := r.misses + 1 }
         else s.setRing g { r with encounters := r.encounters ++ [⟨p, idx, s.cycle⟩] })
  | _, _ => s

/-- Steps 5 and 6 of the count `next` (14 R358): retirement, commands, the completion test. -/
def State.endCount (s : State) (g : Nat) : State :=
  let r := s.ring g
  let live (t : Table Sheet) : Table Sheet := t.filter (fun (_, x) => decide (0 < x.use_))
  let (s, ok) := (s.setRing g { r with upper := live r.upper, lower := live r.lower, midCount := true }).runStep6 g r.waiting
  if !ok then s
  else
    let r := s.ring g
    let ending := if r.unfired = 0 then some 0 else if r.haltAsk ≠ [] then some 2 else none
    s.setRing g { r with midCount := false, next := r.next + 1, ending := ending }

/-- HALF_STEP (14 R358): the count `next`, or the rest of one whose step 6 was held; a ready ring applies what it holds. -/
def execHalfStep (ring : Nat) (s : State) : Host.Outcome State Fault Refusal :=
  let r := s.ring ring
  if r.state = .ready ∧ r.waiting ≠ [] then .next (s.drainReady ring)
  else if r.state ≠ .running ∨ r.ending.isSome ∨ r.encounters ≠ [] then .next s
  else if r.midCount then .next (s.endCount ring)
  else if s.cycle < r.nextAt ∨ s.ringStopping ring then .next s
  else
    let h := r.next
    let s := s.setRing ring { r.move h with nextAt := s.cycle + ringPeriod r.config }
    let s := (s.ringLapsStep ring h).placeInjections ring h
    let s := (List.range 16).foldl (fun s p => s.checkPos ring h p) s
    if (s.ring ring).encounters = [] then .next (s.endCount ring) else .next s

/-- An encounter is over, after at most the hold limit; with the last of them the count goes on (log 70, DEDUCED). -/
def State.closeEncounter (s : State) (g : Nat) (e : Encounter) : State :=
  let r := s.ring g
  let held := min (s.cycle - e.since) (ringHold r.config)
  let s := s.setRing g { r with encounters := r.encounters.filter (· ≠ e), heldCycles := r.heldCycles + held }
  if (s.ring g).encounters = [] then s.endCount g else s

/-- A held encounter fires where its queue has a free entry and its limit is not reached. -/
def State.fireHeld (s : State) (ring : Nat) (e : Encounter) : State :=
  let r := s.ring ring
  if r.state = .running ∧ (s.core (16 * ring + e.pos)).vq.length < 4 ∧ s.cycle < e.since + ringHold r.config then
    (s.firePress ring r.next e.pos e.idx).closeEncounter ring e
  else s

/-- HELD_ENCOUNTER_FIRE (14 R366). -/
def execHeldEncounterFire (ring pos : Nat) (s : State) : Host.Outcome State Fault Refusal :=
  match (s.ring ring).encounters.find? (fun e => e.pos = pos) with
  | some e => .next (s.fireHeld ring e)
  | none => .next s

/-- Held encounters fire as soon as a queue has a free entry, before an instruction that waits for it (14 R366) (log 132, DESIGN
CHOICE). -/
def State.fireAllHeld (s : State) : State := s.rings.foldl (fun s (g, r) => r.encounters.foldl (fun s e => s.fireHeld g e) s) s

/-- ENCOUNTER_HOLD_EXPIRY (14 R366): the encounter is missed at the limit. -/
def execEncounterHoldExpiry (ring pos : Nat) (s : State) : Host.Outcome State Fault Refusal :=
  let r := s.ring ring
  match r.encounters.find? (fun e => e.pos = pos) with
  | some e =>
    if r.state = .running ∧ e.since + ringHold r.config ≤ s.cycle then
      .next ((s.setRing ring { r with misses := r.misses + 1 }).closeEncounter ring e)
    else .next s
  | none => .next s

/-! ## Any-home adds (14 R365) -/

/-- A press's adds from element `e` on; an add whose word is out of reach is skipped and reported (log 71, DESIGN CHOICE). -/
def State.addAll (s : State) (g : Nat) (x : AnyAdd) : List Nat → Nat → Option State
  | [], _ => some s
  | v :: r, e =>
    match s.scratchAdd (g / 4) (x.soff * 1024 + 4 * e) x.int v with
    | (_, .hold) => none
    | (s, .ok f) => (s.raiseUnion (g / 4) f).addAll g x r (e + 1)
    | (s, .fault c) =>
      let k := s.ring g
      ((s.setRing g { k with badAdd := true }).ringCell g k.faultCell (faultStatus c (x.idx % 256 + e % 256 * 2 ^ 8 + x.pos % 16 * 2 ^ 16))).addAll g x r (e + 1)

/-- The press's turn in firing order: no press before it is unfinished, and no encounter before it is open. -/
def Ring.addTurn (r : Ring) (x : AnyAdd) : Bool :=
  r.pend.all (fun o => decide (x.order ≤ o)) &&
    r.encounters.all (fun e => decide (x.order < 16 * r.next + e.pos) || !((tget r.table e.idx).map entAny).getD false)

/-- The adds of a press whose session has gone with its load, with nothing left to report a skipped one to (14 R385) (log 116, DESIGN CHOICE,
DESIGN CHOICE). -/
def State.addSilent (s : State) (cl soff : Nat) (int : Bool) : List Nat → Nat → Option State
  | [], _ => some s
  | v :: r, e =>
    match s.scratchAdd cl (soff * 1024 + 4 * e) int v with
    | (_, .hold) => none
    | (s, .ok f) => (s.raiseUnion cl f).addSilent cl soff int r (e + 1)
    | (s, .fault _) => s.addSilent cl soff int r (e + 1)

/-- The same turn among the presses of a load that has ended. -/
def Ring.lateTurn (r : Ring) (x : Nat × AnyAdd) : Bool := r.latePend.all (fun (l, o) => decide (l ≠ x.1 ∨ x.2.order ≤ o))

/-- The next press of a load that has ended adds its product. -/
def State.addLate (s : State) (ring : Nat) : State :=
  let r := s.ring ring
  match r.late.find? r.lateTurn with
  | some x =>
    (match s.addSilent (ring / 4) x.2.soff x.2.int x.2.prod 0 with
     | some s' =>
       let r := s'.ring ring
       s'.setRing ring { r with late := r.late.filter (· ≠ x), latePend := r.latePend.filter (· ≠ (x.1, x.2.order)) }
     | none => s)
  | none => s

/-- ANY_HOME_ADD (14 R365): the next press in firing order adds its product into its scratch tile; with none of a session, one of a
session that is gone. -/
def execAnyHomeAdd (ring : Nat) (s : State) : Host.Outcome State Fault Refusal :=
  let r := s.ring ring
  match r.adds.find? r.addTurn with
  | some x =>
    (match s.addAll ring x x.prod 0 with
     | some s' =>
       let r := s'.ring ring
       .next (s'.setRing ring { r with adds := r.adds.filter (· ≠ x), pend := r.pend.filter (· ≠ x.order), openPress := r.openPress - 1 })
     | none => .next s)
  | none => .next (s.addLate ring)

/-! ## The session's end (14 R370) -/

def Ring.sessionStatus (r : Ring) (code : Nat) : Word :=
  BitVec.ofNat 64 (min r.misses 0xFFFF * 2 ^ 48 + r.presses % 2 ^ 32 * 2 ^ 16 + code)

/-- SESSION_COMPLETE (14 R370): every press of an ended session is performed; the session cell is written, then the cells
of the halts, and the ring is ready. -/
def execSessionComplete (ring : Nat) (s : State) : Host.Outcome State Fault Refusal :=
  let r := s.ring ring
  match r.ending with
  | some code =>
    if r.state = .running ∧ r.openPress = 0 ∧ r.midCount = false then
      let code := if code = 0 ∧ r.badAdd then 0x81 else code
      match r.goCmd.map (fun cmd => s.endCell (ringWrite cmd r.session (r.sessionStatus code))) with
      | some (s', false) => .next s'  -- the ring is ready only once its session cell is written
      | written =>
        let s := ((written.map Prod.fst).getD s).setRing ring { r with state := .ready, ending := none, haltAsk := [] }
        .next ((r.haltAsk.foldl (fun s c => s.complete c 0) s).drainReady ring)
    else .next s
  | none => .next s

/-! ## The commands (14 R372 to R380) -/

/-- `issue_mg` (14 R373): `bad` the reserved values of d, `own` the member's own checks, `span` what follows. -/
def State.mgChecks (s : State) (t : Thread) (c : RegNo) (bad : Bool) (own place last : List (Option Trap)) : List (Option Trap) :=
  need (s.claimsRing t (groupOf (coreOf s.cur))) (plainTrap 0x28) :: (cellCap (t.reg c) ++ [reservedIf bad] ++ own ++ cellPlace (t.reg c) ++ place ++ last)

/-- R24's check on a result operand (14 R373). -/
def mgWindow (t : Thread) (a : Reg) : List (Option Trap) := [opWindowUnv t.hid a]

/-- A ring command: behind an earlier one that is not complete it waits (14 R373). -/
def State.mgCommand (s : State) (i : Instr) (x : Cx) (c : RegNo) (checks : Thread → List (Option Trap)) (f : State → Thread → Eff) :
    Host.Outcome State Fault Refusal :=
  s.command i x checks (fun t => s.inLane (t.cmd s.cur x (t.reg c)).inRing (fun _ => f s t))

/-- A command at a ring that is not running is applied at once; at a running one it waits for step 6. -/
def State.ringCommand (s : State) (g : Nat) (w : RingCmd) : Eff :=
  let r := s.ring g
  if s.refuted w.cmd.part w.cmd.hid then .retire (s.complete w.cmd 2)
  else if r.state = .running then .retire (s.setRing g { r with waiting := r.waiting ++ [w] })
  else match s.applyStep6 g w with
    | (s', some st) => .retire ((if w.member = 7 then s'.placeInjections g (s'.ring g).next else s').complete w.cmd st)
    | (s', none) => s.pends s' w.cmd

/-- The effect of `mg.cfg` (14 R374). -/
def State.mgCfgEff (d a b c : RegNo) (x : Cx) (s : State) (t : Thread) : Eff :=
  let g := groupOf (coreOf s.cur)
  let cmd := (t.cmd s.cur x (t.reg c)).inRing
  let r := s.ring g
  if s.refuted t.part t.hid then .retire (s.complete cmd 2)
  else if r.state = .running then (if r.step6Waits then .pend s cmd else .retire (s.complete cmd 0x81))
  else
    let s := r.waiting.foldl (fun s w => s.complete w.cmd 2) s
    .retire ((s.setRing g { Ring.reset with
      state := .ready, config := (t.reg d).lo, session := cellRef (t.reg a), faultCell := cellRef (t.reg b)
      late := r.late, latePend := r.latePend }).complete cmd 0)

/-- `mg.cfg` (14 R374). -/
def execMgCfg (d a b c : RegNo) (x : Cx) (s : State) : Host.Outcome State Fault Refusal :=
  s.mgCommand (.mgCfg d a b c x) x c
    (fun t =>
      let q := (t.reg d).bits
      s.mgChecks t c (!zeroAbove q 48 || decide (fld q 24 8 = 0) || decide (fld q 12 12 < 12) || decide (fld q 1 11 ≠ 0))
        (cellCap (t.reg a) ++ cellCap (t.reg b)) (cellPlace (t.reg a) ++ cellPlace (t.reg b)) [cellUnv t.hid (t.reg c)])
    (State.mgCfgEff d a b c x)

/-- The effect of `mg.tbl` (14 R375). -/
def State.mgTblEff (d a c : RegNo) (x : Cx) (s : State) (t : Thread) : Eff :=
  let g := groupOf (coreOf s.cur)
  let cmd := (t.cmd s.cur x (t.reg c)).inRing
  if (s.ring g).state = .off ∧ s.refuted t.part t.hid = false then .retire (s.complete cmd 0x80)
  else s.ringCommand g ⟨cmd, 1, (t.reg d).bits, t.reg a, 0, none⟩

/-- `mg.tbl` (14 R375). -/
def execMgTbl (d a c : RegNo) (x : Cx) (s : State) : Host.Outcome State Fault Refusal :=
  s.mgCommand (.mgTbl d a c x) x c
    (fun t =>
      let q := (t.reg d).bits
      let ra := t.reg a
      let n := fld q 8 9
      s.mgChecks t c (!zeroAbove q 17 || decide (n = 0) || decide (256 < n) || decide (256 < fld q 0 8 + n))
        [opCap ra (permLD ||| permENG) (8 * n), opAlign ra 8] [opPlace ra (8 * n)] [cellUnv t.hid (t.reg c)])
    (State.mgTblEff d a c x)

/-- `apply_inj` (14 R376). -/
def State.inject (s : State) (g : Nat) (cmd : Cmd) (lower : Bool) (d : Quad) (a : Reg) (pos : Nat) : Eff :=
  if s.refuted cmd.part cmd.hid then .retire (s.complete cmd 2)
  else if (s.ring g).state = .off then .retire (s.complete cmd 0x80)
  else
    match s.engRead cmd.party a.cursor 16 a.hostBit with
    | (s', .fault c) => .retire (s'.complete cmd (faultStatus c 0))
    | (s', .hold) => s.pends s' cmd
    | (s', .ok hb) =>
      let h := leNat hb
      let fmt := h / 2 ^ 8 % 16
      let n := if fmt = 4 ∨ fmt = 5 then 256 else 512
      match s'.engRead cmd.party (a.cursor + 16) n a.hostBit with
      | (s', .fault c) => .retire (s'.complete cmd (faultStatus c 0))
      | (s', .hold) => s.pends s' cmd
      | (s', .ok tile) =>
        let tag := h % 256
        let use := h / 2 ^ 12 % 256
        let r := s'.ring g
        if (decide (h / 2 ^ 32 % 2 = 1) != lower) ∨ fmt < 2 ∨ 5 < fmt ∨ use = 0 ∨ h / 2 ^ 33 ≠ 0 then .retire (s'.complete cmd 0x85)
        else if (r.find lower tag).isSome ∨ r.tagWaits lower tag then .retire (s'.complete cmd 0x84)
        else
          let w : RingCmd := ⟨cmd, if lower then 3 else 2, d, a, pos, some ⟨tag, fmt, use, 0, pos, 0, tile⟩⟩
          let s' := s'.setRing g { r with waiting := r.waiting ++ [w] }
          .retire (if r.state = .running then s' else s'.placeInjections g r.next)

/-- The effect of an injection (14 R376). -/
def State.mgInjEff (lower : Bool) (d a c : RegNo) (x : Cx) (s : State) (t : Thread) : Eff :=
  s.inject (groupOf (coreOf s.cur)) (t.cmd s.cur x (t.reg c)).inRing lower (t.reg d).bits (t.reg a) (coreOf s.cur % 16)

/-- Both injections (14 R376). -/
def State.mgInj (s : State) (i : Instr) (lower : Bool) (d a c : RegNo) (x : Cx) : Host.Outcome State Fault Refusal :=
  s.mgCommand i x c
    (fun t =>
      let ra := t.reg a
      s.mgChecks t c (!zeroAbove (t.reg d).bits 1) [opCap ra (permLD ||| permENG) 528, opAlign ra 64] [opPlace ra 528] [cellUnv t.hid (t.reg c)])
    (State.mgInjEff lower d a c x)

def execMgInjU (d a c : RegNo) (x : Cx) (s : State) : Host.Outcome State Fault Refusal := s.mgInj (.mgInjU d a c x) false d a c x
def execMgInjL (d a c : RegNo) (x : Cx) (s : State) : Host.Outcome State Fault Refusal := s.mgInj (.mgInjL d a c x) true d a c x

/-- The effect of `mg.go` (14 R377, R370). -/
def State.mgGoEff (c : RegNo) (x : Cx) (s : State) (t : Thread) : Eff :=
  let g := groupOf (coreOf s.cur)
  let cmd := (t.cmd s.cur x (t.reg c)).inRing
  let r := s.ring g
  if s.refuted t.part t.hid then .retire (s.complete cmd 2)
  else match r.state with
    | .off => .retire (s.complete cmd 0x80)
    | .running => if r.step6Waits then .pend s cmd else .retire (s.complete cmd 0)
    | .ready =>
      let r := { r with goCmd := some cmd, cls := t.cls, presses := 0, misses := 0, stranded := 0, heldCycles := 0, badAdd := false
                        ending := none, haltAsk := [], pend := [], nextAt := s.cycle }
      if r.unfired = 0 then
        match (s.setRing g r).endCell (ringWrite cmd r.session (r.sessionStatus 0)) with
        | (s', true) => .retire (s'.complete cmd 0)
        | (s', false) => s.pends s' cmd
      else .retire ((s.setRing g { r with state := .running }).complete cmd 0)

/-- `mg.go` (14 R377). -/
def execMgGo (c : RegNo) (x : Cx) (s : State) : Host.Outcome State Fault Refusal :=
  s.mgCommand (.mgGo c x) x c (fun t => s.mgChecks t c false [] [] [cellUnv t.hid (t.reg c)]) (State.mgGoEff c x)

/-- The effect of `mg.halt` (14 R377): between two counts the session ends at once (log 69, DEDUCED). -/
def State.mgHaltEff (c : RegNo) (x : Cx) (s : State) (t : Thread) : Eff :=
  let g := groupOf (coreOf s.cur)
  let cmd := (t.cmd s.cur x (t.reg c)).inRing
  let r := s.ring g
  if s.refuted t.part t.hid then .retire (s.complete cmd 2)
  else if r.state = .running then
    if r.step6Waits then .pend s cmd
    else
      let r := { r with haltAsk := r.haltAsk ++ [cmd] }
      .retire (s.setRing g (if r.ending.isNone ∧ r.midCount = false ∧ r.encounters = [] then { r with ending := some 2 } else r))
  else .retire (s.complete cmd 0)

/-- `mg.halt` (14 R377). -/
def execMgHalt (c : RegNo) (x : Cx) (s : State) : Host.Outcome State Fault Refusal :=
  s.mgCommand (.mgHalt c x) x c (fun t => s.mgChecks t c false [] [] [cellUnv t.hid (t.reg c)]) (State.mgHaltEff c x)

/-- The effect of `mg.stat` (14 R378). -/
def State.mgStatEff (a c : RegNo) (x : Cx) (s : State) (t : Thread) : Eff :=
  s.ringCommand (groupOf (coreOf s.cur)) ⟨(t.cmd s.cur x (t.reg c)).inRing, 6, 0, t.reg a, 0, none⟩

/-- `mg.stat` (14 R378). -/
def execMgStat (a c : RegNo) (x : Cx) (s : State) : Host.Outcome State Fault Refusal :=
  s.mgCommand (.mgStat a c x) x c
    (fun t => let ra := t.reg a
      s.mgChecks t c false [opCap ra (permST ||| permENG) 64, opAlign ra 64] [opPlace ra 64] (mgWindow t ra))
    (State.mgStatEff a c x)

/-- The effect of `mg.ej` (14 R379). -/
def State.mgEjEff (d a c : RegNo) (x : Cx) (s : State) (t : Thread) : Eff :=
  let g := groupOf (coreOf s.cur)
  let cmd := (t.cmd s.cur x (t.reg c)).inRing
  if (s.ring g).state = .off ∧ s.refuted t.part t.hid = false then .retire (s.complete cmd 0x80)
  else s.ringCommand g ⟨cmd, 7, (t.reg d).bits, t.reg a, 0, none⟩

/-- `mg.ej` (14 R379). -/
def execMgEj (d a c : RegNo) (x : Cx) (s : State) : Host.Outcome State Fault Refusal :=
  s.mgCommand (.mgEj d a c x) x c
    (fun t => let ra := t.reg a
      s.mgChecks t c (!zeroAbove (t.reg d).bits 9) [opCap ra (permST ||| permENG) 528, opAlign ra 64] [opPlace ra 528] (mgWindow t ra))
    (State.mgEjEff d a c x)

/-! ## Refutes, pre-emption, release (14 R382 to R385) -/

/-- Commands that wait at a ring under a refuted hypothesis end with 0x02. -/
def State.refuteRings (s : State) (part : Nat) : State :=
  s.rings.foldl (fun s (g, r) =>
    let gone := r.waiting.filter (fun w => decide (w.cmd.part = part) && s.refuted part w.cmd.hid)
    if gone = [] then s
    else
      let k := s.ring g
      gone.foldl (fun s w => s.complete w.cmd 2) (s.setRing g { k with waiting := k.waiting.filter (fun w => !gone.contains w) })) s

/-- Any-home presses of a ring that stand in the queues of quarantined cores: they never complete (01 R40). -/
def State.deadPresses (s : State) (g : Nat) : List Nat :=
  (List.range 16).flatMap (fun p =>
    let k := s.core (16 * g + p)
    if k.quarantined then (k.vq ++ k.started).filterMap (fun e => match e.op with | .mat (.press h _ order _ _ _) => if h = g then some order else none | _ => none)
    else [])

/-- A ring goes off: latches, table and counters are discarded without any write (14 R357). Commands that wait there end
with code 0x02, and presses already fired finish, with their adds in firing order (14 R385) (log 74, DEDUCED). -/
def State.ringOff (s : State) (g : Nat) : State :=
  let r := s.ring g
  let load := (r.goCmd.map Cmd.load).getD 0
  let dead := s.deadPresses g
  let s := s.setRing g { Ring.reset with
    late := r.late ++ r.adds.map (fun x => (load, x))
    latePend := r.latePend ++ (r.pend.filter (fun o => !dead.contains o)).map (fun o => (load, o)) }
  (r.waiting.map RingCmd.cmd ++ r.haltAsk).foldl (fun s c => s.complete c 2) s

/-- At a pre-emption (14 R383 steps 1 and 2): the ring has no count in progress; waiting commands are applied and waiting
injections end with 0x02 and detail[16] set. -/
def State.ringQuiet (s : State) (g : Nat) : Bool :=
  let r := s.ring g
  !r.midCount && decide (r.encounters = []) && decide (r.openPress = 0)

def State.ringCancel (s : State) (g : Nat) : State :=
  let s := (s.runStep6 g (s.ring g).waiting).1
  let r := s.ring g
  let gone := r.waiting.filter (fun w => w.sheet.isSome)
  gone.foldl (fun s w => s.complete w.cmd (statusWord 2 0 1)) (s.setRing g { r with waiting := r.waiting.filter (fun w => w.sheet.isNone) })

/-- The ring state of position `p` in its core's save record, 2,048 bytes (14 R383) (log 72, DEDUCED). -/
def Ring.saveImage (r : Ring) (p : Nat) : List Byte :=
  let latch (lower : Bool) : List Byte := match tget (r.latches lower) p with | some x => x.image lower | none => zeroBytes 528
  let st := match r.state with | .off => 0 | .ready => 1 | .running => 2
  latch false ++ latch true ++ zeroBytes 32
    ++ (List.range 16).flatMap (fun i => wordBytes ((tget r.table (16 * p + i)).getD 0))
    ++ (if p = 0 then
          wordBytes r.config ++ wordBytes r.session.addr ++ wordBytes r.faultCell.addr ++ leBytes 8 r.next
            ++ leBytes 8 (st + r.cls % 4 * 4) ++ leBytes 8 r.presses ++ leBytes 8 r.misses ++ leBytes 8 r.stranded
        else zeroBytes 64)
    ++ zeroBytes 768

/-- A sheet read back from its saved image: `next` the ring's count, `m` the kept value of (next − t) mod 32 (14 R383). -/
def sheetOfImage (bs : List Byte) (next m : Nat) : Option Sheet :=
  let h := leNat (bs.take 16)
  let lap := h / 2 ^ 20 % 256
  let fmt := h / 2 ^ 8 % 16
  if h = 0 then none
  else some ⟨h % 256, fmt, h / 2 ^ 12 % 256, lap, h / 2 ^ 28 % 16, next - 32 * lap - m,
    (bs.drop 16).take (if fmt = 4 ∨ fmt = 5 then 256 else 512)⟩

/-- A ring taken back from the 16 saved images of its positions; what they do not hold comes from `kept` (14 R384). -/
def Ring.restored (kept : Ring) (imgs : List (List Byte)) (cycle : Nat) : Ring :=
  let img (p : Nat) : List Byte := imgs.getD p []
  let w (i : Nat) : Word := BitVec.ofNat 64 (leNat (((img 0).drop (0x4C0 + 8 * i)).take 8))
  let next := (w 3).toNat
  let st := (w 4).toNat
  let back (lower : Bool) : Table Sheet := (List.range 16).filterMap (fun p =>
    let m := match tget (kept.latches lower) p with | some x => (kept.next - x.t) % 32 | none => 0
    (sheetOfImage (((img p).drop (if lower then 0x210 else 0)).take 528) next m).map (fun x => (p, x)))
  let entry (i : Nat) : Word := BitVec.ofNat 64 (leNat (((img (i / 16)).drop (0x440 + 8 * (i % 16))).take 8))
  { kept with
    config := w 0, session := { kept.session with addr := w 1 }, faultCell := { kept.faultCell with addr := w 2 }, next := next
    state := match st % 4 with | 0 => .off | 1 => .ready | _ => .running
    cls := st / 4 % 4, presses := (w 5).toNat, misses := (w 6).toNat, stranded := (w 7).toNat, upper := back false, lower := back true
    table := (List.range 256).filterMap (fun i => if entV (entry i) then some (i, entry i) else none)
    nextAt := cycle + ringPeriod (w 0) }

end Sys2Proof.Machine
end

