-- ==== Sys2Proof/Machine/Combining.lean ====
section
/-!
DEFINITION. Sys2Proof/Machine/Combining.lean: the combining engine (16): barriers, reduction trees and their five commands.
-/
namespace Sys2Proof.Machine

/-! ## Issue (16 R421, R422) -/

/-- The optional cell: none where c names c0. -/
def Thread.optCmd (t : Thread) (tid : Nat) (x : Cx) (c : RegNo) : Cmd := t.cmdOpt tid x (if c = 0 then none else some (t.reg c))

/-- `bar.exp` and `bar.arr` descriptors. -/
def barNo (q : Quad) : Nat := fld q 0 4
def barFree (q : Quad) : Bool := q.getLsbD 5
def barN (q : Quad) : Nat := fld q 32 32
def barOff (q : Quad) : Nat := fld q 64 39

def barExpReserved (q : Quad) : Bool :=
  decide (fld q 103 25 ≠ 0) || decide (fld q 64 3 ≠ 0) || decide (fld q 6 26 ≠ 0) || q.getLsbD 4
    || (barFree q && (decide (barN q ≠ 0) || decide (barOff q ≠ 0)))

def barArrReserved (q : Quad) : Bool := decide (fld q 64 64 ≠ 0) || decide (fld q 4 28 ≠ 0) || decide (barN q = 0)

/-- `issue_comb` (16 R422): `own` the member's checks, `place` R23 check 3 of its operands, `late` its UNV checks. -/
def combChecks (t : Thread) (c : RegNo) (bad : Bool) (own place late : List (Option Trap)) : List (Option Trap) :=
  let cell (f : Reg → List (Option Trap)) : List (Option Trap) := if c = 0 then [] else f (t.reg c)
  [reservedIf bad] ++ cell cellCap ++ own ++ place ++ cell cellPlace ++ [cellUnv t.hid (t.reg c)] ++ late

/-- A command of a barrier or a tree of the issuer's cluster: each takes its commands one at a time (16 R423). -/
def Cmd.inComb (c : Cmd) (tree : Bool) (num : Nat) : Cmd := { c with lane := .comb (clusterOf c.core) tree num }

/-- A combining command completes; its cell is not versioned (16 R422). -/
def State.combDone (s : State) (cmd : Cmd) (code : Nat) (detail : Nat) : State := s.completeAs cmd (statusWord code 0 detail) 1 true

/-! ## Barriers (16 R424 to R427) -/

/-- The width order of scopes (01 R29). -/
def widerScope (a b : Scope) : Scope := if a.code.toNat < b.code.toNat then b else a

def State.setBar (s : State) (cl n : Nat) (b : Barrier) : State :=
  let k := s.cluster cl
  s.setCluster cl { k with bars := tput k.bars n b }

/-- The phase completes where arrivals have reached expectations: the phase word is written, or dropped where it cannot be.
None while another thread's reservation holds the word (07 R202) (log 76, DEDUCED). -/
def State.phaseTest (s : State) (cl n : Nat) : Option State :=
  match tget (s.cluster cl).bars n with
  | some b =>
    if 0 < b.e ∧ b.e ≤ b.a then
      let b' := { b with phase := (b.phase + 1) % 2 ^ 64, a := b.a - b.e, e := 0, scope := .clu }
      match s.localFlat (.clu cl b.off) 8 with
      | .ok fs =>
        if s.heldByOther none (fun r => fs.any (fun a => resvOnFlat a 1 r)) then none
        else some ((s.setBar cl n b').writeLocal (.clu cl b.off) fs (leBytes 8 b'.phase) false)
      | .error _ => some (s.setBar cl n b')
    else some s
  | none => some s

/-- BARRIER_PHASE_COMPLETE (16 R426). -/
def execBarrierPhaseComplete (cluster bar : Nat) (s : State) : Host.Outcome State Fault Refusal :=
  .next ((s.phaseTest cluster bar).getD s)

/-- `apply_bar_exp` (16 R425). -/
def State.applyBarExp (s : State) (cl : Nat) (cmd : Cmd) (q : Quad) : State :=
  let x := tget (s.cluster cl).bars (barNo q)
  if barFree q then
    match x with
    | none => s.combDone cmd 0 0
    | some b =>
      if b.owner ≠ cmd.load then s.combDone cmd 0x82 0
      else
        let k := s.cluster cl
        (s.setCluster cl { k with bars := tdel k.bars (barNo q) }).combDone cmd 0 0
  else
    let b := x.getD ⟨cmd.load, barOff q, 0, 0, 0, .clu⟩
    if b.owner ≠ cmd.load then s.combDone cmd 0x82 0
    else if b.off ≠ barOff q then s.combDone cmd 0x85 0
    else if 2 ^ 32 ≤ b.e + barN q then (s.setBar cl (barNo q) b).combDone cmd 0x83 0
    else (s.setBar cl (barNo q) { b with e := b.e + barN q, scope := widerScope b.scope cmd.scope }).combDone cmd 0 ((b.phase + 1) % 2 ^ 48)

/-- `apply_bar_arr` (16 R425). -/
def State.applyBarArr (s : State) (cl : Nat) (cmd : Cmd) (q : Quad) : State :=
  match tget (s.cluster cl).bars (barNo q) with
  | none => s.combDone cmd 0x80 0
  | some b =>
    if b.owner ≠ cmd.load then s.combDone cmd 0x82 0
    else if 2 ^ 32 ≤ b.a + barN q then s.combDone cmd 0x83 0
    else (s.setBar cl (barNo q) { b with a := b.a + barN q, scope := widerScope b.scope cmd.scope }).combDone cmd 0 ((b.phase + 1) % 2 ^ 48)

/-- The effect of a barrier command: the phase that the counts before it complete is completed first (16 R426). While a
reservation holds the phase word, the command waits at the engine. -/
def State.barEff (apply : State → Nat → Cmd → Quad → State) (d c : RegNo) (x : Cx) (s : State) (t : Thread) : Eff :=
  let q := (t.reg d).bits
  let cl := clusterOf (coreOf s.cur)
  let cmd := (t.optCmd s.cur x c).inComb false (barNo q)
  match s.phaseTest cl (barNo q) with
  | some s' => .retire (apply s' cl cmd q)
  | none => .pend s cmd

def State.barExpEff (d c : RegNo) (x : Cx) (s : State) (t : Thread) : Eff := s.barEff State.applyBarExp d c x t
def State.barArrEff (d c : RegNo) (x : Cx) (s : State) (t : Thread) : Eff := s.barEff State.applyBarArr d c x t

/-- A combining command: its checks, then its effect in the order of its barrier or tree (16 R422, R423). -/
def State.combine (s : State) (i : Instr) (c : RegNo) (x : Cx) (tree : Thread → Bool) (num : Thread → Nat) (checks : Thread → List (Option Trap))
    (f : State → Thread → Eff) : Host.Outcome State Fault Refusal :=
  s.command i x checks (fun t => s.inLane ((t.optCmd s.cur x c).inComb (tree t) (num t)) (fun _ => f s t))

/-- A barrier command. -/
def State.bar (s : State) (i : Instr) (d c : RegNo) (x : Cx) (bad : Quad → Bool) (f : State → Thread → Eff) : Host.Outcome State Fault Refusal :=
  s.combine i c x (fun _ => false) (fun t => barNo (t.reg d).bits) (fun t => combChecks t c (bad (t.reg d).bits) [] [] []) f

def execBarExp (d c : RegNo) (x : Cx) (s : State) : Host.Outcome State Fault Refusal :=
  s.bar (.barExp d c x) d c x barExpReserved (State.barExpEff d c x)
def execBarExpFree (d c : RegNo) (x : Cx) (s : State) : Host.Outcome State Fault Refusal :=
  s.bar (.barExpFree d c x) d c x barExpReserved (State.barExpEff d c x)
def execBarArr (d c : RegNo) (x : Cx) (s : State) : Host.Outcome State Fault Refusal :=
  s.bar (.barArr d c x) d c x barArrReserved (State.barArrEff d c x)

/-! ## Trees (16 R428 to R434) -/

def treeNo (q : Quad) : Nat := fld q 0 3
def treeFree (q : Quad) : Bool := q.getLsbD 8

/-- Fields of a tree's ctl word (16 R429). -/
def treeOp (w : Word) : Nat := w.toNat % 8
def treeBytes (w : Word) : Nat := w.toNat / 2 ^ 4 % 128
def treeChunks (w : Word) : Nat := w.toNat / 2 ^ 12 % 16
def treeRoot (w : Word) : Nat := w.toNat / 2 ^ 16 % 64
def treeTimeout (w : Word) : Nat := w.toNat / 2 ^ 32

/-- The cores-in-cluster that the load uses: those of its block and those its members stand on. -/
def State.loadUses (s : State) (cl load core : Nat) : Bool :=
  (match tget s.loads load with
   | some l => decide (l.core0 ≤ 64 * cl + core) && decide (64 * cl + core < l.core0 + l.cores)
   | none => false) || (s.core (64 * cl + core)).threads.any (fun (_, t) => decide (t.load = load))

/-- The lowest offending byte offset of a tree image (16 R430) (log 77, DEDUCED). -/
def State.imageBad (s : State) (cl load : Nat) (img : List Byte) : Option Nat :=
  let ctl := imgWord img 0
  let res := (imgWord img 8).toNat
  let perm := (img.drop 0x20).take 64
  let n := treeBytes ctl
  let used (x : Nat) : Bool := s.loadUses cl load x
  if ctl.toNat / 2 ^ 22 % 1024 ≠ 0 ∨ ctl.getLsbD 11 ∨ ctl.getLsbD 3 ∨ 4 < treeOp ctl ∨ n < 4 ∨ 64 < n
      ∨ n % (if treeOp ctl = 4 then 8 else 4) ≠ 0 ∨ used (treeRoot ctl) = false then some 0
  else if res % 64 ≠ 0 ∨ 2 ^ 33 ≤ res then some 8
  else match (List.range 16).find? (fun i => img.getD (0x10 + i) 0 ≠ 0) with
  | some i => some (0x10 + i)
  | none =>
    match (List.range 64).find? (fun i =>
        let x := (perm.getD i 0).toNat
        decide (x ≠ 0xFF) && (decide (64 ≤ x) || (perm.take i).any (fun y => decide (y.toNat = x)) || !used x)) with
    | some i => some (0x20 + i)
    | none =>
      if perm.all (fun x => decide (x.toNat = 0xFF)) then some 0x20
      else ((List.range 32).find? (fun i => img.getD (0x60 + i) 0 ≠ 0)).map (· + 0x60)

def Tree.leaves (t : Tree) : List Nat := t.perm.filter (fun x => decide (x ≠ 0xFF))

def Tree.gave (t : Tree) (leaf chunk : Nat) : Bool := t.given.any (fun (l, k, _) => decide (l = leaf ∧ k = chunk))

/-- The leaf has given every chunk of the round. -/
def Tree.gaveAll (t : Tree) (leaf : Nat) : Bool := (List.range (treeChunks t.ctl + 1)).all (fun k => t.gave leaf k)

def Tree.roundOver (t : Tree) : Bool := !t.closed && t.leaves.all t.gaveAll

def State.setTree (s : State) (cl n : Nat) (t : Tree) : State :=
  let k := s.cluster cl
  s.setCluster cl { k with trees := tput k.trees n t }

/-- Held sends complete with code 0x02 (16 R430, R436). -/
def State.endHolds (s : State) (holds : List HeldSend) (detail : Nat) : State := holds.foldl (fun s h => s.combDone h.cmd 2 detail) s

/-- A tree is released: its held sends complete with 0x02. -/
def State.freeTree (s : State) (cl n : Nat) : State :=
  let k := s.cluster cl
  match tget k.trees n with
  | some t => (s.setCluster cl { k with trees := tdel k.trees n }).endHolds t.holds 0
  | none => s

/-- `apply_red_cfg` (16 R430). -/
def State.redCfgEff (d a b c : RegNo) (x : Cx) (s : State) (t : Thread) : Eff :=
  let q := (t.reg d).bits
  let cl := clusterOf (coreOf s.cur)
  let n := treeNo q
  let cmd := (t.optCmd s.cur x c).inComb true n
  let old := tget (s.cluster cl).trees n
  if (match old with | some o => decide (o.owner ≠ t.load) | none => false) then .retire (s.combDone cmd 0x82 0)
  else if treeFree q then .retire ((s.freeTree cl n).combDone cmd 0 0)
  else
    match s.engRead cmd.party (t.reg a).cursor 128 (t.reg a).hostBit with
    | (s', .fault e) => .retire (s'.completeAs cmd (faultStatus e 0) 1 true)
    | (s', .hold) => s.pends s' cmd
    | (s', .ok img) =>
      match s'.imageBad cl t.load img with
      | some off => .retire (s'.combDone cmd 0x85 off)
      | none =>
        let tree : Tree :=
          { owner := t.load, closed := false, ctl := imgWord img 0, result := (imgWord img 8).toNat
            perm := ((img.drop 0x20).take 64).map BitVec.toNat, cmd := { cmd with cell := some (cellRef (t.reg b)) }
            round := 0, given := [], ran := 0, since := none, holds := [] }
        .retire (((s'.freeTree cl n).setTree cl n tree).combDone cmd 0 0)

/-- `red.cfg` (16 R430). -/
def State.redCfg (s : State) (i : Instr) (d a b c : RegNo) (x : Cx) : Host.Outcome State Fault Refusal :=
  s.combine i c x (fun _ => true) (fun t => treeNo (t.reg d).bits)
    (fun t =>
      let q := (t.reg d).bits
      let ra := t.reg a
      combChecks t c (decide (fld q 9 119 ≠ 0) || decide (fld q 3 5 ≠ 0) || (treeFree q && (decide (a ≠ 0) || decide (b ≠ 0))))
        (if treeFree q then [] else [opCap ra (permLD ||| permENG) 128, opAlign ra 64] ++ cellCap (t.reg b))
        (if treeFree q then [] else opPlace ra 128 :: cellPlace (t.reg b))
        (if treeFree q then [] else [cellUnv t.hid (t.reg b)]))
    (State.redCfgEff d a b c x)

def execRedCfg (d a b c : RegNo) (x : Cx) (s : State) : Host.Outcome State Fault Refusal := s.redCfg (.redCfg d a b c x) d a b c x
def execRedCfgFree (d a b c : RegNo) (x : Cx) (s : State) : Host.Outcome State Fault Refusal := s.redCfg (.redCfgFree d a b c x) d a b c x

def sendBytes (q : Quad) : Nat := fld q 16 8
def sendChunk (q : Quad) : Nat := fld q 8 4

/-- What applying a `red.send` comes to. -/
inductive Sending where
  | done (s : State)
  | wait
  | held (s : State)

/-- `apply_red_send` (16 R431), from the top; `wait` says that it must be held at its leaf router. -/
def State.applySend (s : State) (cl n : Nat) (h : HeldSend) : Sending :=
  if s.refuted h.cmd.part h.cmd.hid then .done (s.combDone h.cmd 2 0)
  else match tget (s.cluster cl).trees n with
  | none => .done (s.combDone h.cmd 0x80 0)
  | some t =>
    if t.owner ≠ h.cmd.load then .done (s.combDone h.cmd 0x82 0)
    else if t.closed then .done (s.combDone h.cmd 0x84 0)
    else if t.leaves.contains h.leaf = false then .done (s.combDone h.cmd 0x81 0)
    else if treeChunks t.ctl < h.chunk ∨ h.bytes ≠ treeBytes t.ctl then .done (s.combDone h.cmd 0x85 0)
    else if t.gave h.leaf h.chunk || t.holds.any (fun y => decide (y.leaf = h.leaf ∧ y.chunk = h.chunk)) then .wait
    else
      match s.engRead h.cmd.party h.a.cursor h.bytes h.a.hostBit with
      | (s', .fault e) => .done (s'.completeAs h.cmd (faultStatus e 0) 1 true)
      | (s', .hold) => .held s'
      | (s', .ok bs) =>
        let t := { t with given := t.given ++ [(h.leaf, h.chunk, bs)], since := if t.given = [] then some s.cycle else t.since }
        .done ((s'.setTree cl n t).combDone h.cmd 0 (t.round % 2 ^ 48))

/-- The contribution a thread's `red.send` brings. -/
def Thread.sendOf (t : Thread) (tid : Nat) (d a c : RegNo) (x : Cx) : HeldSend :=
  let q := (t.reg d).bits
  ⟨(t.optCmd tid x c).inComb true (treeNo q), coreOf tid % 64, sendChunk q, sendBytes q, t.reg a⟩

/-- A send of the same load, leaf, chunk and size is held at the leaf router, or waits behind earlier commands of its tree. -/
def State.sendHeld (s : State) (cl n : Nat) (h : HeldSend) : Bool :=
  let same (y : HeldSend) : Bool := decide (y.leaf = h.leaf ∧ y.chunk = h.chunk ∧ y.bytes = h.bytes ∧ y.cmd.load = h.cmd.load)
  (match tget (s.cluster cl).trees n with
   | some t => t.holds.any same
   | none => false)
    || s.heldCmds.any (fun y => decide (y.cmd.lane = h.cmd.lane) &&
        (match y.instr with
         | .redSend d a c x => same (y.thread.sendOf y.cmd.tid d a c x)
         | _ => false))

/-- The effect of `red.send` (16 R431). -/
def State.redSendEff (d a c : RegNo) (x : Cx) (s : State) (t : Thread) : Eff :=
  let n := treeNo (t.reg d).bits
  let cl := clusterOf (coreOf s.cur)
  let h := t.sendOf s.cur d a c x
  match s.applySend cl n h with
  | .done s' => .retire s'
  | .held s' => s.pends s' h.cmd
  | .wait =>
    match tget (s.cluster cl).trees n with
    | some tr => .retire (s.setTree cl n { tr with holds := tr.holds ++ [h] })
    | none => .retire s

/-- `red.send` (16 R431). A send that would need a second hold of its leaf and chunk waits at issue. -/
def execRedSend (d a c : RegNo) (x : Cx) (s : State) : Host.Outcome State Fault Refusal :=
  s.command (.redSend d a c x) x
    (fun t =>
      let q := (t.reg d).bits
      let ra := t.reg a
      let n := sendBytes q
      combChecks t c (decide (fld q 24 104 ≠ 0) || decide (fld q 12 4 ≠ 0) || decide (fld q 3 5 ≠ 0) || decide (n < 4) || decide (64 < n))
        [opCap ra (permLD ||| permENG) n, opAlign ra 8] [opPlace ra n] [])
    (fun t =>
      let h := t.sendOf s.cur d a c x
      let n := treeNo (t.reg d).bits
      if s.sendHeld (clusterOf (coreOf s.cur)) n h then .stall
      else s.inLane h.cmd (fun _ => s.redSendEff d a c x t))

/-- Applies held sends again, in order; those that must still wait stay. -/
def State.applyHolds (s : State) (cl n : Nat) : List HeldSend → State
  | [] => s
  | h :: r =>
    let keep (s : State) : State :=
      match tget (s.cluster cl).trees n with
      | some t => s.setTree cl n { t with holds := t.holds ++ [h] }
      | none => s
    match s.applySend cl n h with
    | .done s' => s'.applyHolds cl n r
    | .wait => (keep s).applyHolds cl n r
    | .held s' => (keep (s.keepWaiting s')).applyHolds cl n r

/-- Held sends whose chunk is free again, their source read still held (01 R31), are tried again. -/
def State.retryHolds (s : State) : State :=
  s.clusters.foldl (fun s (cl, k) => k.trees.foldl (fun s (n, t) =>
    if t.holds.any (fun h => !t.gave h.leaf h.chunk) then (s.setTree cl n { t with holds := [] }).applyHolds cl n t.holds else s) s) s

/-! ## Rounds (16 R432 to R434) -/

/-- `pair` (16 R432): an absent operand is skipped. -/
def redPair (f : Nat → Nat → FRes) (x y : Option Nat) (g : FlagSet) : Option Nat × FlagSet :=
  match x, y with
  | none, y => (y, g)
  | x, none => (x, g)
  | some x, some y => let v := f x y; (some v.bits, g ||| v.flags)

/-- One level: each four become one. -/
def redLevel (f : Nat → Nat → FRes) : List (Option Nat) → FlagSet → List (Option Nat) × FlagSet
  | a :: b :: c :: d :: r, g =>
    let (p, g) := redPair f a b g
    let (q, g) := redPair f c d g
    let (u, g) := redPair f p q g
    let (rs, g) := redLevel f r g
    (u :: rs, g)
  | _, g => ([], g)

/-- `combine`: three levels over 64 slots. -/
def redCombine (f : Nat → Nat → FRes) (v : List (Option Nat)) : Nat × FlagSet :=
  let (v, g) := redLevel f v 0
  let (v, g) := redLevel f v g
  let (v, g) := redLevel f v g
  ((v.headD none).getD 0, g)

/-- Bytes of an element, and one combination (16 R432). -/
def redWidth (op : Nat) : Nat := if op = 4 then 8 else 4
def redOp (op : Nat) (x y : Nat) : FRes :=
  match op with
  | 0 => vecElement presetE4M3 .add .f32 .f32 .rne 0 x y 0
  | 1 => vecElement presetE4M3 .max .f32 .f32 .rne 0 x y 0
  | 2 => vecElement presetE4M3 .min .f32 .f32 .rne 0 x y 0
  | 3 => vecElement presetE4M3 .add .i32 .i32 .rne 0 x y 0
  | _ => vecElement presetE4M3 .add .i64 .i64 .rne 0 x y 0

/-- What the leaf of slot `i` gave for element `e` of a chunk. -/
def Tree.slotValue (t : Tree) (chunk e i : Nat) : Option Nat :=
  (t.given.find? (fun (l, k, _) => decide (l = t.perm.getD i 0xFF ∧ k = chunk))).map (fun (_, _, bs) =>
    leNat ((bs.drop (redWidth (treeOp t.ctl) * e)).take (redWidth (treeOp t.ctl))))

/-- A chunk's result with the flags raised. -/
def Tree.chunkResult (t : Tree) (chunk : Nat) : List Byte × FlagSet :=
  let w := redWidth (treeOp t.ctl)
  (List.range (treeBytes t.ctl / w)).foldl (fun (bs, g) e =>
    let (v, g') := redCombine (redOp (treeOp t.ctl)) ((List.range 64).map (t.slotValue chunk e))
    (bs ++ leBytes w v, g ||| g')) ([], 0)

def Tree.rootCore (t : Tree) (cl : Nat) : Nat := 64 * cl + treeRoot t.ctl
def Tree.reportAt (t : Tree) : Nat := t.result + 64 * (treeChunks t.ctl + 1)

/-- The round cell, written for the issuer of the `red.cfg` (16 R433); false where its write is held. -/
def State.roundCell (s : State) (t : Tree) (code : Nat) (cause : Byte) : State × Bool :=
  s.endCell ⟨t.cmd, statusWord code cause (t.round % 2 ^ 48), 1, none, 18, t.owner, []⟩

/-- The end of a round, `s'` with its other writes made: the round cell, then the next round with the held sends. While the
cell's write is held, the round has not ended (16 R433, R434). -/
def State.endRound (s s' : State) (cl n : Nat) (t : Tree) (code : Nat) (cause : Byte) : State :=
  match s'.roundCell t code cause with
  | (s', true) =>
    (s'.setTree cl n { t with round := t.round + 1, closed := decide (code = 3), given := [], ran := 0, since := none, holds := [] }).applyHolds
      cl n t.holds
  | (s', false) => s.keepWaiting s'

/-- A write of a tree's result area waits while another thread's reservation holds it (07 R202). -/
def State.resultHeld (s : State) (t : Tree) (cl : Nat) : Bool :=
  s.heldByOther none (resvOnFlat (flatTcm (t.rootCore cl) t.result) (t.reportAt + 8 - t.result))

/-- The result area lies below the root's warm-context area. -/
def State.resultFits (s : State) (t : Tree) (cl : Nat) : Bool := decide (t.reportAt + 8 ≤ (s.core (t.rootCore cl)).tcmPlain)

/-- ROUND_END (16 R433): results, report word, round cell, the next round with its held sends. -/
def execRoundEnd (cluster tree : Nat) (s : State) : Host.Outcome State Fault Refusal :=
  match tget (s.cluster cluster).trees tree with
  | none => .next s
  | some t =>
    if !t.roundOver ∨ s.resultHeld t cluster then .next s
    else
      let fits := s.resultFits t cluster
      let put (s : State) (off : Nat) (bs : List Byte) : State := s.tcmWrite (t.rootCore cluster) off bs
      let rs := (List.range (treeChunks t.ctl + 1)).map t.chunkResult
      let s' := s.raiseUnion cluster (rs.foldl (fun g r => g ||| r.2) 0)
      let s' := if fits then
          put (((List.range (treeChunks t.ctl + 1)).zip rs).foldl (fun s (k, r) => put s (t.result + 64 * k) r.1) s') t.reportAt (zeroBytes 8)
        else s'
      .next (s.endRound s' cluster tree t (if fits then 0 else 1) (if fits then 0 else 0x10))

/-- Cycles the timer has run (16 R434). -/
def Tree.elapsed (t : Tree) (cycle : Nat) : Nat := t.ran + (match t.since with | some c => cycle - c | none => 0)

/-- A mask of cores-in-cluster. -/
def Tree.maskWhere (t : Tree) (p : Nat → Bool) : Nat := maskOf (t.leaves.filter p)

/-- ROUND_TIMEOUT (16 R434): the missing mask is reported, the cell gets code 0x03 and the tree closes (log 78, DEDUCED). -/
def execRoundTimeout (cluster tree : Nat) (s : State) : Host.Outcome State Fault Refusal :=
  match tget (s.cluster cluster).trees tree with
  | none => .next s
  | some t =>
    if t.closed ∨ t.roundOver ∨ treeTimeout t.ctl = 0 ∨ t.since.isNone ∨ t.elapsed s.cycle < treeTimeout t.ctl * 256
        ∨ s.resultHeld t cluster then .next s
    else
      let s' := if s.resultFits t cluster then s.tcmWrite (t.rootCore cluster) t.reportAt (leBytes 8 (t.maskWhere (fun l => !t.gaveAll l))) else s
      .next (s.endRound s' cluster tree t 3 0)

/-! ## `red.stat` (16 R435) -/

def Barrier.line (b : Barrier) : List Byte :=
  leBytes 8 1 ++ leBytes 8 b.owner ++ leBytes 8 b.phase ++ leBytes 8 (b.a * 2 ^ 32 + b.e) ++ leBytes 8 b.off ++ zeroBytes 24

def Tree.line (t : Tree) (cycle : Nat) : List Byte :=
  let left := if t.since.isSome ∧ treeTimeout t.ctl ≠ 0 then treeTimeout t.ctl * 256 - t.elapsed cycle else 0
  leBytes 8 (if t.closed then 2 else 1) ++ leBytes 8 t.owner ++ leBytes 8 t.round ++ leBytes 8 (t.maskWhere t.gaveAll)
    ++ leBytes 8 (t.maskWhere (fun _ => true)) ++ leBytes 8 left ++ wordBytes t.ctl ++ leBytes 8 t.result

/-- The owner and the line of what a selector names. -/
def State.combLine (s : State) (cl : Nat) (q : Quad) : Option Nat × List Byte :=
  let k := s.cluster cl
  if q.getLsbD 4 then
    match tget k.trees (fld q 0 4) with
    | some t => (some t.owner, t.line s.cycle)
    | none => (none, zeroBytes 64)
  else
    match tget k.bars (fld q 0 4) with
    | some b => (some b.owner, b.line)
    | none => (none, zeroBytes 64)

/-- The effect of `red.stat` (16 R435). -/
def State.redStatEff (d a c : RegNo) (x : Cx) (s : State) (t : Thread) : Eff :=
  let cl := clusterOf (coreOf s.cur)
  let q := (t.reg d).bits
  let cmd := (t.optCmd s.cur x c).inComb (q.getLsbD 4) (fld q 0 4)
  let s1 := if q.getLsbD 4 then some s else s.phaseTest cl (fld q 0 4)
  match s1 with
  | none => .pend s cmd
  | some s1 =>
    let (owner, line) := s1.combLine cl q
    if owner.isSome ∧ owner ≠ some t.load then .retire (s1.combDone cmd 0x82 0)
    else
      match s1.engWrite cmd.party (t.reg a).cursor line (t.reg a).hostBit (t.reg a).unv false with
      | (s', .ok ()) => .retire (s'.combDone cmd 0 0)
      | (s', .fault e) => .retire (s'.completeAs cmd (faultStatus e 0) 1 true)
      | (s', .hold) => s.pends s' cmd

/-- `red.stat` (16 R435). -/
def execRedStat (d a c : RegNo) (x : Cx) (s : State) : Host.Outcome State Fault Refusal :=
  s.combine (.redStat d a c x) c x (fun t => (t.reg d).bits.getLsbD 4) (fun t => fld (t.reg d).bits 0 4)
    (fun t =>
      let q := (t.reg d).bits
      let ra := t.reg a
      combChecks t c (decide (fld q 5 123 ≠ 0) || (q.getLsbD 4 && q.getLsbD 3))
        [opCap ra (permST ||| permENG) 64, opAlign ra 64] [opPlace ra 64] [opWindowUnv t.hid ra])
    (State.redStatEff d a c x)

/-! ## Refutes, pre-emption and release (16 R423, R424, R428, R436) -/

/-- Applies a change to every tree of every cluster. -/
def State.mapTrees (s : State) (f : Tree → Tree) : State :=
  { s with clusters := s.clusters.map (fun (c, k) => (c, { k with trees := k.trees.map (fun (n, t) => (n, f t)) })) }

/-- The held sends of every tree that a test names end with code 0x02. -/
def State.dropHolds (s : State) (hit : Tree → HeldSend → Bool) (detail : Nat) : State :=
  let gone := s.clusters.flatMap (fun (_, k) => k.trees.flatMap (fun (_, t) => t.holds.filter (hit t)))
  if gone = [] then s
  else (s.mapTrees (fun t => { t with holds := t.holds.filter (fun h => !hit t h) })).endHolds gone detail

/-- Held sends under refuted hypotheses (16 R423). -/
def State.refuteSends (s : State) (part : Nat) : State := s.dropHolds (fun _ h => decide (h.cmd.part = part) && s.refuted part h.cmd.hid) 0

/-- A load is pre-empted: its held sends end with detail[16] set and its timers pause. -/
def State.pauseTrees (s : State) (load : Nat) : State :=
  (s.dropHolds (fun t _ => decide (t.owner = load)) 1).mapTrees (fun t =>
    if t.owner = load then { t with ran := t.elapsed s.cycle, since := none } else t)

/-- A load is restored: its timers go on. -/
def State.resumeTrees (s : State) (load : Nat) : State :=
  s.mapTrees (fun t => if t.owner = load ∧ t.given ≠ [] then { t with since := some s.cycle } else t)

/-- A load ends or fails: its barriers and trees are released, nothing written. -/
def State.releaseCombining (s : State) (load : Nat) : State :=
  let s := s.dropHolds (fun t _ => decide (t.owner = load)) 0
  { s with clusters := s.clusters.map (fun (c, k) =>
      (c, { k with bars := k.bars.filter (fun (_, b) => decide (b.owner ≠ load)), trees := k.trees.filter (fun (_, t) => decide (t.owner ≠ load)) })) }

end Sys2Proof.Machine
end

