-- ==== Sys2Proof/Machine/Hypothesis.lean ====
section
/-!
DEFINITION. Sys2Proof/Machine/Hypothesis.lean: the hypothesis engine (15): handles, the keeper's tree, the seven
instructions, refutes, confirms and the freeing of IDs.
-/
namespace Sys2Proof.Machine

/-! ## Handles (15 R390, R392) -/

/-- The handle of an ID. -/
def handleOf (part gen hid : Nat) : Reg :=
  let cur : Nat := 0x3F * 2 ^ 57 + part % 64 * 2 ^ 51 + gen % 2 ^ 32 * 2 ^ 12 + hid % 2 ^ 12
  ⟨0x2121#14 ++ 0#6 ++ BitVec.ofNat 22 cur ++ BitVec.ofNat 22 (cur + 1) ++ BitVec.ofNat 64 cur, true⟩

def handlePart (h : Reg) : Nat := (h.cursor.extractLsb' 51 6).toNat
def handleGen (h : Reg) : Nat := (h.cursor.extractLsb' 12 32).toNat
def handleHid (h : Reg) : Nat := (h.cursor.extractLsb' 0 12).toNat

/-- `check_handle` (15 R392). -/
def checkHandle (t : Thread) (h : Reg) (right : BitVec 14) : List (Option Trap) :=
  [need h.tag (opTrap 0x05 h.cursor), need h.sealed_ (opTrap 0x06 h.cursor), need (h.has right) (opTrap 0x08 h.cursor),
   need (!h.cursor.getLsbD 63 && decide (h.cursor.extractLsb' 57 6 = 0x3F#6)
      && decide (boundsOf h = ((h.cursor.toNat : Int), (h.cursor.toNat : Int) + 1))) (opTrap 0x08 h.cursor),
   need (decide (handlePart h = t.part)) (opTrap 0x28 h.cursor)]

/-! ## The tree (15 R386 to R389) -/

def State.setNodes (s : State) (part : Nat) (f : Table HypNode → Table HypNode) : State :=
  match tget s.parts part with
  | some p => s.setPart part { p with nodes := f p.nodes }
  | none => s

/-- The node a handle names; none where it is retired (15 R392). -/
def State.handleNode (s : State) (h : Reg) : Option (Nat × HypNode) :=
  match tget (s.nodes (handlePart h)) (handleHid h) with
  | some n => if n.gen = handleGen h then some (handleHid h, n) else none
  | none => none

/-- The node lies in the subtree of `root`, itself included: its effective node's path passes `root`. -/
def State.under (s : State) (part root id : Nat) : Bool := decide (root = 0) || (s.viewPath part id).contains root

/-- A live node's tree parent, or the node a merged one merged into. -/
def State.parentOf (s : State) (part id : Nat) : Nat := ((tget (s.nodes part) id).map HypNode.parent).getD 0

/-- Every command of the module that has not completed (01 R39, 15 R389). -/
def State.openCmds (s : State) : List Cmd :=
  s.agentQ.map AgentCmd.cmd ++ s.heldCmds.map HeldCmd.cmd ++ (s.cellQ.filter (fun w => decide (w.kind = 0 ∨ w.kind = 16))).map CellWrite.cmd
    ++ s.cores.flatMap (fun (_, k) => (k.vq ++ k.started).map VmuEntry.cmd
        ++ (k.slots.filter (fun (_, x) => decide (x.state = .inFlight))).map (fun (_, x) => x.cmd) ++ k.sends.map Send.cmd)
    ++ s.clusters.flatMap (fun (_, k) => (match k.dxWait with | some (c, _, _) => [c] | none => [])
        ++ k.trees.flatMap (fun (_, t) => t.holds.map HeldSend.cmd))
    ++ s.rings.flatMap (fun (_, r) => r.waiting.map RingCmd.cmd ++ r.haltAsk)

/-- Held copy slots (10 R284). -/
def State.heldSlots (s : State) : List Cmd :=
  s.cores.flatMap (fun (_, k) => (k.slots.filter (fun (_, x) => decide (x.state = .held))).map (fun (_, x) => x.cmd))

/-- A thread has a command that has not completed (01 R39). -/
def State.hasCommands (s : State) (tid : Nat) : Bool := s.openCmds.any (fun c => decide (c.tid = tid))

/-- The pin count of an ID (15 R389) (log 80, DEDUCED). -/
def State.pins (s : State) (part id : Nat) : Nat :=
  let mine (tid : Nat) : Bool := match s.thread? tid with | some t => decide (t.part = part) | none => false
  (s.allThreads.filter (fun (_, t) => decide (t.part = part ∧ t.hid = id))).length
    + ((s.openCmds ++ s.heldSlots).filter (fun c => decide (c.part = part ∧ c.hid = id))).length
    + (s.allThreads.flatMap (fun (_, t) => t.sfq.filter (fun e => decide (t.part = part ∧ e.hid = id)))).length
    + (s.clusters.flatMap (fun (_, k) => k.watches.flatMap (fun w => w.recs.filter (fun r => decide (w.part = part ∧ r.hid = id))))).length
    + (s.cores.flatMap (fun (_, k) => k.watches.flatMap (fun w => w.recs.filter (fun r => decide (r.hid = id) && mine r.tid)))).length
    + ((s.nodes part).filter (fun (_, n) => decide (n.state = .merged ∧ n.parent = id))).length

/-- An ID that is freed: every L1 drops the lines tagged with it (15 R389). -/
def State.freeId (s : State) (part id : Nat) : State :=
  (s.setNodes part (fun ns => tdel ns id)).filterL1 (fun _ l => !(l.part = part ∧ l.hid = id))

/-- Frees the resolved IDs without pins; freeing one may free another. -/
def State.freeIds (s : State) (part : Nat) : Nat → State
  | 0 => s
  | fuel + 1 =>
    match (s.nodes part).find? (fun (i, n) => decide (n.state ≠ .live ∧ s.pins part i = 0)) with
    | some (i, _) => (s.freeId part i).freeIds part fuel
    | none => s

/-- The keeper frees what nothing pins, in every partition. -/
def State.sweepIds (s : State) : State :=
  s.parts.foldl (fun s (p, q) => s.freeIds p (q.nodes.filter (fun (_, n) => decide (n.state ≠ .live))).length) s

/-! ## Notices (15 R402) -/

/-- The keeper's own command: it writes unversioned, under the resolving thread's partition. -/
def Cmd.keeper (c : Cmd) (cell : CellRef) : Cmd := { c with hid := 0, depth := 0, cell := some cell }

/-- A notice to write: the node, the code and the orphans it names. -/
structure Notice where
  id : Nat
  node : HypNode
  code : Nat
  orphans : List Nat

/-- Writes a notice line: status, fields, then one more on the count. -/
def State.writeNotice (s : State) (cmd : Cmd) (x : Notice) : State :=
  let fields := leBytes 8 x.orphans.length ++ leBytes 8 (x.id % 4096 + x.node.depth % 16 * 4096)
    ++ (List.range 8).flatMap (fun i => leBytes 4 (x.orphans.getD i 0))
  s.writeCell ⟨cmd.keeper x.node.notice, statusWord x.code 0 0, 1, none, 16, 0, fields⟩

/-- The notices of a resolve, in turn; each is written before the next, and before the resolve cell (15 R403). -/
def State.writeNotices (s : State) (cmd : Cmd) (xs : List Notice) : State := xs.foldl (fun s x => s.writeNotice cmd x) s

/-! ## Refuting (15 R412, R413) -/

/-- Removes the hidden watch of a `waitge` that is undone (04 R117, 07 R211). -/
def State.dropHidden (s : State) (tid : Nat) : State :=
  match s.thread? tid with
  | some t => (match t.hidden with
    | some a => (s.removeNow tid 0 true a).modThread tid (fun u => { u with hidden := none, hiddenFired := false })
    | none => s)
  | none => s

/-- A stop of a thread by its agent, its hidden watch gone. -/
def State.halt (s : State) (tid : Nat) (state : TState) : State := (s.dropHidden tid).stopAt tid state

/-- The orphan's stop (15 R413): a thread that is faulted already keeps its record; any other gets one of cause 0x22. `issuer`
is the thread whose own instruction refutes it now: its boundary is after that instruction (log 81, DEDUCED). -/
def State.orphan (s : State) (tid : Nat) (issuer : Option Nat) : State :=
  match s.thread? tid with
  | none => s
  | some t =>
    if t.fault.isSome then s.modThread tid (fun u => { u with fault := u.fault.map (fun f => { f with target := .orphaned }) })
    else
      match t.state with
      | .faulted => s.modThread tid (fun u => { u with state := .orphaned })
      | .running | .ready | .sleeping | .stopped =>
        if some tid = issuer then
          let u := t.advance
          (s.takeFault tid 0x22 0 .none 7 u.headAt .orphaned).modThread tid (fun v =>
            { v with line := t.line, fault := v.fault.map (fun f => { f with pc := u.pcc.lo }) })
        else
          let s := s.halt tid t.state
          let head := match s.thread? tid with | some v => ({ v with line := t.line } : Thread).headAt | none => 0
          s.takeFault tid 0x22 0 .none 7 head .orphaned
      | _ => s

/-- Threads that a refute stops: their effective node is refuted now, and they are no orphans yet. -/
def State.orphansOf (s : State) (part : Nat) : List Nat :=
  (s.allThreads.filter (fun (_, t) =>
    decide (t.part = part) && s.refuted part t.hid &&
      (match t.state with | .free | .exited | .orphaned => false | _ => true) &&
      (match t.fault with | some f => decide (f.target ≠ .orphaned) | none => true))).map Prod.fst

/-- Stores under refuted IDs that a slice has not performed are acknowledged without effect (15 R412). -/
def State.ackRefuted (s : State) (part : Nat) : State :=
  { s with reqs := s.reqs.map (fun (n, r) =>
      (n, match r.target, r.phase with
          | .home _, .done _ _ _ | .home _, .fault _ | .home _, .atHost => r
          | .home _, _ => if r.kind = .store ∧ r.part = part ∧ s.refuted part r.hid then { r with phase := .done 0 false 0 } else r
          | _, _ => r)) }

/-- Held commands of the copy engine and the VMU of a quarantined core never complete (01 R40). -/
def State.heldDead (s : State) (h : HeldCmd) : Bool :=
  match h.instr with
  | .cpStat .. | .cpResume .. | .cpCancel .. | .vSync .. => (s.core h.cmd.core).quarantined
  | _ => false

/-- The cells of the combining commands and of the keeper's commands are not versioned (16 R422, 15 R395). -/
def heldRaw (i : Instr) : Bool :=
  match i with
  | .barExp .. | .barExpFree .. | .barArr .. | .redCfg .. | .redCfgFree .. | .redSend .. | .redStat .. | .hnew .. | .hconfirm ..
  | .hconfirmX .. | .hrefute .. => true
  | _ => false

/-- A held command is held no longer. -/
def State.unhold (s : State) (h : HeldCmd) : State :=
  let s : State := { s with heldCmds := s.heldCmds.erase h }
  match h.instr with
  | .cpCancel .. => s.endCancel h.cmd.tid
  | _ => s

/-- A held command under a refuted hypothesis ends with code 0x02 (15 R412). -/
def State.refuteHeld (s : State) (h : HeldCmd) : State := (s.unhold h).completeAs h.cmd 2 1 (heldRaw h.instr)

/-- Every engine ends what it has not applied under refuted IDs (15 R412 step 2); `cmd` is the refute itself, which is being
applied. What stands at a quarantined core never completes (01 R40). -/
def State.endRefuted (s : State) (cmd : Cmd) : State :=
  let part := cmd.part
  let hit (c : Cmd) : Bool := decide (c.part = part) && s.refuted part c.hid
  let s := (s.heldCmds.filter (fun h => hit h.cmd && !s.heldDead h && decide (h.cmd ≠ cmd))).foldl State.refuteHeld s
  let s := (((s.refuteCopies part).refuteRings part).refuteSends part).ackRefuted part
  let sound := s.cores.filter (fun (_, k) => !k.quarantined)
  let s := sound.foldl (fun s (c, _) => s.cancelQueue c) s
  let s := sound.foldl (fun s (c, k) => (k.sends.filter (fun x => hit x.cmd)).foldl (fun s x => s.endSend c x 2) s) s
  let gone := s.agentQ.filter (fun a => decide (a.phase = 0) && hit a.cmd)
  let s := gone.foldl (fun s a => s.complete a.cmd 2) { s with agentQ := s.agentQ.filter (fun a => !(decide (a.phase = 0) && hit a.cmd)) }
  s.clusters.foldl (fun s (c, k) =>
    match k.dxWait with
    | some (cmd, _, _) => if hit cmd then (s.setCluster c { s.cluster c with dxWait := none }).complete cmd 2 else s
    | none => s) s

/-- Drops the version lines a test names (15 R411). -/
def State.dropVersions (s : State) (gone : VersionLine → Bool) : State :=
  { s with clusters := s.clusters.map (fun (c, k) => (c, { k with versions := k.versions.filter (fun v => !gone v) })) }

/-- The thread whose instruction the command is now: none where the keeper took it up later. -/
def State.issuerOf (s : State) (cmd : Cmd) : Option Nat :=
  if s.heldCmds.any (fun h => decide (h.cmd = cmd)) then none else some cmd.tid

/-- Refutes nodes with their subtrees (15 R412 steps 1 to 5), with the notices that are to be written and the number of
orphans (log 82, DEDUCED). -/
def State.refute (s : State) (cmd : Cmd) (roots : List Nat) : State × List Notice × Nat :=
  let part := cmd.part
  let marked := (s.nodes part).filter (fun (i, n) => decide (n.state = .live) && roots.any (fun r => s.under part r i))
  let s := s.setNodes part (fun ns => ns.map (fun (i, n) =>
    (i, if marked.any (fun m => m.1 = i) then { n with state := .refuted } else n)))
  let issuer := s.issuerOf cmd
  let s := s.endRefuted cmd
  let orphans := s.orphansOf part
  let s : State := orphans.foldl (fun s tid => s.orphan tid issuer) s
  let s := s.dropVersions (fun v => decide (v.part = part) && s.refuted part v.hid)
  let s := s.filterL1 (fun _ l => !(decide (l.part = part ∧ l.hid ≠ 0) && s.refuted part l.hid))
  let under (i tid : Nat) : Bool := match s.thread? tid with | some t => s.under part i t.hid | none => false
  (s, marked.map (fun (i, n) => ⟨i, n, if roots.contains i then 0x80 else 0x81, orphans.filter (under i)⟩), orphans.length)

/-! ## Confirming (15 R414 to R416) -/

/-- The runs of masked bytes of a version line: start and bytes. -/
def maskRuns : List (Option Byte) → Nat → List (Nat × List Byte)
  | [], _ => []
  | none :: r, i => maskRuns r (i + 1)
  | some b :: r, i =>
    match maskRuns r (i + 1) with
    | (j, bs) :: rs => if j = i + 1 then (i, b :: bs) :: rs else (i, [b]) :: (j, bs) :: rs
    | [] => [(i, [b])]

/-- The bytes of a version line put over a line of 64 bytes. -/
def overlayBytes (bytes : List (Option Byte)) (line : List Byte) : List Byte :=
  (List.range 64).map (fun i => (bytes.getD i none).getD (line.getD i 0))

/-- The quads of a version line that have a masked byte. -/
def touchedQuads (bytes : List (Option Byte)) : List Nat :=
  (List.range 4).filter (fun q => (List.range 16).any (fun i => (bytes.getD (16 * q + i) none).isSome))

/-- One version line merges into the root's line: bytes, and each touched quad's tag from the version (15 R415). -/
def State.mergeRoot (s : State) (l : Loc) (v : VersionLine) : State :=
  (touchedQuads v.bytes).foldl (fun s q =>
    let a := l.flat / 64 * 64 + 16 * q
    let old := s.bytesAt a 16
    let new := (List.range 16).map (fun i => (v.bytes.getD (16 * q + i) none).getD (old.getD i 0))
    s.putBytes l.cached a new (v.tags.getD q false && decide (l.flat < dramEnd))) s

/-- The location of a line of a partition, through the tables as they stand. -/
def State.lineLoc (s : State) (part line : Nat) : Option Loc :=
  match s.peekTrans part (64 * line) .read true with
  | .ok pa e => (s.flatOf pa e).map (fun f => ⟨part, 64 * line, s.homeOfLine part line, f, cacheable e⟩)
  | _ => none

/-- Whose accesses the merges of a partition are: the keeper's, of class 2 (08 R254). -/
def keeperParty (part : Nat) : Party := { rootParty part with tid := 2 ^ 29 + 1, cls := some 2 }

/-- The version line of H leaves its slice, or becomes P's (15 R414 steps 2 and 3). -/
def State.mergeAt (s : State) (h p : Nat) (v : VersionLine) (l : Loc) : State :=
  let k := s.cluster l.cl
  let s := s.setCluster l.cl { k with versions := k.versions.filter (fun w => !(w.part = v.part ∧ w.line = v.line ∧ w.hid = h)) }
  let s := if p = 0 then s.mergeRoot l v
    else
      let k := s.cluster l.cl
      let merged := match k.version? v.part v.line p with
        | some w => { w with bytes := (List.range 64).map (fun i => (v.bytes.getD i none).orElse (fun _ => w.bytes.getD i none))
                             tags := (List.range 4).map (fun q => if (touchedQuads v.bytes).contains q then v.tags.getD q false else w.tags.getD q false) }
        | none => { v with hid := p }
      s.setCluster l.cl { k with versions := k.versions.filter (fun w => !(w.part = v.part ∧ w.line = v.line ∧ w.hid = p)) ++ [merged] }
  let sees (q g : Nat) : Bool := (maskRuns v.bytes 0).any (fun (y, bs) => s.visible l p y bs.length q g)
  let s' := s.fireGlobal v.part v.line l.flat sees (p, s.depthOf v.part p)
  (s'.dropResv (fun r => s.resvOnLine v.part v.line l.flat r && sees r.part r.hid)).settleData l

/-- The merge of one version line as one write under P: it takes a token of its class, waits for a reservation's hold and for
room in the overflow queue, and every copy of the line is taken back first (07 R202, 08 R229, R237, R246, R254)
(log 114, DEDUCED). -/
def State.mergeLine (s : State) (h p : Nat) (v : VersionLine) (cl : Nat) : State × Acc Unit :=
  let k := s.cluster cl
  match s.lineLoc v.part v.line with
  | none => (s.setCluster cl { k with versions := k.versions.filter (fun w => !(w.part = v.part ∧ w.line = v.line ∧ w.hid = h)) }, .ok ())
  | some l =>
    let who := keeperParty v.part
    let go (s : State) : State × Acc Unit :=
      if s.engWriteHeld l then (s, .hold)
      else match s.clearLine cl v.part v.line with
        | (s, .unit b n) => (s.engHoldAt who cl l.va (.ticket b n), .hold)
        | (s, .nothing) => (s.mergeAt h p v l, .ok ())
    let enter (s : State) : State × Acc Unit :=
      match s.admitted cl v.part 2 v.line with
      | some s => go s
      | none => (s.engHoldAt who cl l.va .retry, .hold)
    match k.engHold? who l.va with
    | none => enter s
    | some x =>
      match s.holdEnd cl who l.va .write true x with
      | .stay => (s, .hold)
      | _ => if x.why = .retry then enter (s.dropHold cl x) else go (s.dropHold cl x)

/-- The merges of several lines, one after the other. -/
def State.mergeLines (s : State) (h p : Nat) : List (Nat × VersionLine) → State × Acc Unit
  | [] => (s, .ok ())
  | (cl, v) :: r =>
    match s.mergeLine h p v cl with
    | (s, .ok ()) => s.mergeLines h p r
    | x => x

/-- Confirms a live node (15 R414 steps 1 to 4). -/
def State.confirm (s : State) (part h : Nat) (n : HypNode) : State × Acc Unit :=
  let below := (s.nodes part).filter (fun (i, m) => decide (m.state = .live ∧ i ≠ h) && s.under part h i)
  let s := s.setNodes part (fun ns => ns.map (fun (i, m) =>
    (i, if i = h then { m with state := .merged }
        else if below.any (fun b => b.1 = i) then
          { m with parent := if m.parent = h then n.parent else m.parent, depth := m.depth - 1 }
        else m)))
  match s.mergeLines h n.parent (s.clusters.flatMap (fun (c, k) => (k.versions.filter (fun v => v.part = part ∧ v.hid = h)).map (fun v => (c, v)))) with
  | (s, .ok ()) => (s.filterL1 (fun _ l => !(l.part = part ∧ l.hid = h)), .ok ())
  | x => x

/-! ## The instructions (15 R393 to R401) -/

/-- A command of the partition's keeper, which applies them one at a time (15 R395). -/
def Cmd.inKeeper (c : Cmd) : Cmd := { c with lane := .keeper c.part }

/-- The location an address names carries memory tags (07 R191). -/
def State.carriesTags (s : State) (c : Cmd) (r : Reg) : Bool :=
  match placeOf s.bridge.chip c.core r.cursor with
  | .clu _ _ => false
  | .far _ => !r.cursor.getLsbD 62
  | .core _ _ => true
  | .glob va => (match s.peekTrans c.part va .write r.hostBit with | .ok _ l => pteTgt l == 0 | _ => true)

/-- `apply_hnew` (15 R396). -/
def State.applyHnew (s : State) (cmd : Cmd) (a b : Reg) : Eff :=
  let done (s : State) (st : Word) : Eff := .retire (s.completeAs cmd st 1 true)
  if s.refuted cmd.part cmd.hid then done s 2
  else
    match tget s.parts cmd.part with
    | none => done s 0x80
    | some p =>
      let e := s.effective cmd.part cmd.hid
      let d := s.depthOf cmd.part e
      match (if 4095 ≤ p.nodes.length then none else tfree p.nodes 4095 1) with
      | none => done s 0x80
      | some id =>
        if d = 15 then done s 0x81
        else
          let gen := ((tget p.gens id).getD 0 + 1) % 2 ^ 32
          let counted := s.setPart cmd.part { p with gens := tput p.gens id gen }
          let h := handleOf cmd.part gen id
          match counted.engWrite1 cmd.party b.cursor (quadBytes h.bits) true b.hostBit b.unv true with
          | (s', .fault c) => done s' (faultStatus c 0)
          | (s', .hold) => s.pends s' cmd
          | (s', .ok ()) =>
            if s.carriesTags cmd b then done (s'.setNodes cmd.part (fun ns => tput ns id ⟨.live, gen, e, d + 1, cellRef a⟩)) (statusWord 0 0 id)
            else done counted (faultStatus 0x08 0)

/-- `hnew` (15 R394 to R396). Its thread waits for the keeper. -/
def execHnew (a b c : RegNo) (x : Cx) (s : State) : Host.Outcome State Fault Refusal :=
  s.command (.hnew a b c x) x
    (fun t =>
      let ra := t.reg a
      let rb := t.reg b
      [opCap ra (permST ||| permAMO) 64, opAlign ra 64, opCap rb (permST ||| permSTC ||| permENG) 16, opAlign rb 16]
        ++ cellCap (t.reg c) ++ [opPlace ra 64, opPlace rb 16] ++ cellPlace (t.reg c)
        ++ [opUnv t.hid ra, opUnv t.hid rb, cellUnv t.hid (t.reg c)])
    (fun t =>
      let cmd := (t.cmd s.cur x (t.reg c)).inKeeper
      match s.inLane cmd (fun _ => s.applyHnew cmd (t.reg a) (t.reg b)) with
      | .pend s' cmd => s'.awaits (.hnew a b c x) cmd t
      | e => e)

/-- The thread's view changes to a node; its reservation is dropped (15 R397, R398). -/
def State.moveTo (s : State) (id depth : Nat) : Eff :=
  .retire (s.modThread s.cur (fun u => { u with hid := id, depth := depth, resv := none }))

/-- `apply_henter` (15 R397). -/
def execHenter (a : RegNo) (x : Cx) (s : State) : Host.Outcome State Fault Refusal :=
  s.command (.henter a x) x (fun t => checkHandle t (t.reg a) permLD)
    (fun t =>
      let h := t.reg a
      let fault (c : Byte) : Eff := .trap (opTrap c h.cursor)
      if s.refuted t.part t.hid || s.laneBusy (.keeper t.part) then .stall
      else match s.handleNode h with
      | none => fault 0x22
      | some (id, _) =>
        let target := s.effective t.part id
        let mine := s.effective t.part t.hid
        if s.refuted t.part target then fault 0x22
        else if target = mine then .retire s
        else if s.under t.part mine target = false then fault 0x28
        else s.moveTo target (s.depthOf t.part target))

/-- `hleave` (15 R398). -/
def execHleave (x : Cx) (s : State) : Host.Outcome State Fault Refusal :=
  s.command (.hleave x) x (fun _ => [])
    (fun t =>
      if s.refuted t.part t.hid || s.laneBusy (.keeper t.part) then .stall
      else if t.hid = 0 then .retire s
      else
        let p := s.parentOf t.part t.hid
        s.moveTo p (s.depthOf t.part p))

/-- The resolve cell (15 R403). -/
def resolveStatus (nodes orphans : Nat) : Word := statusWord 0 0 (min nodes 0xFFFF * 2 ^ 32 + orphans % 2 ^ 32)

/-- What a resolve does to a live node: the notices to write, with the number of orphans. It is held while a merge is. -/
abbrev Resolving := State → Cmd → Nat → HypNode → State × Acc (List Notice × Nat)

/-- The effect of the three resolves: the rows for retired and resolved nodes, then `f` on the live node; its notices and the
resolve cell come last (15 R399, R400, R403). -/
def State.resolveEff (f : Resolving) (a c : RegNo) (x : Cx) (s : State) (t : Thread) : Eff :=
  let cmd := (t.cmd s.cur x (t.reg c)).inKeeper
  if s.refuted t.part t.hid then .retire (s.completeAs cmd 2 1 true)
  else match s.handleNode (t.reg a) with
  | none => .retire (s.completeAs cmd 0x83 1 true)
  | some (id, n) =>
    if n.state ≠ .live then .retire (s.completeAs cmd 0x82 1 true)
    else
      match f s cmd id n with
      | (s', .ok (xs, orphans)) =>
        let refuted := (xs.filter (fun y => decide (y.code ≠ 0))).length
        .retire ((s'.writeNotices cmd xs).completeAs cmd (resolveStatus refuted orphans) 1 true)
      | (s', _) => s.pends s' cmd

/-- `hconfirm` on a live node: its notice has code 0x00. -/
def resolveConfirm : Resolving := fun s cmd id n =>
  match s.confirm cmd.part id n with
  | (s, .ok ()) => (s, .ok ([⟨id, n, 0, []⟩], 0))
  | (s, _) => (s, .hold)

/-- `hconfirm.x` on a live node: its live siblings are refuted first (15 R399). -/
def resolveConfirmX : Resolving := fun s cmd id n =>
  let sibs := ((s.nodes cmd.part).filter (fun (i, m) => decide (m.state = .live ∧ m.parent = n.parent ∧ i ≠ id))).map Prod.fst
  let (s, xs, orphans) := if sibs = [] then (s, [], 0) else s.refute cmd sibs
  match s.confirm cmd.part id n with
  | (s, .ok ()) => (s, .ok (⟨id, n, 0, []⟩ :: xs, orphans))
  | (s, _) => (s, .hold)

/-- `hrefute` on a live node (15 R400). -/
def resolveRefute : Resolving := fun s cmd id _ =>
  let (s, xs, orphans) := s.refute cmd [id]
  (s, .ok (xs, orphans))

def State.hconfirmEff (a c : RegNo) (x : Cx) (s : State) (t : Thread) : Eff := s.resolveEff resolveConfirm a c x t
def State.hconfirmXEff (a c : RegNo) (x : Cx) (s : State) (t : Thread) : Eff := s.resolveEff resolveConfirmX a c x t
def State.hrefuteEff (a c : RegNo) (x : Cx) (s : State) (t : Thread) : Eff := s.resolveEff resolveRefute a c x t

/-- A resolve: its checks, then its effect in the keeper's order (15 R394, R395). -/
def State.resolve (s : State) (i : Instr) (a c : RegNo) (x : Cx) (f : State → Thread → Eff) : Host.Outcome State Fault Refusal :=
  s.command i x (fun t => checkHandle t (t.reg a) permAMO ++ [checkCell (t.reg c), cellUnv t.hid (t.reg c)])
    (fun t => s.inLane ((t.cmd s.cur x (t.reg c)).inKeeper) (fun _ => f s t))

/-- `hconfirm` (15 R399, R414). -/
def execHconfirm (a c : RegNo) (x : Cx) (s : State) : Host.Outcome State Fault Refusal :=
  s.resolve (.hconfirm a c x) a c x (State.hconfirmEff a c x)

/-- `hconfirm.x` (15 R399). -/
def execHconfirmX (a c : RegNo) (x : Cx) (s : State) : Host.Outcome State Fault Refusal :=
  s.resolve (.hconfirmX a c x) a c x (State.hconfirmXEff a c x)

/-- `hrefute` (15 R400, R412). -/
def execHrefute (a c : RegNo) (x : Cx) (s : State) : Host.Outcome State Fault Refusal :=
  s.resolve (.hrefute a c x) a c x (State.hrefuteEff a c x)

/-- The partition counts of 15 R401: live IDs and allocated IDs. -/
def State.hypCounts (s : State) (part : Nat) : Nat :=
  let ns := s.nodes part
  (ns.filter (fun (_, n) => decide (n.state = .live))).length % 4096 + ns.length % 4096 * 2 ^ 16

def HState.code : HState → Nat
  | .live => 1 | .merged => 2 | .refuted => 3

/-- The line `hstat` writes for an ID; none is a retired handle (15 R401). `own`: the ID whose pin the `hstat` itself is. -/
def State.hstatLine (s : State) (part own : Nat) (id : Option Nat) : List Byte :=
  let counts := leBytes 8 (s.hypCounts part) ++ zeroBytes 16
  let ns := s.nodes part
  let kids (i : Nat) : Nat := (ns.filter (fun (_, n) => decide (n.state = .live ∧ n.parent = i))).length
  let desc (i : Nat) : Nat := (ns.filter (fun (j, n) => decide (n.state = .live ∧ j ≠ i) && s.under part i j)).length
  match id with
  | none => zeroBytes 40 ++ counts
  | some 0 => leBytes 8 (2 ^ 16) ++ zeroBytes 8 ++ leBytes 8 (kids 0 + desc 0 * 2 ^ 16) ++ zeroBytes 16 ++ counts
  | some i =>
    match tget ns i with
    | none => zeroBytes 40 ++ counts
    | some n =>
      let live := decide (n.state = .live)
      leBytes 8 (i + n.depth % 16 * 2 ^ 12 + n.state.code * 2 ^ 16)
        ++ leBytes 8 (n.parent + s.effective part i * 2 ^ 16)
        ++ leBytes 8 ((if live then kids i + desc i * 2 ^ 16 else 0) + (s.pins part i + (if i = own then 1 else 0)) * 2 ^ 32)
        ++ leBytes 8 n.gen ++ wordBytes n.notice.addr ++ counts

/-- The effect of `hstat` (15 R401). -/
def State.hstatEff (a b c : RegNo) (x : Cx) (s : State) (t : Thread) : Eff :=
  let cmd := (t.cmd s.cur x (t.reg c)).inKeeper
  let rb := t.reg b
  let id := if a = 0 then some t.hid else (s.handleNode (t.reg a)).map Prod.fst
  let own := if (s.issuerOf cmd).isSome then t.hid else 0
  match s.engWrite cmd.party rb.cursor (s.hstatLine t.part own id) rb.hostBit rb.unv false with
  | (s', .ok ()) => .retire (s'.complete cmd 0)
  | (s', .fault e) => .retire (s'.complete cmd (faultStatus e 0))
  | (s', .hold) => s.pends s' cmd

/-- `hstat` (15 R401). -/
def execHstat (a b c : RegNo) (x : Cx) (s : State) : Host.Outcome State Fault Refusal :=
  s.command (.hstat a b c x) x
    (fun t =>
      let rb := t.reg b
      (if a = 0 then [] else checkHandle t (t.reg a) permLD)
        ++ [opCap rb (permST ||| permENG) 64, opAlign rb 64] ++ cellCap (t.reg c) ++ [opPlace rb 64] ++ cellPlace (t.reg c)
        ++ [opWindowUnv t.hid rb])
    (fun t => s.inLane ((t.cmd s.cur x (t.reg c)).inKeeper) (fun _ => s.hstatEff a b c x t))

end Sys2Proof.Machine
end

