-- ==== Sys2Proof/Machine/Load.lean ====
section
/-!
DEFINITION. Sys2Proof/Machine/Load.lean: how threads, loads and baskets end: fault records (05 R161, R162), the cold half of
context blocks (R136), `exit` (04 R130), failed loads and quarantined cores (05 R165), baskets (06 R176, R177) and cell
writes that were held or failed (01 R38, R477).
-/
namespace Sys2Proof.Machine

/-! ## Baskets' cells (06 R176, R177) -/

/-- The command that stands behind a basket's cells. -/
def Basket.cmd (b : Basket) (addr : Word) : Cmd :=
  ⟨0, 0, .open_, 0, b.part, 0, 0, 0, b.scope, some ⟨addr, b.pkt.data.hostBit, b.pkt.data.unv⟩, 0⟩

/-- A dword of a packet. -/
def Packet.word (p : Packet) (i : Nat) : Word := p.words.getD i 0

/-- One update of a basket's fault cell. -/
def State.basketFault (s : State) (basket : Nat) (cause : Byte) (detail : Nat) : State :=
  match tget s.baskets basket with
  | some b => s.writeCell ⟨b.cmd (b.pkt.word 9), statusWord 1 cause detail, 1, none, 17, b.queue, []⟩
  | none => s

def State.modBasket (s : State) (basket : Nat) (f : Basket → Basket) : State :=
  match tget s.baskets basket with
  | some b => s.setBasket basket (f b)
  | none => s

/-- The basket of a load is told that one of its threads' reports was lost: `ring` says that it was a ring's or tree's cell
(06 R177). -/
def State.lostReport (s : State) (load : Nat) (cause : Byte) (ring : Bool) (tid : Nat) : State :=
  match tget s.loads load with
  | some l => s.basketFault l.basket cause (tid % 2 ^ 28 + 2 ^ 47 + (if ring then 2 ^ 46 else 0))
  | none => s

/-! ## Loads that end (06 R176, R181; 14 R357; 16 R424, R428) -/

/-- Groups whose rings a load claims. -/
def Load.groups (l : Load) : List Nat := if l.ring then (List.range ((l.cores + 15) / 16)).map (· + groupOf l.core0) else []

/-- Claims end: rings go off, barriers and trees are released. -/
def State.releaseClaims (s : State) (n : Nat) (l : Load) : State :=
  let s := if l.state = .live ∨ l.state = .stopping then l.groups.foldl (fun s g => s.ringOff g) s else s
  s.releaseCombining n

/-- The queue that held a load's packet. -/
def State.queueOf (s : State) (l : Load) : Nat := ((tget s.baskets l.basket).map Basket.queue).getD 0

/-- A basket that is complete is kept no longer than a failed load of it has members, whose reports it takes (06 R177). -/
def State.dropBasket (s : State) (basket : Nat) : State :=
  match tget s.baskets basket with
  | some b => if b.done ∧ !s.loads.any (fun (_, l) => decide (l.basket = basket)) then { s with baskets := tdel s.baskets basket } else s
  | none => s

/-- A load leaves the table: what is still to be said of its rings' and trees' cells goes to its queue (01 R477). -/
def State.forgetLoad (s : State) (n : Nat) (l : Load) : State :=
  let q := s.queueOf l
  ({ s with loads := tdel s.loads n
            cellQ := s.cellQ.map (fun w => if w.kind = 18 ∧ w.owner = n then { w with kind := 17, owner := q } else w) } : State).dropBasket l.basket

/-- A member is gone; with the last one the load completes (06 R176). -/
def State.memberGone (s : State) (n tid : Nat) : State :=
  match tget s.loads n with
  | none => s
  | some l =>
    let l := { l with members := l.members.filter (· ≠ tid) }
    let s := s.setLoad n l
    if l.members ≠ [] then s
    else if l.state = .failed then s.forgetLoad n l
    else ((s.releaseClaims n l).modBasket l.basket (fun b => { b with live := b.live - 1 })).forgetLoad n l

/-- The thread is exited and its slot is free (05 R137; 04 R130; 07 R214; 08 R238; 10 R284; 11 R300). -/
def State.endThread (s : State) (tid : Nat) : State :=
  match s.thread? tid with
  | none => s
  | some t =>
    let s := ((((((s.dropIssued tid).dropHeldOf tid true).dropWatches tid).noDarner tid).freeHeldSlots tid).unbindPorts tid).dropThread tid
    s.memberGone t.load tid

/-- A thread is stopped by its agent and becomes faulted (05 R137, R165). -/
def State.faultThread (s : State) (tid : Nat) (cause : Byte) : State :=
  match s.thread? tid with
  | none => s
  | some t =>
    let s := (s.halt tid t.state).unbindPorts tid
    let head := match s.thread? tid with | some v => ({ v with line := t.line } : Thread).headAt | none => 0
    s.takeFault tid cause 0 .none 7 head .faulted

/-- A load fails (05 R165): its members but `except` become faulted with 0x3A unless they are faulted with 0x39; its claims
end and its basket's fault cell is written. -/
def State.failLoad (s : State) (n : Nat) (except : Nat → Bool) : State :=
  match tget s.loads n with
  | none => s
  | some l =>
    if l.state = .failed ∨ l.state = .ended then s
    else
      let s := s.releaseClaims n l
      let s := s.setLoad n { l with state := .failed }
      let s := l.members.foldl (fun s tid =>
        match s.thread? tid with
        | some t =>
          let cause : Byte := match t.fault with | some f => f.cause | none => if t.state = .faulted then t.last else 0
          if except tid ∨ cause = 0x39 then s else s.faultThread tid 0x3A
        | none => s) s
      (s.modBasket l.basket (fun b => { b with live := b.live - 1, failed := b.failed + 1 })).basketFault l.basket 0x3A (n % 2 ^ 32)

/-! ## Context blocks (05 R132, R136) -/

/-- Whom the agent writes a thread's block and record for: the root of its partition. -/
def Thread.agentParty (t : Thread) (tid : Nat) : Party := ⟨t.part, 0, coreOf tid, tid, t.load, false, none⟩

/-- A block that cannot be written: the thread faults with the write's cause and its load fails (05 R132). -/
def State.blockFailed (s : State) (tid : Nat) (cause : Byte) : State :=
  match s.thread? tid with
  | some t =>
    match tget s.loads t.load with
    | some l => if l.state = .failed then s else (s.faultThread tid cause).failLoad t.load (fun m => decide (m = tid))
    | none => s
  | none => s

/-- What the cold half shows (05 R132). -/
def Thread.cold (t : Thread) : Word × List SfEntry × Word × Nat × Nat := (t.stateWord, t.sfq, t.nextSeq, t.load, t.parentWord)

/-- The writes that keep a thread's block current: the cold half, with its zero area when the block is new, and the hot half
while the thread is stowed (05 R132, R136). -/
def Thread.blockWrites (t : Thread) (tid : Nat) (whole : Bool) : List (Word × List Byte) :=
  (t.ctx + 0x400, t.coldImage ++ if whole then zeroBytes 864 else [])
    :: (if t.tier = .stowed then [(t.ctx, t.hotImage tid)] else [])

/-- Writes of a list of (address, bytes) spans by an engine, unversioned (log 59, DEDUCED). -/
def State.saveAll (s : State) (p : Party) (host : Bool) : List (Word × List Byte) → State × Acc Unit
  | [] => (s, .ok ())
  | (a, bs) :: r =>
    match s.engWrite p a bs host true true with
    | (s, .ok ()) => s.saveAll p host r
    | o => o

/-- Keeps a thread's block current; held, its writes stay to be made. -/
def State.writeBlock (s : State) (tid : Nat) (whole : Bool) : State :=
  match s.thread? tid with
  | none => s
  | some t =>
    match s.saveAll (t.agentParty tid) t.ctxHost (t.blockWrites tid whole) with
    | (s', .ok ()) => s'
    | (s', .fault c) => s'.blockFailed tid c
    | (s', .hold) =>
      let w : CellWrite := ⟨⟨tid, t.life, .open_, t.load, t.part, coreOf tid, 0, 0, .mod, none, 0⟩, 0, 0, none, 20, tid, []⟩
      { s.keepWaiting s' with cellQ := s.cellQ ++ [w] }

/-- The step from `u` to `t` changed something that the block shows: of the cold half, or of anything while it is stowed. -/
def Thread.blockChanged (u t : Thread) : Bool := decide (u.cold ≠ t.cold) || (decide (t.tier = .stowed ∧ u.tier = .stowed) && decide (u ≠ t))

/-- The agents keep the blocks current: those that a step changed are written (05 R136) (log 50, DEDUCED). -/
def State.syncCold (s before : State) : State :=
  s.allThreads.foldl (fun s (tid, t) =>
    match before.thread? tid with
    | some u => if u.blockChanged t then s.writeBlock tid (decide (u.life ≠ t.life)) else s
    | none => s.writeBlock tid true) s

/-! ## Fault records (05 R161, R162) -/

/-- The 64 bytes of a fault record. -/
def State.recordOf (s : State) (tid : Nat) (t : Thread) (f : PendingFault) : List Byte :=
  let (addr, size) := match t.sfq with
    | e :: _ => if f.cause = 0x18 then (e.addr, e.width) else (f.addr, f.size)
    | [] => (f.addr, f.size)
  leBytes 8 (f.cause.toNat + f.kind.code * 2 ^ 8 + size % 8 * 2 ^ 12 + f.head.toNat * 2 ^ 16 + t.sfMask * 2 ^ 32 + min t.ovf 0xFFFF * 2 ^ 48)
    ++ leBytes 8 (tid % 2 ^ 28 + s.bridge.chip % 512 * 2 ^ 28) ++ wordBytes f.pc ++ wordBytes addr ++ wordBytes t.nextSeq
    ++ leBytes 8 (t.hid % 4096 + t.depth % 16 * 4096) ++ leBytes 8 (t.load % 2 ^ 32) ++ leBytes 8 f.cycle

/-- FAULT_RECORD_WRITE (05 R161): once every earlier store has settled the record is written and the thread is faulted (or
orphaned). A write that fails is reported through the basket's fault cell (log 83, DEDUCED). -/
def execFaultRecordWrite (tid : Nat) (s : State) : Host.Outcome State Fault Refusal :=
  match s.thread? tid with
  | none => .next s
  | some t =>
    match t.fault with
    | none => .next s
    | some f =>
      if t.stores ≠ [] then .next s
      else
        let settled (u : Thread) : Thread := { u with state := f.target, last := f.cause, fault := none, since := s.cycle }
        match s.engWrite (t.agentParty tid) t.faultrec (s.recordOf tid t f) true true true with
        | (s', .ok ()) => .next (s'.modThread tid (fun u => { settled u with nextSeq := u.nextSeq + 1 }))
        | (s', .fault c) => .next ((s'.modThread tid settled).lostReport t.load c false tid)
        | (s', .hold) => .next (s.keepWaiting s')

/-! ## `exit` (04 R130) -/

/-- EXIT_COMPLETE: every store has settled and every command has completed. -/
def execExitComplete (tid : Nat) (s : State) : Host.Outcome State Fault Refusal :=
  match s.thread? tid with
  | some t =>
    if t.wait = .exit ∧ t.state = .running ∧ t.fault = none ∧ t.window = [] ∧ t.stores = [] ∧ t.sfq = [] ∧ s.hasCommands tid = false then
      .next (s.endThread tid)
    else .next s
  | none => .next s

/-! ## Quarantine (05 R165) -/

/-- A thread is lost with its core: it is faulted with 0x39, its stores are no longer its own, and what an engine outside the
core has taken goes on (01 R40; 05 R165; 07 R197). -/
def State.loseThread (s : State) (tid : Nat) : State :=
  let kept (r : Req) : Bool := match r.kind with | .store | .amo _ | .cas _ _ => true | _ => false
  let s : State := { s with reqs := s.reqs.filter (fun (_, r) => decide (r.tid ≠ tid) || kept r) }
  ((s.dropHeldOf tid false).unbindPorts tid).modThread tid (fun u =>
    let v := { u.faulting 0x39 0 .none 7 0 s.cycle .faulted with stores := [], hidden := none }
    if u.tier = .resident ∨ u.tier = .warm then { v with fault := v.fault.map (fun f => { f with pc := 0 }) } else v)

/-- The loads that fail with a core: those with a member on it, and those whose ring it lies in (05 R165; 14 R385). -/
def Load.failsWith (l : Load) (core : Nat) : Bool :=
  l.members.any (fun tid => decide (coreOf tid = core))
    || (decide (l.state = .live ∨ l.state = .stopping) && l.groups.contains (groupOf core))

/-- A core is quarantined: its threads fault with 0x39, its loads fail, its watches are lost; its engines' commands never
complete (01 R40). -/
def State.quarantine (s : State) (core : Nat) : State :=
  let k := s.core core
  if k.quarantined then s
  else
    let s := s.setCore core { k with quarantined := true, watches := [], waitingSends := [], waitingCopies := [], waitingVmu := [] }
    let s := k.threads.foldl (fun s (i, _) => s.loseThread (256 * core + i)) s
    (s.loads.filter (fun (_, l) => l.failsWith core)).foldl (fun s (n, _) => s.failLoad n (fun m => decide (coreOf m = core))) s

/-! ## Baskets complete (06 R176) -/

/-- A `qpub` of one of the basket's threads has not completed (06 R176). -/
def State.publishes (s : State) (basket : Nat) : Bool :=
  s.heldCmds.any (fun h => decide (h.basket = some basket) && (match h.instr with | .qpub .. => true | _ => false))

/-- A child basket, or a packet that never became one, no longer keeps its parent. -/
def State.childGone (s : State) (parent : Option Parent) : State :=
  match parent with
  | some p => s.modBasket p.basket (fun b => { b with outstanding := b.outstanding - 1 })
  | none => s

/-- A basket completes once every load has ended, every `qpub` of its threads and every child has completed. -/
def State.endBasket (s : State) (basket : Nat) : State :=
  match tget s.baskets basket with
  | none => s
  | some b =>
    if b.done ∨ b.admitted = false ∨ b.live ≠ 0 ∨ b.outstanding ≠ 0 ∨ s.publishes basket then s
    else
      let status := b.early.getD (if b.failed = 0 then 0 else statusWord 0x81 0 (b.failed % 2 ^ 32))
      let s := ((s.setBasket basket { b with done := true }).dropBasket basket).writeCell ⟨b.cmd (b.pkt.word 8), status, 1, none, 17, b.queue, []⟩
      s.childGone b.parent

/-- BASKET_COMPLETE. -/
def execBasketComplete (basket : Nat) (s : State) : Host.Outcome State Fault Refusal := .next (s.endBasket basket)

/-! ## Cell writes held or failed (01 R38, R477) -/

/-- The store fault that reports a cell write of a live thread: the write's address, data and size (01 R38) (log 84, DEDUCED). -/
def CellWrite.sfEntry (w : CellWrite) (order : Nat) (cause : Byte) (off : Nat) : SfEntry :=
  ⟨order, ((w.cmd.cell.map CellRef.addr).getD 0) + BitVec.ofNat 64 off,
    if off = 8 then w.status.setWidth 128 else if off = 16 then BitVec.ofNat 128 (leNat (w.more.take 8)) else BitVec.ofNat 128 w.inc,
    false, 3, cause,
    if 16 ≤ w.kind then 0 else w.cmd.hid, if 16 ≤ w.kind then 0 else w.cmd.depth⟩

/-- The thread that issued a command still lives. -/
def State.cmdLives (s : State) (c : Cmd) : Bool :=
  match s.thread? c.tid with
  | some t => decide (t.life = c.life ∧ t.load = c.load ∧ t.part = c.part)
  | none => false

/-- A failed cell write is reported where its rule says. -/
def State.reportCell (s : State) (w : CellWrite) (cause : Byte) (off : Nat) : State :=
  if w.kind = 17 then s.lostPacket w.owner
  else if s.cmdLives w.cmd then
    s.storeFault w.cmd.tid (w.sfEntry (((s.thread? w.cmd.tid).map Thread.order).getD 0) cause off)
  else if w.kind = 18 then
    (match tget s.loads w.owner with
     | some l => if l.state = .failed then s.lostPacket (s.queueOf l) else s.lostReport w.owner cause true w.cmd.tid
     | none => s)
  else s

/-- A status that waited to be written becomes 0x02 where its hypothesis has been refuted meanwhile (01 R41). -/
def CellWrite.orRefuted (w : CellWrite) (refuted : Bool) : CellWrite :=
  if w.kind = 0 ∧ refuted ∧ w.status.toNat % 256 ≠ 2 then { w with status := 2 } else w

/-- CELL_WRITE_FAILURE: the `i`-th cell write kept: one that was held is tried again, behind those before it in its lane; one
that failed is reported. -/
def execCellWriteFailure (i : Nat) (s : State) : Host.Outcome State Fault Refusal :=
  match s.cellQ[i]? with
  | none => .next s
  | some w =>
    let rest := { s with cellQ := s.cellQ.eraseIdx i }
    if w.kind = 20 then .next (rest.writeBlock w.owner true)
    else if w.kind = 21 then .next (rest.writeLost w.owner)
    else match w.failed with
    | some (c, off) => .next (rest.reportCell w c off)
    | none =>
      if cellsWait (s.cellQ.take i) w.cmd.lane then .next s
      else
        match rest.endCell (w.orRefuted (s.refuted w.cmd.part w.cmd.hid)) with
        | (s', true) => .next s'
        | (s', false) => .next { s' with cellQ := s.cellQ }

end Sys2Proof.Machine
end

