-- ==== Sys2Proof/Machine/Zero.lean ====
section
/-!
DEFINITION. Sys2Proof/Machine/Zero.lean: zeroing by the steward (10 R299, 19 R472) and accesses to memory by its own flat
address, as the host and the steward make them.
-/
namespace Sys2Proof.Machine

/-! ## Writes by flat address -/

/-- Virtual lines of any partition that stand in one of the flat lines: those that caches and directories name. -/
def State.namedLines (s : State) (hit : Nat → Bool) : List (Nat × Nat) :=
  let l1 := s.cores.flatMap (fun (_, k) => (k.l1 ++ k.victims).map (fun l => (l.part, l.line)))
  let data := s.clusters.flatMap (fun (_, k) => k.data.map (fun l => (l.part, l.line)))
  ((l1 ++ data).filter (fun (p, l) => match s.flatLine p l with | some f => hit f | none => false)).eraseDups

/-- Every copy of the flat lines is taken back from L1s and slices, modified data still standing (08 R229). -/
def State.recallFlat (s : State) (hit : Nat → Bool) : State :=
  (s.namedLines hit).foldl (fun s (p, l) =>
    let cl := s.homeOfLine p l
    let s := (s.takeBack cl p l).dropCopies p l
    let k := s.cluster cl
    s.setCluster cl { k with data := k.data.filter (fun x => !(x.part = p ∧ x.line = l)) }) s

/-- Watches on the flat line fire and reservations on it are lost, whoever named it (07 R201, R208). -/
def State.fireFlat (s : State) (flatLine : Nat) : State :=
  (s.fireGlobal noPart flatLine (64 * flatLine) (fun _ _ => true) (0, 0)).dropResv (fun r => s.resvOnLine noPart flatLine (64 * flatLine) r)

/-- A write of bytes within one line by its flat address, with the tag of a whole quad, coherent with every copy (17 R447,
R449). -/
def State.flatPut (s : State) (a : Nat) (bs : List Byte) (tag : Bool) : State :=
  let line := a / 64
  (((s.recallFlat (fun f => decide (f = line))).writeBack line).putBytes false a bs tag).fireFlat line

/-- The same without a tag. -/
def State.flatWrite (s : State) (a : Nat) (bs : List Byte) : State := s.flatPut a bs false

/-- A run of bytes written line by line by its flat address. -/
def State.flatWriteAll (s : State) (a : Nat) : Nat → List Byte → State
  | 0, _ => s
  | fuel + 1, bs =>
    if bs = [] then s
    else
      let n := Nat.min bs.length (64 - a % 64)
      (s.flatWrite a (bs.take n)).flatWriteAll (a + n) fuel (bs.drop n)

/-- A word written by its flat address. -/
def State.flatWord (s : State) (a v : Nat) : State := s.flatWrite a (leBytes 8 v)

/-! ## Zeroing (10 R299, 19 R472) -/

/-- Device lines from `lo` to below `hi` (flat bytes) read zero: their versions and tags go, watches on them fire. -/
def State.zeroDevice (s : State) (lo hi : Nat) : State :=
  let hit (f : Nat) : Bool := decide (lo ≤ 64 * f ∧ 64 * f < hi)
  let inside (p l : Nat) : Bool := match s.flatLine p l with | some f => hit f | none => false
  let units := (s.clusters.flatMap (fun (_, k) => k.watches.map (fun w => (w.part, w.unit)) ++ k.ovfLines.map (fun o => (o.part, o.line)))).filterMap
    (fun (p, l) => (s.flatLine p l).bind (fun f => if hit f then some f else none))
  let resv := s.allThreads.filterMap (fun (_, t) => t.resv.bind (fun r =>
    if r.glob then (s.flatLine r.part (r.start / 64)).bind (fun f => if hit f then some f else none) else none))
  let s' := ((s.recallFlat hit).dropVersions (fun v => inside v.part v.line)).zeroFlat lo hi
  let s' := { s' with dirty := s'.dirty.filter (fun (f, _) => !hit f) }
  (units ++ resv).eraseDups.foldl (fun s f => s.fireFlat f) s'

/-- A core is zeroed: its TCM and scratch share, accumulators and decode table; its receive ports are unbound, held copy
slots freed. -/
def State.zeroCore (s : State) (core : Nat) : State :=
  let k := s.core core
  let units := k.watches.map WatchUnit.unit  -- every unit with a record, or half of one, at the core (07 R206)
  let s := s.setCore core { k with
    acc0 := List.replicate 256 0, acc1 := List.replicate 256 0, table := presetE4M3, ports := []
    slots := k.slots.filter (fun (_, x) => decide (x.state = .inFlight)) }
  let s := (s.zeroFlat (flatTcm core 0) (flatTcm core (2 ^ 17))).zeroFlat (flatScratch core 0) (flatScratch core (2 ^ 17))
  (s.fireLocal units).dropResv (fun r => resvOnFlat (flatTcm core 0) (2 ^ 17) r || resvOnFlat (flatScratch core 0) (2 ^ 17) r)

/-- A core passes to a partition: zeroed where its last load was another's (19 R472). -/
def State.passCore (s : State) (core part : Nat) : State :=
  let s := match (s.core core).lastOwner with
    | some p => if p = part then s else s.zeroCore core
    | none => s
  let k := s.core core
  s.setCore core { k with lastOwner := some part }

/-- No transfer is in flight on the core and no thread stands on it. -/
def Core.vacant (k : Core) : Bool := decide (k.threads = []) && k.slots.all (fun (_, x) => decide (x.state = .held))

/-- ZEROING_FILL (10 R299): the steward zeroes device lines, a core that holds no thread and no transfer, or a ring that no
load claims (log 95, DEDUCED). -/
def execZeroingFill (z : ZeroTarget) (s : State) : Host.Outcome State Fault Refusal :=
  match z with
  | .range base lines =>
    if base % 64 = 0 ∧ base + 64 * lines ≤ dramEnd then .next (s.zeroDevice base (base + 64 * lines)) else .next s
  | .core c => if (s.core c).vacant then .next (s.zeroCore c) else .next s
  | .ring g =>
    if s.loads.any (fun (_, l) => (l.state == .live || l.state == .stopping) && l.groups.contains g) then .next s
    else .next (s.setRing g Ring.reset)

end Sys2Proof.Machine
end

