-- ==== Sys2Proof/Machine/Launch.lean ====
section
/-!
DEFINITION. Sys2Proof/Machine/Launch.lean: the dispatch engine (06): launch queues, packets, templates, baskets, admission,
pre-emption and restore.
-/
namespace Sys2Proof.Machine

/-! ## Queues (06 R167 to R170) -/

def Queue.lslots (q : Queue) : Nat := q.control.toNat % 256
def Queue.isDevice (q : Queue) : Bool := q.control.getLsbD 8
def Queue.ceil (q : Queue) : Nat := q.control.toNat / 2 ^ 9 % 4
def Queue.die (q : Queue) : Nat := q.control.toNat / 2 ^ 11 % 16
def Queue.wide (q : Queue) : Bool := q.control.getLsbD 15
/-- The address of the slot of packet number `p`. -/
def Queue.slotAt (q : Queue) (p : Nat) : Word := q.ring + BitVec.ofNat 64 (128 * (p % 2 ^ q.lslots))
/-- Packets published: the engine's own count of a device queue, the index read from a host queue. -/
def Queue.published (q : Queue) : Nat := if q.isDevice then q.count else q.seen

/-- An 8-byte word of the engine in a queue's descriptor; the engine reaches it under its own authority. -/
def State.descWrite (s : State) (q : Queue) (off v : Nat) : State × Acc Unit :=
  s.engWrite (rootParty q.part) (q.addr + BitVec.ofNat 64 off) (leBytes 8 v) true true true

def State.descRead (s : State) (q : Queue) (off : Nat) : State × Acc Nat :=
  match s.engRead (rootParty q.part) (q.addr + BitVec.ofNat 64 off) 8 true with
  | (s, .ok bs) => (s, .ok (leNat bs))
  | (s, .fault c) => (s, .fault c)
  | (s, .hold) => (s, .hold)

/-- A watch that an engine held goes. -/
def State.dropWatch (s : State) (w : Option Nat) : State := match w with | some id => s.endWatch id | none => s

/-- What the engine takes from a host queue's write-index word: a value that no host may publish is ignored (06 R169). -/
def Queue.take (q : Queue) (w : Nat) : Queue := if q.read ≤ w ∧ w ≤ q.read + 2 ^ q.lslots then { q with seen := w } else q

/-- LAUNCH_QUEUE_WATCH (06 R169): the engine's watch on a host queue's write-index line is not armed or has fired: it is armed
again and the write index is read. Where arming is refused, the word is only read (log 68, DEDUCED). -/
def execLaunchQueueWatch (q : Nat) (s : State) : Host.Outcome State Fault Refusal :=
  match tget s.queues q with
  | none => .next s
  | some d =>
    if d.isDevice ∨ s.steward.power ≠ .aster ∨ d.watch.any s.watching then .next s
    else
      let (s1, id) := (s.dropWatch d.watch).fresh
      match s1.engWatch (rootParty d.part) 0 (d.addr + 0x20) 8 true id with
      | (s', .ok bs) => .next (s'.setQueue q { d.take (leNat bs) with watch := some id })
      | (s', .hold) => .next (s.keepWaiting s')
      | (s', .fault _) =>
        match s'.descRead d 0x20 with
        | (s', .ok w) => .next (s'.setQueue q { d.take w with watch := none })
        | (s', .fault _) => .next s'
        | (s', .hold) => .next (s.keepWaiting s')

/-- DEVICE_QUEUE_MIRROR_RESTORE (06 R170): a write-index word that another party changed gets the engine's count back. -/
def execDeviceQueueMirrorRestore (q : Nat) (s : State) : Host.Outcome State Fault Refusal :=
  match tget s.queues q with
  | none => .next s
  | some d =>
    if d.isDevice = false then .next s
    else
      match s.descRead d 0x20 with
      | (s', .ok w) =>
        if w = d.count then .next s'
        else (match s'.descWrite d 0x20 d.count with
          | (s'', .hold) => .next (s.keepWaiting s'')
          | (s'', _) => .next s'')
      | (s', .fault _) => .next s'
      | (s', .hold) => .next (s.keepWaiting s')

/-- A descriptor read at registration: the mint quad with its tag and the words at 0x10, 0x18 and 0x30. -/
def State.readDesc (s : State) (p : Party) (a : Word) (host : Bool) : State × Acc (Reg × Word × Word × Word) :=
  match s.engReadQuads p a host 4 with
  | (s, .ok [m, r, _, t]) =>
    (s, .ok (⟨m.1, m.2⟩, r.1.extractLsb' 0 64, r.1.extractLsb' 64 64, t.1.extractLsb' 0 64))
  | (s, .ok _) => (s, .hold)
  | (s, .fault c) => (s, .fault c)
  | (s, .hold) => (s, .hold)

/-- A queue of partition `part` whose descriptor stands at `a`. -/
def State.queueAt (s : State) (part : Nat) (a : Word) : Option (Nat × Queue) :=
  s.queues.find? (fun (_, q) => decide (q.part = part ∧ q.addr = a))

/-- Registers a queue with its home die's engine (06 R168): none where the die's table is full (log 91, DEDUCED) (log 134, DESIGN CHOICE). -/
def State.registerQueue (s : State) (part : Nat) (a : Word) (m : Reg) (ring control template : Word) : Option (State × Nat) :=
  let q : Queue := { part := part, addr := a, mint := m, ring := ring, control := control, template := template, read := 0, count := 0
                     parents := [], valid := [], lost := 0, head := none, seen := 0, watch := none }
  let d := s.die q.die
  if 4096 ≤ d.queues.length then none
  else
    let (s, n) := s.fresh
    some ((s.setQueue n q).setDie q.die { d with queues := d.queues ++ [n] }, n)

/-- The basket of a thread. -/
def State.basketOf (s : State) (t : Thread) : Option Nat := (tget s.loads t.load).map Load.basket

/-- `apply_qpub` (06 R171) at a registered queue; `parent` is the basket of the issuing thread (log 135, DESIGN CHOICE). -/
def State.publish (s0 s : State) (t : Thread) (cmd : Cmd) (n : Nat) (q : Queue) (b : Reg) (parent : Option Nat) : Eff :=
  if q.isDevice = false then .retire (s.complete cmd 0x80)
  else if q.count - q.read = 2 ^ q.lslots then .retire (s.complete cmd 0x81)
  else
    match s.engRead cmd.party b.cursor 128 b.hostBit with
    | (s, .fault c) => .retire (s.complete cmd (faultStatus c 0))
    | (s, .hold) => s0.pends s cmd
    | (s, .ok img) =>
      if t.ceil < (imgWord img 0).toNat / 2 ^ 38 % 4 then .retire (s.complete cmd (faultStatus 0x28 0))
      else
        match s.engWrite (rootParty q.part) (q.slotAt q.count) img true true true with
        | (s, .fault c) => .retire (s.complete cmd (faultStatus c 0))
        | (s, .hold) => s0.pends s cmd
        | (s, .ok ()) =>
          match s.descWrite q 0x20 (q.count + 1) with
          | (s, .hold) => s0.pends s cmd
          | (s, _) =>
            let parents := match parent with | some p => tput q.parents q.count ⟨p, clusterOf cmd.core, cmd.scope⟩ | none => q.parents
            let s := s.setQueue n { q with count := q.count + 1, parents := parents }
            let s := match parent with | some p => s.modBasket p (fun x => { x with outstanding := x.outstanding + 1 }) | none => s
            .retire (s.complete cmd (statusWord 0 0 (q.count % 2 ^ 48)))

/-- The control word of a device queue may be registered (06 R171). -/
def deviceControlOk (m : Reg) (w : Word) : Bool :=
  w.getLsbD 8 && m.tag && !m.sealed_ && decide (4 ≤ w.toNat % 256) && decide (w.toNat % 256 ≤ 16) && !w.getLsbD 15 && decide (w.toNat < 2 ^ 16)

/-- A `qpub`: the engine applies the commands to one queue one at a time, in arrival order (06 R171). -/
def Cmd.inQueue (c : Cmd) (addr : Word) : Cmd := { c with lane := .queue c.part addr }

/-- The effect of `qpub` (06 R171) for a thread of a basket. -/
def State.qpubEff (a b c : RegNo) (x : Cx) (parent : Option Nat) (s : State) (t : Thread) : Eff :=
  let ra := t.reg a
  let cmd := (t.cmd s.cur x (t.reg c)).inQueue ra.cursor
  if s.refuted t.part t.hid then .retire (s.complete cmd 2)
  else match s.queueAt t.part ra.cursor with
  | some (n, q) => s.publish s t cmd n q (t.reg b) parent
  | none =>
    match s.readDesc cmd.party ra.cursor ra.hostBit with
    | (s', .fault c) => .retire (s'.complete cmd (faultStatus c 0))
    | (s', .hold) => s.pends s' cmd
    | (s', .ok (m, ring, control, template)) =>
      if deviceControlOk m control = false then .retire (s'.complete cmd 0x80)
      else match s'.registerQueue t.part ra.cursor m ring control template with
        | none => .retire (s'.complete cmd 0x82)
        | some (s', n) =>
          match tget s'.queues n with
          | some q => s.publish s' t cmd n q (t.reg b) parent
          | none => .retire s'

/-- `qpub` (06 R171). -/
def execQpub (a b c : RegNo) (x : Cx) (s : State) : Host.Outcome State Fault Refusal :=
  s.command (.qpub a b c x) x
    (fun t =>
      let ra := t.reg a
      let rb := t.reg b
      [checkCell (t.reg c), opCap ra (permST ||| permENG) 64, opAlign ra 64, opCap rb (permLD ||| permENG) 128, opAlign rb 64,
       opPlace ra 64, opPlace rb 128, cellUnv t.hid (t.reg c)])
    (fun t => s.inLane ((t.cmd s.cur x (t.reg c)).inQueue (t.reg a).cursor) (fun _ => s.qpubEff a b c x (s.basketOf t) t))

/-! ## Packets (06 R172 to R174) -/

def pkPatch (w : Word) : Nat := w.toNat / 2 ^ 48
def pkPrio (w : Word) : Nat := w.toNat / 2 ^ 38 % 4
def pkRing (w : Word) : Bool := w.getLsbD 37
def pkMtx (w : Word) : Bool := w.getLsbD 36
def pkWait (w : Word) : Bool := w.getLsbD 35
def pkKind (w : Word) : Nat := w.toNat / 2 ^ 32 % 4
def pkLoads (w : Word) : Nat := w.toNat / 2 ^ 16 % 2 ^ 16 + 1
def pkCores (w : Word) : Nat := w.toNat / 2 ^ 10 % 64 + 1
def pkTpc (w : Word) : Nat := w.toNat / 2 ^ 6 % 16 + 1
def pkMode (w : Word) : Nat := w.toNat / 2 ^ 4 % 4
def pkDie (w : Word) : Nat := w.toNat % 16

/-- The 16 dwords of 128 bytes. -/
def packetWords (bs : List Byte) : List Word := (List.range 16).map (fun i => imgWord bs (8 * i))

/-- A capability derived from a queue's mint (06 R172). -/
def deriveCap (m : Reg) (base : Word) (len : Nat) (perms : BitVec 14) : Option Reg :=
  match setBounds (m.moved base) len false with
  | .ok c => if m.has perms then some ⟨perms ++ c.bits.extractLsb' 0 114, true⟩ else none
  | .error _ => none

def dataCapOf (m : Reg) (w : List Word) : Option Reg :=
  deriveCap m (w.getD 4 0) ((w.getD 5 0).toNat % 2 ^ 48) ((w.getD 5 0).extractLsb' 48 14)

def codeLines (w : List Word) : Nat := (w.getD 3 0).toNat / 2 ^ 32
def entryOff (w : List Word) : Nat := (w.getD 3 0).toNat % 2 ^ 32

def codeCapOf (m : Reg) (w : List Word) : Option Reg := deriveCap m (w.getD 2 0) (64 * codeLines w) (permLD ||| permEX ||| permGLOBAL)

/-- A region of step 5: dword, size, permissions, alignment. -/
def regionBad (data : Reg) (w : List Word) (i size : Nat) (perms : BitVec 14) (align : Nat) : Option Nat :=
  let a := (w.getD i 0).toNat
  if a % align ≠ 0 ∨ (capCause data perms a size).isSome then some i else none

/-- The first of a list of findings. -/
def firstBad : List (Option Nat) → Option Nat
  | [] => none
  | some i :: _ => some i
  | none :: r => firstBad r

def badIf (c : Bool) (i : Nat) : Option Nat := if c then some i else none

/-- Steps 2 to 6 of 06 R174 on the merged packet: the first dword at fault. `own` is the packet's own dword 0, a replay's
apart from its template's (log 52, DEDUCED). -/
def packetBad (q : Queue) (own : Word) (w : List Word) (data : Reg) : Option Nat :=
  let c := w.getD 0 0
  let r := w.getD 14 0
  let loads := pkLoads c
  let cores := pkCores c
  let members := cores * pkTpc c
  let byte (i : Nat) : Byte := r.extractLsb' (8 * i) 8
  let reserved (v : Word) : Bool := decide (v.toNat / 2 ^ 40 % 256 ≠ 0) || v.getLsbD 34 || v.getLsbD 48
  firstBad [
    badIf (reserved own || reserved c || decide (pkKind own = 3)) 0,
    badIf (decide ((w.getD 5 0).toNat / 2 ^ 62 ≠ 0)) 5,
    badIf (decide (r.toNat / 2 ^ 40 ≠ 0)) 14,
    badIf (codeCapOf q.mint w).isNone 2,
    badIf (decide (codeLines w = 0) || decide (entryOff w % 2 = 1) || decide (entryOff w % 64 = 0) || decide (64 * codeLines w ≤ entryOff w)) 3,
    badIf (decide (q.ceil < pkPrio c) || decide (pkMode c = 3) || (decide (pkMode c = 2) && !q.isDevice)
      || (decide (pkMode c ≠ 1) && decide (pkDie c ≠ 0)) || (pkRing c && !([16, 32, 64].contains cores)) || decide (2 ^ 20 < loads * cores)) 0,
    regionBad data w 9 16 (permST ||| permAMO) 16,
    (if pkWait c then regionBad data w 10 16 (permLD ||| permWATCH) 16 else none),
    (if pkMtx c ∨ pkRing c then regionBad data w 12 (4096 * loads * cores) (permST ||| permLD) 4096 else none),
    regionBad data w 13 (2048 * members * loads) (permLD ||| permST) 2048,
    regionBad data w 15 (64 * members * loads) permST 64,
    badIf ((List.range 4).any (fun i => (byte (i + 1)).getLsbD 7) || (List.range 3).any (fun i => (byte (i + 1)).getLsbD 5)
      || ((decide (byte 3 ≠ 0) || decide (byte 4 ≠ 0)) && !q.wide) || decide (byte 4 &&& ~~~(rREAD ||| rFLAGS) ≠ 0)) 14]

/-- The packet with the lowest number has been accepted: the read index is advanced (06 R174). -/
def State.advanceRead (s : State) (n : Nat) (q : Queue) : State :=
  s.setQueue n { q with read := q.read + 1, parents := tdel q.parents q.read }

/-- The packet as merged, with an early status (06 R178): a replay takes its template's dwords; none yet means a hold (log 54, DEDUCED) (log 136, DESIGN CHOICE). -/
def State.mergePacket (s : State) (q : Queue) (w : List Word) : State × Option (List Word × Option Word) :=
  let own := w.getD 0 0
  if pkKind own ≠ 2 then (s, some (w, none))
  else
    let i := (w.getD 14 0).toNat % 256
    if q.template = 0 ∨ q.valid.contains i = false then (s, some (w, some 0x83))
    else
      match s.engRead (rootParty q.part) (q.template + BitVec.ofNat 64 (128 * i)) 128 q.mint.hostBit with
      | (s, .hold) => (s, none)
      | (s, .fault c) => (s, some (w, some (faultStatus c 0)))
      | (s, .ok bs) =>
        let t := packetWords bs
        (s, some ((List.range 16).map (fun j => if j ≠ 0 ∧ (pkPatch own).testBit j then w.getD j 0 else t.getD j 0), none))

/-- A define packet's store into the template area: the status of its cell; none yet means a hold. -/
def State.defineTemplate (s : State) (n : Nat) (q : Queue) (w : List Word) : State × Option Word :=
  let i := (w.getD 14 0).toNat % 256
  let a := q.template + BitVec.ofNat 64 (128 * i)
  if q.template = 0 then (s, some 0x83)
  else if (capCause q.mint (permLD ||| permST) q.template.toNat (256 * 128)).isSome then (s, some (statusWord 0x80 0 14))
  else
    let w0 := w.getD 0 0 &&& ~~~(3#64 <<< 32)
    match s.engWrite (rootParty q.part) a ((w0 :: w.drop 1).flatMap wordBytes) q.mint.hostBit true true with
    | (s, .ok ()) => (s.setQueue n { q with valid := sinsert q.valid i }, some 0)
    | (s, .fault c) => (s, some (faultStatus c 0))
    | (s, .hold) => (s, none)

/-- Accepts a packet that has been read (06 R174) (log 107, DEDUCED). -/
def State.acceptPacket (s0 s : State) (n : Nat) (q : Queue) (w : List Word) : State :=
  let own := w.getD 0 0
  let parent := tget q.parents q.read
  match s.mergePacket q w with
  | (s', none) => s0.keepWaiting s'
  | (s, some (w, early)) =>
    match dataCapOf q.mint w with
    | none => ((s.advanceRead n q).lostPacket n).childGone parent
    | some data =>
      if (checkCell (data.moved (w.getD 8 0))).isSome then ((s.advanceRead n q).lostPacket n).childGone parent
      else
        let bad := if early.isSome then none else packetBad q own w data
        let early := match bad with | some i => some (statusWord 0x80 0 i) | none => early
        let (s, early) := if early.isNone ∧ pkKind own = 1 then
            (match s.defineTemplate n q w with
             | (s', some st) => (s', some st)
             | (s', none) => (s', none))
          else (s, early)
        if pkKind own = 1 ∧ early.isNone then s0.keepWaiting s
        else
          let q := (tget s.queues n).getD q
          let (s, b) := (s.advanceRead n q).fresh
          let basket : Basket :=
            { pkt := ⟨w, (codeCapOf q.mint w).getD Reg.zero, data⟩, part := q.part, queue := n, parent := parent
              scope := if q.isDevice then (parent.map Parent.scope).getD .mod else .sys, outstanding := 0, live := 0, failed := 0
              admitted := early.isSome, placed := [], early := early, done := false }
          let s := s.setBasket b basket
          if early.isSome then s
          else
            match tget s.queues n with
            | some q => s.setQueue n { q with head := some ⟨b, pkWait (w.getD 0 0), 0, none, false, none⟩ }
            | none => s

/-- PACKET_ACCEPT (06 R174): the packet with the lowest number, once the queue's last basket is wholly admitted; the new read
index is written with it. A packet that cannot be read is discarded and counted (log 53, DEDUCED). -/
def execPacketAccept (q : Nat) (s : State) : Host.Outcome State Fault Refusal :=
  match tget s.queues q with
  | none => .next s
  | some d =>
    if d.head.isSome ∨ d.published ≤ d.read then .next s
    else
      match s.engRead (rootParty d.part) (d.slotAt d.read) 128 true with
      | (s1, .hold) => .next (s.keepWaiting s1)
      | (s1, r) =>
        match s1.descWrite d 0x28 (d.read + 1) with
        | (s2, .hold) => .next (s.keepWaiting s2)
        | (s2, _) =>
          match r with
          | .ok bs => .next (s.acceptPacket s2 q d (packetWords bs))
          | _ => .next (((s2.advanceRead q d).lostPacket q).childGone (tget d.parents d.read))

/-- The basket at a queue's head ends before its loads are all admitted. -/
def State.endHead (s : State) (n : Nat) (basket : Nat) (status : Word) : State :=
  let s := s.modBasket basket (fun b => { b with admitted := true, early := some status })
  match tget s.queues n with
  | some q => (s.setQueue n { q with head := none }).dropWatch (q.head.bind HeadBasket.watch)
  | none => s

/-- BASKET_WAIT_MET (06 R175): the engine arms its watch on the wait cell's line, then compares; a fault of either completes the
basket. -/
def execBasketWaitMet (q : Nat) (s : State) : Host.Outcome State Fault Refusal :=
  match tget s.queues q with
  | none => .next s
  | some d =>
    match d.head with
    | none => .next s
    | some h =>
      match tget s.baskets h.basket with
      | none => .next s
      | some b =>
        if h.waiting = false ∨ h.watch.any s.watching then .next s
        else
          let (s1, id) := (s.dropWatch h.watch).fresh
          match s1.engWatch (rootParty b.part) 0 (b.pkt.word 10) 8 b.pkt.data.hostBit id with
          | (s', .ok bs) =>
            if (b.pkt.word 11).toNat ≤ leNat bs then .next ((s'.endWatch id).setQueue q { d with head := some { h with waiting := false, watch := none } })
            else .next (s'.setQueue q { d with head := some { h with watch := some id } })
          | (s', .fault c) => .next (s'.endHead q h.basket (faultStatus c 0))
          | (s', .hold) => .next (s.keepWaiting s')

/-! ## Blocks (06 R180) -/

/-- The smallest power of two at least `n`, up to 64. -/
def blockSize (n : Nat) : Nat := ([1, 2, 4, 8, 16, 32].find? (fun p => decide (n ≤ p))).getD 64

def Load.isLive (l : Load) : Bool := l.state == .live || l.state == .stopping

/-- A load has a member on one of the cores `[c, c + n)`. -/
def Load.onCores (l : Load) (c n : Nat) : Bool := l.members.any (fun m => decide (c ≤ coreOf m ∧ coreOf m < c + n))

/-- Two ranges of cores meet. -/
def coresMeet (a n b m : Nat) : Bool := decide (a < b + m ∧ b < a + n)

/-- What a placement asks for. -/
structure Want where
  basket : Nat
  cores : Nat
  tpc : Nat
  mtx : Bool
  ring : Bool
  /-- The load that is restored, or none for a new one. -/
  own : Option Nat
  deriving DecidableEq, Repr

/-- Park places that contexts added to some cores would need: `add` gives how many join a core. -/
def State.roomNeed (s : State) (cores : List Nat) (add : Nat → Nat) : Nat :=
  cores.foldl (fun m c =>
    let k := s.core c
    let now := (k.threads.filter (fun (_, t) => decide (t.tier ≠ .stowed))).length
    m + ((now + add c - k.warmSlots) - (now - k.warmSlots))) 0

/-- The cores whose room a placement uses: those of the block, and those on which a restored load's spawned members stand
(06 R180, R184). -/
def State.roomCores (s : State) (w : Want) (c : Nat) : List Nat :=
  let block := (List.range w.cores).map (· + c)
  match w.own.bind (tget s.loads) with
  | some l => (block ++ l.members.map coreOf).eraseDups
  | none => block

/-- A block being cleared for another basket (06 R183 step 1) (log 58, DEDUCED). -/
def State.reservedFor (s : State) (basket c n : Nat) : Bool :=
  s.queues.any (fun (_, q) => match q.head with
    | some h => decide (h.basket ≠ basket) && (match h.block with | some (b, m) => coresMeet b m c n | none => false)
    | none => false)

/-- The block of `p` cores from core `c` is free for a placement (06 R180). -/
def State.blockFree (s : State) (w : Want) (c p : Nat) : Bool :=
  let other (n : Nat) : Bool := decide (some n ≠ w.own)
  let live := s.loads.filter (fun (n, l) => other n && l.isLive)
  let add (k : Nat) : Nat := match w.own with
    | some n => ((s.core k).threads.filter (fun (_, t) => decide (t.load = n))).length
    | none => w.tpc
  !s.reservedFor w.basket c p
    && !(List.range p).any (fun j => (s.core (c + j)).quarantined)
    && !s.loads.any (fun (n, l) => other n && decide (l.basket = w.basket) && l.onCores c p)
    && (w.own.isSome || (List.range w.cores).all (fun j => decide ((s.core (c + j)).threads.length + w.tpc ≤ 256)))
    && !live.any (fun (_, l) => l.mtx && coresMeet l.core0 l.cores c w.cores)
    && !(w.mtx && live.any (fun (_, l) => l.onCores c w.cores))
    && !(w.ring && live.any (fun (_, l) => l.ring && decide (groupOf l.core0 ≤ groupOf (c + p - 1) ∧ groupOf c ≤ groupOf (l.core0 + l.cores - 1))))
    && decide (s.roomNeed (s.roomCores w c) add ≤ s.parkFree (clusterOf c))

/-- Clusters in the order in which a basket searches them (log 55, DEDUCED). -/
def State.searchOrder (s : State) (b : Basket) (home : Nat) : List Nat :=
  let c := b.pkt.word 0
  let last (d : Nat) : Nat := (tget (s.die home).lastCluster d).getD 1023
  let inDie (d : Nat) : List Nat := (List.range 1024).map (fun i => 1024 * d + (last d + 1 + i) % 1024)
  match pkMode c with
  | 1 => inDie (pkDie c)
  | 2 => match b.parent with | some p => [p.cluster] | none => []
  | _ => (List.range 16).flatMap (fun i => inDie ((home + i) % 16))

def State.findBlock (s : State) (w : Want) (order : List Nat) : Option Nat :=
  let p := blockSize w.cores
  order.findSome? (fun cl => ((List.range (64 / p)).map (fun k => 64 * cl + k * p)).find? (fun c => s.blockFree w c p))

/-- Some block in the allowed dies is free of quarantined cores. -/
def State.someSound (s : State) (cores : Nat) (order : List Nat) : Bool :=
  let p := blockSize cores
  order.any (fun cl => (List.range (64 / p)).any (fun k => (List.range p).all (fun j => !(s.core (64 * cl + k * p + j)).quarantined)))

/-! ## Installing a load (06 R181) -/

/-- A place for a context outside the resident tier: warm where the core has room, else the park region. -/
def Core.seat (k : Core) (slot : Nat) (t : Thread) : Core :=
  match freePlace k.warm k.warmSlots with
  | some w => { k with warm := lset k.warm w (some slot), threads := tput k.threads slot { t with tier := .warm } }
  | none => { k with threads := tput k.threads slot { t with tier := .parked } }

/-- An authority entry for the holder's own module. -/
def ownEntry (kind target : Nat) (rights : Byte) : Word := BitVec.ofNat 64 (0x1FF * 2 ^ 48 + target * 2 ^ 16 + kind * 2 ^ 8 + rights.toNat)

/-- The initial state of member `m` of load `l` (06 R181). -/
def newMember (b : Basket) (n l m core tid : Nat) (cycle : Nat) : Thread :=
  let w (i : Nat) : Word := b.pkt.word i
  let c := w 0
  let g := l * (pkCores c * pkTpc c) + m
  let r (i : Nat) : Byte := (w 14).extractLsb' (8 * i) 8
  let entries := [(r 1, ownEntry 3 n (r 1)), (r 2, ownEntry 5 tid (r 2)), (r 3, ownEntry 2 core (r 3)), (r 4, ownEntry 4 (clusterOf core) (r 4))]
  let auth := (entries.filter (fun e => decide (e.1 ≠ 0))).map Prod.snd
  let regs := (List.range 32).map (fun i =>
    if i = 1 then Reg.ofWord (w 6) else if i = 2 then Reg.ofWord (w 7) else if i = 3 then Reg.ofNat l else if i = 4 then Reg.ofNat m
    else if i = 27 then b.pkt.data.withCursor (w 4) else Reg.zero)
  { Thread.blank with
    state := .ready, part := b.part, load := n, regs := regs, pcc := b.pkt.code.withCursor (w 2 + BitVec.ofNat 64 (entryOff b.pkt.words))
    lcore := BitVec.ofNat 20 (l * pkCores c + m / pkTpc c), seed := w 1, faultrec := w 15 + BitVec.ofNat 64 (64 * g)
    ctx := w 13 + BitVec.ofNat 64 (2048 * g), ctxHost := b.pkt.data.hostBit, auth := auth ++ List.replicate (32 - auth.length) 0
    cls := pkPrio c, ceil := pkPrio c, since := cycle }

/-- Installs load `l` of a basket on the block at core `c0`: all its members appear at once, ready. -/
def State.installLoad (s : State) (basket : Nat) (b : Basket) (l c0 : Nat) : State :=
  let c := b.pkt.word 0
  let cl := clusterOf c0
  let k := s.cluster cl
  let n := cl * 2 ^ 18 + k.seq
  let s := s.setCluster cl { k with seq := (k.seq + 1) % 2 ^ 18 }
  let s := (List.range (pkCores c)).foldl (fun s j => s.passCore (c0 + j) b.part) s
  let (s, members) := (List.range (pkCores c * pkTpc c)).foldl (fun (s, ms) m =>
    let core := c0 + m / pkTpc c
    let k := s.core core
    match tfree k.threads 256 0 with
    | some slot =>
      let (s, life) := s.fresh
      (s.setCore core (k.seat slot { newMember b n l m core (256 * core + slot) s.cycle with life := life }), ms ++ [256 * core + slot])
    | none => (s, ms)) (s, [])
  let load : Load :=
    { basket := basket, index := l, cluster := cl, core0 := c0, cores := pkCores c, tpc := pkTpc c, prio := pkPrio c, mtx := pkMtx c
      ring := pkRing c, state := .live, heldAt := 0, members := members, kept := [] }
  (s.setLoad n load).modBasket basket (fun b =>
    { b with live := b.live + 1, placed := (List.range (pkCores c)).map (fun j => (c0 + j, l * pkCores c + j)) ++ b.placed })

/-! ## Pre-emption (06 R182, R183; 05 R160) -/

/-- Loads that stand in a basket's way on a block. -/
def State.conflicts (s : State) (basket c p : Nat) : List (Nat × Load) :=
  s.loads.filter (fun (_, l) => l.isLive && decide (l.basket ≠ basket) && l.onCores c p)

/-- Two candidates' keys: the highest priority among the conflicting loads, then their number. -/
def keyBelow (a b : Nat × Nat) : Bool := decide (a.1 < b.1) || (decide (a.1 = b.1) && decide (a.2 < b.2))

/-- The block whose loads are to be pre-empted (06 R182): least by the key, the earliest in search order among equals. The
firmware's load is of no basket and has no place to be saved to (19 R468). -/
def State.candidate? (s : State) (basket cores prio : Nat) (order : List Nat) : Option Nat :=
  let p := blockSize cores
  let busy := (s.loads.filter (fun (_, l) => l.isLive)).map (fun (_, l) => l.cluster)
  let blocks := (order.filter (fun cl => busy.contains cl)).flatMap (fun cl => (List.range (64 / p)).map (fun k => 64 * cl + k * p))
  (blocks.foldl (fun (best : Option (Nat × Nat × Nat)) c =>
    let cs := s.conflicts basket c p
    if cs = [] ∨ s.reservedFor basket c p ∨ (List.range p).any (fun j => (s.core (c + j)).quarantined)
        ∨ cs.any (fun (_, l) => decide (prio ≤ l.prio) || (tget s.baskets l.basket).isNone) then best
    else
      let key := (cs.foldl (fun m (_, l) => max m l.prio) 0, cs.length)
      match best with
      | none => some (c, key)
      | some (_, k) => if keyBelow key k then some (c, key) else best) none).map Prod.fst

/-- The stop of a member for pre-emption (05 R160 steps 1 and 2). A sleeping thread stays asleep, its watches armed; one that
slept on an access makes it again once it is restored (log 60, DEDUCED). -/
def State.holdMember (s : State) (tid : Nat) : State :=
  let s := s.modThread tid (fun t => { t with held := true, leaving := false, resv := none })
  match s.thread? tid with
  | none => s
  | some t =>
    if t.fault.isSome then s
    else match t.state, t.wait with
      | .sleeping, .sleep => s
      | .sleeping, .waitge _ true => s
      | .sleeping, _ => (s.halt tid .sleeping).modThread tid (fun u => { u with wait := .access })
      | .ready, _ => if t.wait = .access ∨ t.window ≠ [] then s.halt tid .ready else s
      | .running, _ => s.halt tid .ready
      | _, _ => s

/-- The pre-emption of a load begins. -/
def State.startPreempt (s : State) (n : Nat) : State :=
  match tget s.loads n with
  | none => s
  | some l =>
    if l.state ≠ .live then s
    else (l.members.foldl State.holdMember (s.setLoad n { l with state := .stopping })).pauseTrees n

/-- The save record of the `j`-th core of a load. -/
def Basket.saveAt (b : Basket) (l : Load) (j : Nat) : Word := b.pkt.word 12 + BitVec.ofNat 64 (4096 * (l.index * l.cores + j))

def accBytes (x : List Nat) : List Byte := (List.range 256).flatMap (fun i => leBytes 4 (x.getD i 0))
def accOf (bs : List Byte) : List Nat := (List.range 256).map (fun i => leNat ((bs.drop (4 * i)).take 4))

/-- What a load's save records hold (06 R183). -/
def State.saveImages (s : State) (b : Basket) (l : Load) : List (Word × List Byte) :=
  if l.mtx = false ∧ l.ring = false then []
  else (List.range l.cores).flatMap (fun j =>
    let core := l.core0 + j
    let k := s.core core
    (if l.mtx then [(b.saveAt l j, accBytes k.acc0 ++ accBytes k.acc1)] else [])
      ++ [(b.saveAt l j + 0x800, if l.ring then (s.ring (groupOf core)).saveImage (core % 16) else zeroBytes 2048)])

/-- A member is settled: nothing of it is under way (05 R160 step 3) (log 60, DEDUCED). -/
def State.settledMember (s : State) (tid : Nat) : Bool :=
  match s.thread? tid with
  | some t => decide (t.stores = []) && decide (t.fault = none) && !s.hasCommands tid
  | none => true

/-- Contexts of a load leave the core: stowed (05 R160 step 4). -/
def Core.stow (k : Core) (n : Nat) : Core :=
  let gone (p : Option Nat) : Bool := match p with | some i => (match tget k.threads i with | some t => decide (t.load = n) | none => false) | none => false
  { k with resident := k.resident.map (fun p => if gone p then none else p), warm := k.warm.map (fun p => if gone p then none else p)
           threads := k.threads.map (fun (i, t) => (i, if t.load = n then { t with tier := .stowed, line := none } else t)) }

/-- LOAD_PREEMPT (06 R183): with every member stopped and settled and the rings quiet, contexts are stowed, accumulators
and rings saved, claims released. -/
def execLoadPreempt (load : Nat) (s : State) : Host.Outcome State Fault Refusal :=
  match tget s.loads load with
  | none => .next s
  | some l =>
    match tget s.baskets l.basket with
    | none => .next s
    | some b =>
      if l.state ≠ .stopping then .next s
      else
        let cores := (l.members.map coreOf).eraseDups
        let s := cores.foldl (fun s c => (s.preemptQueue c load).endSuspended c load) s
        let s := l.groups.foldl (fun s g => if s.ringQuiet g then s.ringCancel g else s) s
        if !l.members.all s.settledMember ∨ l.groups.any (fun g => !s.ringQuiet g || decide ((s.ring g).waiting ≠ [])) then .next s
        else
          let hot := l.members.filterMap (fun tid => (s.thread? tid).map (fun t => (tid, t)))
          let (s1, r) := hot.foldl (fun (s, r) (tid, t) =>
            match r with
            | Acc.ok () =>
              (match s.engWrite (t.agentParty tid) t.ctx (t.hotImage tid) t.ctxHost true true with
               | (s, .fault c) => (s.blockFailed tid c, .fault c)
               | x => x)
            | r => (s, r)) (s, Acc.ok ())
          match r with
          | .hold => .next (s.keepWaiting s1)
          | .fault _ => .next s1
          | .ok () =>
            match s1.saveAll (rootParty b.part) b.pkt.data.hostBit (s1.saveImages b l) with
            | (s2, .hold) => .next (s.keepWaiting s2)
            | (s2, .fault _) => .next (s2.failLoad load (fun _ => false))
            | (s2, .ok ()) =>
              let kept := l.groups.map (fun g => (g, s2.ring g))
              let s2 := l.groups.foldl (fun s g => s.setRing g Ring.reset) s2
              let s2 := cores.foldl (fun s c => s.setCore c ((s.core c).stow load)) s2
              .next (s2.setLoad load { l with state := .held, heldAt := s.cycle, kept := kept })

/-! ## Restore (06 R184, R185; 14 R384; 05 R160) -/

/-- What a restored member finds (05 R160): its armed watches of local memory have fired, and a wait on a local word looks
again. -/
def State.wakeLocal (s : State) (tid : Nat) : State :=
  match s.thread? tid with
  | none => s
  | some t =>
    let s := (List.range 8).foldl (fun s i =>
      match t.watch[i]? with
      | some w =>
        if w.armed ∧ isWindow (BitVec.ofNat 64 (64 * w.line)) then
          (s.removeNow tid i false (BitVec.ofNat 64 (64 * w.line))).modThread tid (fun u => u.fireSlot i s.cycle)
        else s
      | none => s) s
    match t.hidden with
    | some a => if isWindow a then (s.removeNow tid 0 true a).modThread tid (fun u => u.fireHidden s.cycle) else s
    | none => s

/-- Reads a list of spans by an engine. -/
def State.readAll (s : State) (p : Party) (host : Bool) : List (Word × Nat) → State × Acc (List (List Byte))
  | [] => (s, .ok [])
  | (a, n) :: r =>
    match s.engRead p a n host with
    | (s, .ok bs) =>
      (match s.readAll p host r with
       | (s, .ok l) => (s, .ok (bs :: l))
       | o => o)
    | (s, .fault c) => (s, .fault c)
    | (s, .hold) => (s, .hold)

/-- The held loads of a die's engine in its list's order: by priority, then by the time of pre-emption (log 56, DEDUCED). -/
def State.heldList (s : State) (die : Nat) : List (Nat × Load) :=
  let mine := s.loads.filter (fun (_, l) => l.state == .held &&
    (match tget s.queues (s.queueOf l) with | some q => decide (q.die = die) | none => false))
  let before (a b : Nat × Load) : Bool := decide (b.2.prio < a.2.prio) || (decide (a.2.prio = b.2.prio) && decide (a.2.heldAt ≤ b.2.heldAt))
  let ins (x : Nat × Load) : List (Nat × Load) → List (Nat × Load) := fun l => l.takeWhile (fun y => !before x y) ++ x :: l.dropWhile (fun y => !before x y)
  mine.foldr ins []

/-- Restores a held load whose cores are free; none while a page it needs is being moved. -/
def State.restoreLoad (s : State) (n : Nat) (l : Load) (b : Basket) : State :=
  let p := rootParty b.part
  let host := b.pkt.data.hostBit
  let accAt := if l.mtx then (List.range l.cores).map (fun j => (b.saveAt l j, 2048)) else []
  let ringAt := if l.ring then (List.range l.cores).map (fun j => (b.saveAt l j + 0x800, 2048)) else []
  match s.readAll p host (accAt ++ ringAt) with
  | (s', .hold) => s.keepWaiting s'
  | (s', .fault _) => s'.failLoad n (fun _ => false)
  | (s', .ok bs) =>
    let accs := bs.take accAt.length
    let imgs := bs.drop accAt.length
    let s := if l.mtx then (List.range l.cores).foldl (fun s j =>
        let k := s.core (l.core0 + j)
        let x := accs.getD j []
        s.setCore (l.core0 + j) { k with acc0 := accOf (x.take 1024), acc1 := accOf (x.drop 1024) }) s' else s'
    let s := if l.ring then l.groups.foldl (fun s g =>
        let first := 16 * g - l.core0
        s.setRing g (((tget l.kept g).getD Ring.reset).restored ((imgs.drop first).take 16) s.cycle)) s else s
    let s := s.setLoad n { l with state := .live, kept := [] }
    let s := l.members.foldl (fun s tid =>
      match s.thread? tid with
      | some t =>
        let k := s.core (coreOf tid)
        let t := { t with held := false, since := s.cycle }
        let t := if t.state = .sleeping ∧ t.wait = .access then ({ t with wait := .none } : Thread).wake s.cycle else t
        (s.setCore (coreOf tid) (k.seat (slotOf tid) t)).wakeLocal tid
      | none => s) s
    s.resumeTrees n

/-- Restores, in list order, every held load of a die's engine that can be restored. -/
def State.restoreAll (s : State) (die : Nat) : State :=
  (s.heldList die).foldl (fun s (n, l) =>
    match tget s.baskets l.basket with
    | some b =>
      let w : Want := ⟨l.basket, l.cores, l.tpc, l.mtx, l.ring, some n⟩
      if s.blockFree w l.core0 (blockSize l.cores) then s.restoreLoad n l b else s
    | none => s) s

/-! ## Admission (06 R179, R182) -/

/-- The queue heads of a die that may be admitted, at a priority: the one that keeps the turn, then in the rotation's order
(06 R179, R182). -/
def State.headsAt (s : State) (die prio : Nat) : List (Nat × Queue × HeadBasket × Basket) :=
  let d := s.die die
  let qs := d.queues.dropWhile (fun n => decide (n ≠ d.lastQueue)) |>.drop 1
  let order := qs ++ d.queues.filter (fun n => !qs.contains n)
  let heads := order.filterMap (fun n =>
    match tget s.queues n with
    | some q =>
      (match q.head with
       | some h =>
         (match tget s.baskets h.basket with
          | some b => if h.waiting = false ∧ pkPrio (b.pkt.word 0) = prio then some (n, q, h, b) else none
          | none => none)
       | none => none)
    | none => none)
  heads.filter (fun x => x.2.2.1.turn) ++ heads.filter (fun x => !x.2.2.1.turn)

/-- The load just placed is the next of its basket: with the last one the queue's head is free, and the choices made last
are recorded (06 R179, R180) (log 57, DEDUCED). -/
def State.placedLoad (s : State) (die n : Nat) (h : HeadBasket) (b : Basket) (c0 : Nat) : State :=
  let c := b.pkt.word 0
  let s := s.setDie die { s.die die with lastQueue := n }
  match tget s.queues n with
  | none => s
  | some q =>
    if h.next + 1 < pkLoads c then s.setQueue n { q with head := some { h with next := h.next + 1, block := none, turn := true } }
    else
      let s := (s.setQueue n { q with head := none }).modBasket h.basket (fun x => { x with admitted := true })
      let cl := clusterOf c0
      s.setDie die { s.die die with lastCluster := tput (s.die die).lastCluster (dieOf cl) (cl % 1024) }

/-- Tries to admit the next load of a head basket: whether it was placed (or the basket ended). -/
def State.tryHead (s : State) (die n : Nat) (q : Queue) (h : HeadBasket) (b : Basket) : State × Bool :=
  let c := b.pkt.word 0
  let w : Want := ⟨h.basket, pkCores c, pkTpc c, pkMtx c, pkRing c, none⟩
  let order := s.searchOrder b die
  let place (c0 : Nat) : State × Bool := ((s.installLoad h.basket b h.next c0).placedLoad die n h b c0, true)
  match h.block with
  | some (c0, p) =>
    if s.conflicts h.basket c0 p ≠ [] then (s, false)
    else if s.blockFree w c0 p then place c0
    else (s.setQueue n { q with head := some { h with block := none, turn := true } }, false)
  | none =>
    match s.findBlock w order with
    | some c0 => place c0
    | none =>
      if s.someSound (pkCores c) order = false then (s.endHead n h.basket 0x82, true)
      else
        match s.candidate? h.basket (pkCores c) (pkPrio c) order with
        | none => (s.setQueue n { q with head := some { h with turn := true } }, false)
        | some c0 =>
          let p := blockSize (pkCores c)
          let s' := (s.conflicts h.basket c0 p).foldl (fun s (m, _) => s.startPreempt m) s
          (s'.setQueue n { q with head := some { h with block := some (c0, p), turn := true } }, false)

/-- New work, from priority `prio - 1` down to `low`: at each priority the first queue of the rotation. -/
def State.admitBelow (s : State) (die low : Nat) : Nat → State
  | 0 => s
  | prio + 1 =>
    if prio < low then s
    else
      match s.headsAt die prio with
      | (n, q, h, b) :: _ =>
        (match s.tryHead die n q h b with
         | (s, true) => s
         | (s, false) => s.admitBelow die low prio)
      | [] => s.admitBelow die low prio

/-- ADMISSION_CHOICE (06 R179, R185): restores first, then one load of new work, at priorities strictly above those of the
loads still held. -/
def execAdmissionChoice (die : Nat) (s : State) : Host.Outcome State Fault Refusal :=
  let s := s.restoreAll die
  let low := match s.heldList die with | (_, l) :: _ => l.prio + 1 | [] => 0
  .next (s.admitBelow die low 4)

end Sys2Proof.Machine
end

