-- ==== Sys2Proof/Machine/Agent.lean ====
section
/-!
DEFINITION. Sys2Proof/Machine/Agent.lean: the nine agent commands (05 R145 to R159, R164): what is checked at issue, and how
the agent of the target applies them one at a time.
-/
namespace Sys2Proof.Machine

/-! ## Target references (05 R146) -/

def refTarget (a : Quad) : Nat := fld a 0 28
def refChip (a : Quad) : Nat := fld a 28 9
def refClr (a : Quad) : Bool := a.getLsbD 62
def refKind (a : Quad) : Bool := a.getLsbD 63
def refMask (a : Quad) : Nat := fld a 64 37
/-- The cluster of a kind 1 reference. -/
def refCluster (a : Quad) : Nat := refTarget a / 2 ^ 14

/-- The module a chip field names. -/
def State.chipOf (s : State) (chip : Nat) : Nat := if chip = 0x1FF then s.bridge.chip else chip

/-- Members of major 0x28. -/
inductive AgentOp where | spawn | tstop | tstart | tread | twrite | tstat | agrant | arevoke | sfreplay
  deriving DecidableEq, Repr

def AgentOp.code : AgentOp → Nat
  | .spawn => 0 | .tstop => 1 | .tstart => 2 | .tread => 3 | .twrite => 4 | .tstat => 5 | .agrant => 6 | .arevoke => 7 | .sfreplay => 8

/-- The member of a code. -/
def AgentOp.ofCode (n : Nat) : AgentOp :=
  match n with
  | 0 => .spawn | 1 => .tstop | 2 => .tstart | 3 => .tread | 4 => .twrite | 5 => .tstat | 6 => .agrant | 7 => .arevoke | _ => .sfreplay

/-- The right a member needs over its target. -/
def AgentOp.right : AgentOp → Byte
  | .spawn => rSPAWN | .tstop => rSTOP | .tstart => rSTART | .tread | .tstat => rREAD
  | .twrite | .sfreplay => rREWRITE | .agrant | .arevoke => rGRANT

/-- Members that change thread state (05 R147). -/
def AgentOp.changes : AgentOp → Bool
  | .tread | .tstat => false
  | _ => true

/-- A reserved bit of the reference is set (05 R146, R157). -/
def refBad (op : AgentOp) (a : Quad) : Bool :=
  decide (fld a 101 27 ≠ 0) || decide (fld a 37 25 ≠ 0) || (decide (op ≠ .twrite) && decide (refMask a ≠ 0))
    || (decide (op = .twrite) && a.getLsbD 64) || (decide (op ≠ .tstat) && (refKind a || refClr a))
    || (refClr a && !refKind a) || (refKind a && decide (fld a 0 14 ≠ 0))

/-- A reserved bit of the data in b is set, or the data is malformed (05 R145, R158, R164). -/
def dataBad (op : AgentOp) (b : Quad) : Bool :=
  match op with
  | .tstop | .tstart => !zeroAbove b 1
  | .agrant => !zeroAbove b 64 || entBad (b.setWidth 64)
  | .arevoke => !zeroAbove b 32
  | .sfreplay => !zeroAbove b 8 || decide (fld b 0 4 &&& fld b 4 4 ≠ 0)
  | _ => false

/-- The checks of b where it is a capability (05 R153, R154, R157). -/
def agentOperand (op : AgentOp) (b : Reg) : List (Option Trap) :=
  let span (p : BitVec 14) (n : Nat) : List (Option Trap) := [opCap b (p ||| permENG) n, opAlign b 64, opPlace b n]
  match op with
  | .tread => span permST 2048
  | .twrite => span permLD 2048
  | .tstat => span permST 64
  | _ => []

/-! ## Authority at issue (05 R142, R155, R158) -/

/-- The core that a spawn descriptor names for a spawner on core `me`. -/
def spawnCore (me : Nat) (b : Quad) : Nat := if fld b 0 20 = 0xFFFFF then me else fld b 0 20

/-- SPAWN in an entry that would cover the new thread (05 R155). -/
def Thread.maySpawn (t : Thread) (own tid core : Nat) : Bool :=
  t.auth.any (fun e => entHas rSPAWN e && chipAgrees own (entChip e) own &&
    (match entKind e with
     | 2 => decide (entTarget e = core)
     | 3 => decide (entTarget e = t.load)
     | 4 => decide (entTarget e = clusterOf core)
     | 5 => decide (entTarget e = tid)
     | _ => false))

/-- Entries of kinds 1, 2 and 4 decide for the command at the issuing core; a thread needs none over itself for `agrant` and
`arevoke`. -/
def State.grantedHere (s : State) (t : Thread) (op : AgentOp) (a : Quad) : Bool :=
  let chip := s.chipOf (refChip a)
  (decide (op = .agrant ∨ op = .arevoke) && decide (chip = s.bridge.chip ∧ refTarget a = s.cur))
    || t.auth.any (fun e => entHas op.right e && entCoversHere s.bridge.chip chip (refTarget a) e)

/-- Entries of kinds 3 and 5 that carry the right: the target's agent decides them. -/
def Thread.sentEntries (t : Thread) (r : Byte) : List Word := t.auth.filter (fun e => entHas r e && decide (entKind e = 3 ∨ entKind e = 5))

/-- FLAGS in a kind 4 entry over the cluster of a reference (05 R154). -/
def State.mayFlags (s : State) (t : Thread) (a : Quad) : Bool :=
  t.auth.any (fun e => entHas rFLAGS e && decide (entKind e = 4) && chipAgrees s.bridge.chip (entChip e) (refChip a) && decide (entTarget e = refCluster a))

/-- The authority check at issue. -/
def State.agentAuthority (s : State) (t : Thread) (op : AgentOp) (a b : Quad) : Option Trap :=
  let ok :=
    match op with
    | .spawn =>
      let core := spawnCore (coreOf s.cur) b
      decide (clusterOf core = clusterOf (coreOf s.cur)) && t.maySpawn s.bridge.chip s.cur core
    | .tstat => if refKind a then s.mayFlags t a else s.grantedHere t op a || decide (t.sentEntries op.right ≠ [])
    | .agrant => (s.grantedHere t op a || decide (t.sentEntries op.right ≠ [])) && t.auth.any (fun g => entContains s.bridge.chip (s.chipOf (refChip a)) g (b.setWidth 64))
    | _ => s.grantedHere t op a || decide (t.sentEntries op.right ≠ [])
  need ok (plainTrap 0x28)

/-! ## Issue (05 R147) -/

/-- `issue_agent_cmd`, in its order. -/
def State.agentChecks (s : State) (op : AgentOp) (t : Thread) (a b c : Reg) : List (Option Trap) :=
  (if op = .spawn then
     [reservedIf (!zeroAbove b.bits 21), opCap a (permLD ||| permST ||| permENG) 2048, opAlign a 2048, opPlace a 2048, checkCell c]
   else
     [reservedIf (refBad op a.bits || dataBad op b.bits), need (decide (refChip a.bits ≤ 287 ∨ refChip a.bits = 0x1FF)) (plainTrap 0x16), checkCell c])
    ++ agentOperand op b
    ++ [need (!op.changes || decide (t.hid = 0) || c.unv) ⟨0x20, c.cursor, .cell, 6⟩, s.agentAuthority t op a.bits b.bits]

/-- The order a command is applied in: that of its target (05 R148). -/
def agentLane (op : AgentOp) (chip target : Nat) (cluster : Bool) : Lane :=
  .target (if op = .spawn then 0 else if cluster then 1 else 2) chip target

/-- A command accepted: it stands in the order of arrival until its target's agent takes it. -/
def State.agentCmd (s : State) (op : AgentOp) (i : Instr) (a b c : RegNo) (x : Cx) : Host.Outcome State Fault Refusal :=
  s.command i x (fun t => s.agentChecks op t (t.reg a) (t.reg b) (t.reg c))
    (fun t =>
      let ra := t.reg a
      let rb := t.reg b
      let target := match op with
        | .spawn => spawnCore (coreOf s.cur) rb.bits
        | _ => if refKind ra.bits then refCluster ra.bits else refTarget ra.bits
      let here := decide (op = .spawn) || refKind ra.bits || s.grantedHere t op ra.bits
      let chip := if op = .spawn then s.bridge.chip else s.chipOf (refChip ra.bits)
      let cmd := { t.cmd s.cur x (t.reg c) with lane := agentLane op chip target (refKind ra.bits) }
      let q : AgentCmd := ⟨cmd, op.code, ra, rb, target, t.sentEntries op.right, here, 0, s.nextReq, none⟩
      .retire { s with agentQ := s.agentQ ++ [q] })

def execSpawn (a b c : RegNo) (x : Cx) (s : State) : Host.Outcome State Fault Refusal := s.agentCmd .spawn (.spawn a b c x) a b c x
def execTstop (a b c : RegNo) (x : Cx) (s : State) : Host.Outcome State Fault Refusal := s.agentCmd .tstop (.tstop a b c x) a b c x
def execTstopRetire (a b c : RegNo) (x : Cx) (s : State) : Host.Outcome State Fault Refusal := s.agentCmd .tstop (.tstopRetire a b c x) a b c x
def execTstart (a b c : RegNo) (x : Cx) (s : State) : Host.Outcome State Fault Refusal := s.agentCmd .tstart (.tstart a b c x) a b c x
def execTread (a b c : RegNo) (x : Cx) (s : State) : Host.Outcome State Fault Refusal := s.agentCmd .tread (.tread a b c x) a b c x
def execTwrite (a b c : RegNo) (x : Cx) (s : State) : Host.Outcome State Fault Refusal := s.agentCmd .twrite (.twrite a b c x) a b c x
def execTstat (a b c : RegNo) (x : Cx) (s : State) : Host.Outcome State Fault Refusal := s.agentCmd .tstat (.tstat a b c x) a b c x
def execTstatCluster (a b c : RegNo) (x : Cx) (s : State) : Host.Outcome State Fault Refusal := s.agentCmd .tstat (.tstatCluster a b c x) a b c x
def execAgrant (a b c : RegNo) (x : Cx) (s : State) : Host.Outcome State Fault Refusal := s.agentCmd .agrant (.agrant a b c x) a b c x
def execArevoke (a b c : RegNo) (x : Cx) (s : State) : Host.Outcome State Fault Refusal := s.agentCmd .arevoke (.arevoke a b c x) a b c x
def execSfreplay (a b c : RegNo) (x : Cx) (s : State) : Host.Outcome State Fault Refusal := s.agentCmd .sfreplay (.sfreplay a b c x) a b c x

/-! ## Application -/

/-- What applying a command gives: the state and, unless the command has finished, the command as it stands. -/
abbrev AgentResult := State × Option AgentCmd

/-- The command ends with a status, which goes to its cell, or back to the module that sent it with what it has read. -/
def State.agentEnd (s : State) (q : AgentCmd) (status : Word) (bytes : List Byte) : State :=
  match q.peer with
  | none => s.complete q.cmd status
  | some p => s.emit (.agentReply p.chip p.tid status bytes)

/-- The command finishes with a status. -/
def State.agentDone (s : State) (q : AgentCmd) (status : Word) : AgentResult := (s.agentEnd q status [], none)

/-- The command waits, with only what waiting leaves. -/
def State.agentHeld (s waited : State) (q : AgentCmd) : AgentResult := (s.keepWaiting waited, some q)

/-- The result of a write that ends a command. -/
def State.agentWrote (s : State) (q : AgentCmd) (r : State × Acc Unit) (status : Word) : AgentResult :=
  match r with
  | (s', .ok ()) => s'.agentDone q status
  | (s', .fault c) => s'.agentDone q (faultStatus c 0)
  | (s', .hold) => s.agentHeld s' q

/-- The thread is at rest (05 R152, R153, R157, R164). -/
def Thread.atRest (t : Thread) : Bool := t.state == .stopped || t.state == .faulted || t.state == .orphaned

/-- `tstop` (05 R150): phase 0 stops, phase 1 waits for the stores and, with retire, for the commands. -/
def State.applyTstop (s : State) (q : AgentCmd) (t : Thread) : AgentResult :=
  let tid := q.target
  let retire := q.b.bits.getLsbD 0
  if q.phase = 0 ∧ t.atRest ∧ retire = false then s.agentDone q 0
  else
    let s := if q.phase = 0 ∧ t.atRest = false then (s.halt tid .stopped).modThread tid (fun u => { u with ask := .stop }) else s
    match s.thread? tid with
    | none => s.agentDone q 0x82
    | some u =>
      if u.stores ≠ [] ∨ u.fault.isSome then (s, some { q with phase := 1 })
      else
        let s := s.modThread tid (fun v => { v with ask := .none })
        if retire = false then s.agentDone q 0
        else if s.hasCommands tid then (s, some { q with phase := 1 })
        else (s.endThread tid).agentDone q 0

/-- `tstart` (05 R152), its first matching row. -/
def State.applyTstart (s : State) (q : AgentCmd) (t : Thread) : AgentResult :=
  let discard := q.b.bits.getLsbD 0
  if t.atRest = false then s.agentDone q (faultStatus 0x29 0)
  else if s.refuted t.part t.hid then s.agentDone q (faultStatus 0x22 0)
  else if t.sfq ≠ [] ∧ discard = false then s.agentDone q (faultStatus 0x18 0)
  else (s.modThread q.target (fun u => { u with sfq := [], ovf := 0 : Thread }.wake s.cycle)).agentDone q 0

/-- Writes a context image (05 R153): register quads and `pcc` with their memory tags where the thread's are set and `stc`. -/
def State.writeImage (s : State) (p : Party) (b : Reg) (t : Thread) (tid : Nat) : State × Acc Unit :=
  let img := t.image tid
  let stc := b.has permSTC
  let quads : List (Nat × Bool) := (List.range 128).map (fun i =>
    (16 * i, stc && (if i < 32 then (t.reg (BitVec.ofNat 5 i)).tag else decide (i = 33) && t.pcc.tag)))
  quads.foldl (fun (s, r) (off, tag) =>
    match r with
    | Acc.ok () => s.engWrite1 p (b.cursor + BitVec.ofNat 64 off) ((img.drop off).take 16) tag b.hostBit b.unv false
    | r => (s, r)) (s, Acc.ok ())

/-- `tread` (05 R153). -/
def State.applyTread (s : State) (q : AgentCmd) (t : Thread) : AgentResult :=
  if t.atRest = false then s.agentDone q (faultStatus 0x29 0)
  else if q.peer.isSome then (s.agentEnd q 0 (t.image q.target), none)
  else s.agentWrote q (s.writeImage q.cmd.party q.b t q.target) 0

/-- The line of a thread (05 R154). -/
def Thread.statLine (t : Thread) : List Byte :=
  wordBytes t.stateWord ++ wordBytes t.pcc.cursor ++ wordBytes t.kHyp ++ wordBytes t.kPrio ++ wordBytes t.kWake
    ++ leBytes 8 t.sfMask ++ wordBytes t.nextSeq ++ leBytes 8 (t.load % 2 ^ 32)

/-- Writes the 64-byte line of a `tstat`. -/
def State.writeStat (s : State) (q : AgentCmd) (line : List Byte) (status : Word) : AgentResult :=
  if q.peer.isSome then (s.agentEnd q status line, none)
  else s.agentWrote q (s.engWrite q.cmd.party q.b.cursor line q.b.hostBit q.b.unv false) status

/-- `tstat` of a cluster (05 R154). -/
def State.applyFlags (s : State) (q : AgentCmd) : AgentResult :=
  let k := s.cluster q.target
  let r := s.writeStat q (leBytes 8 k.flags.toNat ++ zeroBytes 56) 0
  if refClr q.a.bits ∧ r.2.isNone then
    let k := r.1.cluster q.target
    (r.1.setCluster q.target { k with flags := 0 }, r.2)
  else r

/-! ## Images (05 R155, R157) -/

/-- An image as an agent reads it: its bytes and the memory tags of its quads. -/
structure Image where
  bytes : List Byte
  tags : List Bool
  deriving DecidableEq, Repr

def Image.ofQuads (qs : List (Quad × Bool)) : Image := ⟨qs.flatMap (fun x => quadBytes x.1), qs.map Prod.snd⟩
def Image.word (m : Image) (off : Nat) : Word := imgWord m.bytes off
/-- Register `i`, or `pcc` for 32, as an image gives it: tagged where the tag word, memory and LDC all say so. -/
def Image.reg (m : Image) (ldc : Bool) (i : Nat) : Reg :=
  let off := if i < 32 then 16 * i else 0x210
  ⟨imgQuad m.bytes off, ldc && (m.word 0x200).getLsbD i && m.tags.getD (off / 16) false⟩
/-- The rounding mode of an image is reserved. -/
def Image.badRm (m : Image) : Bool := decide (6 ≤ (m.word 0x240).toNat / 256 % 8)
/-- k.fpcsr of an image, its reserved bits dropped (03 R86). -/
def Image.fpcsr (m : Image) : Word := m.word 0x240 &&& 0xFFFFFFFFFFFF071F#64

/-- The cause that stops a `twrite` (05 R157). -/
def Image.rewriteCause (m : Image) (ldc : Bool) (mask ceil : Nat) : Option Byte :=
  let pcc := m.reg ldc 32
  if mask.testBit 32 && !pcc.tag then some 0x05
  else if mask.testBit 32 && !pcc.has permEX then some 0x08
  else if mask.testBit 33 && m.badRm then some 0x02
  else if mask.testBit 35 && decide (ceil < (m.word 0x258).toNat % 4) then some 0x28
  else none

/-- The named parts of a thread rewritten from an image. -/
def Thread.rewritten (t : Thread) (m : Image) (ldc : Bool) (mask : Nat) : Thread :=
  { t with
    regs := (List.range 32).map (fun i => if i ≠ 0 ∧ mask.testBit i then m.reg ldc i else t.regs.getD i Reg.zero)
    pcc := if mask.testBit 32 then m.reg ldc 32 else t.pcc
    line := if mask.testBit 32 then none else t.line
    fpcsr := if mask.testBit 33 then m.fpcsr else t.fpcsr
    faultrec := if mask.testBit 34 then m.word 0x248 &&& ~~~63#64 else t.faultrec
    cls := if mask.testBit 35 then (m.word 0x258).toNat % 4 else t.cls
    fired := if mask.testBit 36 then (m.word 0x260).setWidth 8 else t.fired
    pend := if mask.testBit 36 then (m.word 0x260).getLsbD 8 else t.pend }

/-- `twrite` (05 R157). -/
def State.applyTwrite (s : State) (q : AgentCmd) (t : Thread) : AgentResult :=
  if t.atRest = false then s.agentDone q (faultStatus 0x29 0)
  else
    match (match q.peer with | some p => (s, Acc.ok p.image) | none => s.engReadQuads q.cmd.party q.b.cursor q.b.hostBit 128) with
    | (s', .hold) => s.agentHeld s' q
    | (s', .fault c) => s'.agentDone q (faultStatus c 0)
    | (s', .ok qs) =>
      let m := Image.ofQuads qs
      let ldc := q.b.has permLDC || q.peer.isSome
      match m.rewriteCause ldc (refMask q.a.bits) t.ceil with
      | some c => s'.agentDone q (faultStatus c 0)
      | none => (s'.modThread q.target (fun u => u.rewritten m ldc (refMask q.a.bits))).agentDone q 0

/-! ## Granting (05 R158, R159) -/

def State.applyAgrant (s : State) (q : AgentCmd) (t : Thread) : AgentResult :=
  match (List.range 32).find? (fun i => decide (entKind (t.auth.getD i 0) = 0)) with
  | none => s.agentDone q 0x84
  | some i =>
    (s.modThread q.target (fun u => { u with auth := lput 0 u.auth i (entKept (q.b.bits.setWidth 64)), authGen := u.authGen + 1 })).agentDone q (statusWord 0 0 i)

def State.applyArevoke (s : State) (q : AgentCmd) (t : Thread) : AgentResult :=
  let hit (i : Nat) : Bool := q.b.bits.getLsbD i && decide (entKind (t.auth.getD i 0) ≠ 0)
  if (List.range 32).any hit then
    (s.modThread q.target (fun u =>
      { u with auth := (List.range 32).map (fun i => if hit i then 0 else u.auth.getD i 0), authGen := u.authGen + 1 })).agentDone q 0
  else s.agentDone q 0

/-! ## Replaying store faults (05 R164) -/

/-- Whom a replay of a thread's queued stores accesses memory for; the load number, which no load has, tells its holds from
those of the thread's commands. -/
def Thread.replayParty (t : Thread) (tid hid : Nat) : Party := ⟨t.part, hid, coreOf tid, tid, 2 ^ 32, false, none⟩

/-- One queued store performed as the target's own, from R23 check 3 on. The capability's HOST and UNV bits are not in the
queue: what they would have let through goes through, unless it was their absence that made the store fault (log 25, DEDUCED). -/
def State.replayOne (s : State) (tid : Nat) (t : Thread) (e : SfEntry) : State × Acc Unit :=
  let p := t.replayParty tid e.hid
  let bs := (quadBytes e.data).take (2 ^ e.width)
  let host := decide (e.cause ≠ 0x08)
  let unv := decide (e.cause ≠ 0x20)
  if e.tag ∧ e.addr.toNat % 16 = 0 then s.engWrite1 p e.addr bs true host unv false else s.engWrite p e.addr bs host unv false

/-- What became of the entries: those kept, the masks again and gone, and whether one was held. -/
structure Replay where
  kept : List SfEntry
  again : Nat
  gone : Nat
  held : Bool

/-- A replay is over: what the slices still hold of it, its denials among them, goes. -/
def State.replayOver (s : State) (tid : Nat) : State :=
  s.mapHolds (fun h => if h.who.tid = tid ∧ h.who.load = 2 ^ 32 then none else some h)

/-- `apply_sfreplay` on the entries from index `i` on. A store that fails leaves what it was denied by in place, for the
stores after it and for a later attempt (log 86, DEDUCED). -/
def State.replayFrom (s : State) (tid : Nat) (t : Thread) (rep dis : Nat) : Nat → List SfEntry → Replay → State × Replay
  | _, [], r => (s, r)
  | i, e :: es, r =>
    if dis.testBit i then s.replayFrom tid t rep dis (i + 1) es r
    else if rep.testBit i then
      if s.refuted t.part e.hid then s.replayFrom tid t rep dis (i + 1) es { r with gone := r.gone + 2 ^ i }
      else
        match s.replayOne tid t e with
        | (s', .ok ()) => s'.replayFrom tid t rep dis (i + 1) es r
        | (_, .fault c) => s.replayFrom tid t rep dis (i + 1) es { r with kept := r.kept ++ [{ e with cause := c }], again := r.again + 2 ^ i }
        | (s', .hold) => s'.replayFrom tid t rep dis (i + 1) es { r with held := true }
    else s.replayFrom tid t rep dis (i + 1) es { r with kept := r.kept ++ [e] }

/-- `sfreplay` (05 R164). -/
def State.applySfreplay (s : State) (q : AgentCmd) (t : Thread) : AgentResult :=
  if t.atRest = false then s.agentDone q (faultStatus 0x29 0)
  else
    let (s', r) := s.replayFrom q.target t (fld q.b.bits 0 4) (fld q.b.bits 4 4) 0 t.sfq ⟨[], 0, 0, false⟩
    if r.held then s.agentHeld s' q
    else ((s'.replayOver q.target).modThread q.target (fun u => { u with sfq := r.kept })).agentDone q (statusWord 0 0 (r.again + 16 * r.gone))

/-! ## Spawning (05 R155) -/

/-- The first offset of an image that makes it invalid, in the order of `apply_spawn`. -/
def Image.spawnBad (m : Image) (own : Nat) (sp : Thread) (ldc : Bool) : Option Nat :=
  let bad (i : Nat) : Bool :=
    let e := m.word (0x280 + 8 * i)
    decide (entKind e ≠ 0) && (entBad e || !sp.auth.any (fun g => entHas rGRANT g && entContains own own g e))
  match (List.range 32).find? bad with
  | some i => some (0x280 + 8 * i)
  | none =>
    let pcc := m.reg ldc 32
    let prio := (m.word 0x258).toNat
    if !pcc.tag || !pcc.has permEX then some 0x210
    else if m.word 0x248 &&& 63#64 ≠ 0 then some 0x248
    else if m.badRm then some 0x240
    else if sp.ceil < prio / 256 % 4 ∨ prio / 256 % 4 < prio % 4 then some 0x258
    else none

/-- The thread an image makes. -/
def Image.spawned (m : Image) (sp : Thread) (ldc : Bool) (chip spTid : Nat) (lcore : BitVec 20) (q : AgentCmd) (held : Bool) (cycle : Nat) : Thread :=
  { Thread.blank with
    state := if q.b.bits.getLsbD 20 then .stopped else .ready
    part := sp.part, load := sp.load, parentChip := chip, parentTid := spTid
    regs := (List.range 32).map (fun i => if i = 0 then Reg.zero else m.reg ldc i)
    pcc := m.reg ldc 32, lcore := lcore, seed := sp.seed, hid := sp.hid, depth := sp.depth, fpcsr := m.fpcsr
    faultrec := m.word 0x248, ctx := q.a.cursor, ctxHost := q.a.hostBit
    auth := (List.range 32).map (fun i => let e := m.word (0x280 + 8 * i); if entKind e = 0 then 0 else entKept e)
    cls := (m.word 0x258).toNat % 4, ceil := (m.word 0x258).toNat / 256 % 4, held := held, since := cycle }

/-- `apply_spawn` (log 79, DEDUCED). -/
def State.applySpawn (s : State) (q : AgentCmd) : AgentResult :=
  match (s.thread? q.cmd.tid).filter (fun u => decide (u.life = q.cmd.life)) with
  | none => s.agentDone q 0x82
  | some sp =>
    let core := q.target
    let load := tget s.loads sp.load
    if (load.map (fun l => l.members.length)).getD 0 = 1024 then s.agentDone q 0x83
    else match tfree (s.core core).threads 256 0 with
    | none => s.agentDone q 0x80
    | some slot =>
      if s.parkFree (clusterOf core) < s.roomNeed [core] (fun _ => 1) then s.agentDone q 0x81
      else match s.engReadQuads q.cmd.party q.a.cursor q.a.hostBit 128 with
      | (s', .hold) => s.agentHeld s' q
      | (s', .fault c) => s'.agentDone q (faultStatus c 0)
      | (s', .ok qs) =>
        let m := Image.ofQuads qs
        let ldc := q.a.has permLDC
        match m.spawnBad s.bridge.chip sp ldc with
        | some off => s'.agentDone q (statusWord 0x85 0 (off / 8))
        | none =>
          let placed := (load.bind (fun l => tget s.baskets l.basket)).bind (fun b => b.placed.find? (fun x => x.1 = core))
          let lcore := match placed with | some (_, n) => BitVec.ofNat 20 n | none => sp.lcore
          let t := m.spawned sp ldc s.bridge.chip q.cmd.tid lcore q ((load.map (fun l => l.state == .stopping)).getD false) s.cycle
          let tid := 256 * core + slot
          let (s', life) := s'.fresh
          let s := s'.setCore core ((s'.core core).seat slot { t with life := life })
          let s := match load with | some l => s.setLoad sp.load { l with members := l.members ++ [tid] } | none => s
          s.agentDone q (statusWord 0 0 tid)

/-! ## One command at a time per target (05 R148) -/

/-- A command whose target stands on another module: it is carried there, and what it does and answers there is free
(18 R460, R464); an unreachable module ends it with 0x10 (05 R147) (log 29, DESIGN CHOICE). -/
def State.applyRemote (s : State) (q : AgentCmd) (chip : Nat) : AgentResult :=
  if s.reachable chip = false then s.agentDone q (faultStatus 0x10 0)
  else
    let status := Config.peerStatus s.free
    let s := { s with free := s.free + 1 }
    let n := match AgentOp.ofCode q.member with | .tread => 2048 | .tstat => 64 | _ => 0
    if n = 0 ∨ status.toNat % 256 = 1 then s.agentDone q status
    else
      let (s1, bs) := s.peerBytes n
      s.agentWrote q (s1.engWrite q.cmd.party q.b.cursor bs q.b.hostBit q.b.unv false) status

/-- A command for a thread of this module, that thread at hand. -/
def State.applyTo (s : State) (q : AgentCmd) (t : Thread) : AgentResult :=
  -- no command is applied while a fault's record is being written (05 R161)
  if t.fault.isSome then (s, some q)
  else if q.phase = 0 ∧ q.accepted = false ∧ !q.entries.any (entCoversThere ((q.peer.map PeerAgent.chip).getD s.bridge.chip) s.bridge.chip t.load t.parentWord) then
    s.agentDone q (faultStatus 0x28 0)
  else
    match AgentOp.ofCode q.member with
    | .tstop => s.applyTstop q t
    | .tstart => s.applyTstart q t
    | .tread => s.applyTread q t
    | .twrite => s.applyTwrite q t
    | .tstat => s.writeStat q t.statLine 0
    | .agrant => s.applyAgrant q t
    | .arevoke => s.applyArevoke q t
    | .sfreplay => s.applySfreplay q t
    | .spawn => s.applySpawn q

/-- A command reaches its target's agent. -/
def State.agentApply (s : State) (q : AgentCmd) : AgentResult :=
  let op := AgentOp.ofCode q.member
  let chip := if op = .spawn then s.bridge.chip else s.chipOf (refChip q.a.bits)
  if q.phase = 0 ∧ s.refuted q.cmd.part q.cmd.hid then (s.complete q.cmd 2, none)
  else if chip ≠ s.bridge.chip then s.applyRemote q chip
  else if op = .tstat ∧ refKind q.a.bits then s.applyFlags q
  else if op = .spawn then
    if (s.core q.target).quarantined then s.agentDone q (faultStatus 0x39 0) else s.applySpawn q
  else if (s.core (coreOf q.target)).quarantined then s.agentDone q (faultStatus 0x39 0)
  else
    match s.thread? q.target with
    | some t => s.applyTo q t
    | none => if op = .tstat then s.writeStat q (zeroBytes 64) 0x82 else s.agentDone q 0x82

/-- The cores that a command goes to. -/
def AgentCmd.cores (q : AgentCmd) : List Nat :=
  if q.member = 0 then [q.target] else if refKind q.a.bits then (List.range 64).map (fun i => 64 * q.target + i) else [coreOf q.target]

/-- The command has not reached its agent: requests that its core sent there before it have not been applied (11 R311); one of
a core for itself goes no such way. -/
def State.agentOnWay (s : State) (q : AgentCmd) : Bool :=
  decide (q.phase = 0) && q.peer.isNone && s.sentBefore q.cmd.core q.sent (q.cores.filter (fun c => decide (c ≠ q.cmd.core)))

/-- The commands of a list in order of arrival; `kept` waits, with `busy` targets (log 128, DEDUCED). -/
def State.agentGo (s : State) (busy : List Lane) (kept : List AgentCmd) : List AgentCmd → State
  | [] => { s with agentQ := kept }
  | q :: r =>
    if busy.contains q.cmd.lane || cellsWait s.cellQ q.cmd.lane || s.agentOnWay q then s.agentGo (q.cmd.lane :: busy) (kept ++ [q]) r
    else
      match ({ s with agentQ := kept ++ r } : State).agentApply q with
      | (s', none) => s'.agentGo busy kept r
      | (s', some q') => s'.agentGo (q.cmd.lane :: busy) (kept ++ [q']) r

/-- The agents apply what they can. -/
def State.agentPump (s : State) : State := s.agentGo [] [] s.agentQ

end Sys2Proof.Machine
end

