-- ==== Sys2Proof/Machine/Xlat.lean ====
section
/-!
DEFINITION. Sys2Proof/Machine/Xlat.lean: the translation commands (09 R278 to R283) and the fault queue (R274 to R277).
-/
namespace Sys2Proof.Machine

/-! ## Checks at issue (09 R279) -/

/-- R23 check 3 on a range's cursor, which no window address passes. -/
def xlatPlace (a : Reg) : Option Trap := need (canonical a.cursor && !isWindow a.cursor) (opTrap 0x16 a.cursor)

/-- The checks of a member that takes a range of `len` bytes; `whole`: the whole-partition form is allowed. -/
def rangeChecks (t : Thread) (a c : Reg) (reserved : Bool) (len : Nat) (whole : Bool) : List (Option Trap) :=
  [checkCell c, reservedIf reserved] ++
    (if len = 0 ∧ whole then [checkCap a permXLAT 0 (2 ^ 57) .command 6]
     else
       [reservedIf (decide (len = 0) || decide (2 ^ 48 < len)), opCap a permXLAT len,
        need (whole || (decide (a.cursor.toNat % 4096 = 0) && decide (len % 4096 = 0))) (opTrap 0x09 a.cursor)])
    ++ [xlatPlace a, cellUnv t.hid c]

/-! ## Dropping translations (09 R272, R280) -/

/-- The span of virtual addresses a command names; the whole-partition form names all. -/
structure Span where
  part : Nat
  lo : Nat
  hi : Nat
  deriving DecidableEq, Repr

def Span.has (r : Span) (part va : Nat) : Bool := decide (part = r.part ∧ r.lo ≤ va ∧ va < r.hi)
def Span.hasPage (r : Span) (part page : Nat) : Bool := decide (part = r.part ∧ page * 4096 < r.hi ∧ r.lo < (page + 1) * 4096)

/-- Held accesses of the span are translated again (HELD_ACCESS_RETRANSLATE), engines' among them (log 109, DEDUCED). -/
def State.releaseHeld (s : State) (r : Span) : State :=
  ((s.retranslate (fun q => r.has q.part q.addr.toNat)).mapHolds (fun h =>
    if (h.why = .move ∨ h.why = .page) ∧ h.ended = none ∧ r.has h.who.part (64 * h.line) then none else some h)).wakeAccess r.part

/-- Every leaf translation that overlaps the span and every pointer of the partition goes. -/
def State.dropSpan (s : State) (r : Span) : State :=
  s.dropTranslations r.part (fun t => decide (t.base < r.hi ∧ r.lo < t.base + 2 ^ t.lg))

/-- An access of the span, of those with a number below `n`, has been translated and not been performed: it is at the host or
at another module. -/
def State.unperformed (s : State) (r : Span) (n : Nat) : Bool :=
  s.reqs.any (fun (i, q) => decide (i < n ∧ q.phase = .atHost) && r.has q.part q.addr.toNat)

/-! ## `xinv` and `xprobe` (09 R280, R281) -/

/-- The effect of `xinv` (09 R280): it drops the translations, and waits for the accesses that were on their way then, of
which those not yet at the host or another module are translated after it. `pos`: one above their last number. -/
def State.xinvEff (a b c : RegNo) (x : Cx) (pos : Nat) (s : State) (t : Thread) : Eff :=
  let len := fld (t.reg b).bits 0 64
  let lo := (t.reg a).cursor.toNat
  let r : Span := if len = 0 then ⟨t.part, 0, 2 ^ 57⟩ else ⟨t.part, lo, lo + len⟩
  let cmd := t.cmd s.cur x (t.reg c)
  let s := if pos = 0 then (s.dropSpan r).releaseHeld r else s
  let n := if pos = 0 then s.nextReq + 1 else pos
  if s.unperformed r n then .pend s { cmd with pos := n } else .retire (s.complete cmd 0)

/-- `xinv` (09 R280). -/
def execXinv (a b c : RegNo) (x : Cx) (s : State) : Host.Outcome State Fault Refusal :=
  s.command (.xinv a b c x) x
    (fun t => let q := (t.reg b).bits; rangeChecks t (t.reg a) (t.reg c) (!zeroAbove q 64) (fld q 0 64) true)
    (State.xinvEff a b c x 0 s)

/-- The size code and level of a leaf of 2^lg bytes (09 R281). -/
def sizeCode (lg : Nat) : Nat × Nat :=
  match lg with
  | 12 => (0, 0) | 16 => (1, 0) | 21 => (2, 1) | _ => (3, 2)

/-- The four words of `xprobe` for an entry. -/
def probeWords (e : Word) (lvl size : Nat) (cached : Bool) (outcome target home : Nat) : List Byte :=
  wordBytes e ++ leBytes 8 (lvl + size * 16 + (if cached then 256 else 0) + outcome * 512) ++ leBytes 8 target ++ leBytes 8 home

/-- What `xprobe` finds: the cache is filled as a walk fills it, but acc stays as it is. A cached leaf that denies a read is
looked for in the tables again (09 R268). An entry that is no leaf has no page: its size field is open (log 31, DESIGN
CHOICE). -/
def State.probe (s : State) (p : Partition) (part va : Nat) : State × List Byte :=
  let cl := p.homeOf va
  let leaf (e : Word) (lg : Nat) (cached : Bool) : List Byte :=
    let (size, lvl) := sizeCode lg
    let outcome := if pteMig e then 3 else if pteDsc e then 4 else 0
    probeWords e lvl size cached outcome (if outcome = 3 then 0 else leafTarget e lg va) cl
  let open_ : State × Nat := ({ s with free := s.free + 1 }, (Config.value s.free).toNat % 4)
  match (s.cluster cl).tlb.find? (fun t => t.covers part va && (leafDenied t.pte .read).isNone) with
  | some t => (s, leaf t.pte t.lg true)
  | none =>
    let (w, ps) := s.walk part va true
    match w with
    | .leaf lvl e entryAt =>
      let lg := leafLg lvl e
      let s := s.notePtrs cl part va ps
      let k := s.cluster cl
      let s := if pteMig e ∨ pteDsc e then s
        else s.setCluster cl { k with tlb := lruPut (fun t => t.covers part va) 4096 k.tlb ⟨part, va / 2 ^ lg * 2 ^ lg, lg, e, entryAt, pteDty e⟩ }
      (s, leaf e lg false)
    | .invalid lvl e _ => (open_.1.notePtrs cl part va ps, probeWords e lvl open_.2 false 1 0 cl)
    | .bad lvl e => (open_.1.notePtrs cl part va ps, probeWords e lvl open_.2 false 2 0 cl)

/-- The effect of `xprobe` (09 R281). -/
def State.xprobeEff (a b c : RegNo) (x : Cx) (s : State) (t : Thread) : Eff :=
  let cmd := t.cmd s.cur x (t.reg c)
  let rb := t.reg b
  match tget s.parts t.part with
  | none => .retire (s.complete cmd (faultStatus 0x10 0))
  | some p =>
    let (s1, bs) := s.probe p t.part (t.reg a).cursor.toNat
    match s1.engWrite cmd.party rb.cursor bs rb.hostBit rb.unv false with
    | (s', .ok ()) => .retire (s'.complete cmd 0)
    | (s', .fault e) => .retire (s'.complete cmd (faultStatus e 0))
    | (s', .hold) => s.pends s' cmd

/-- `xprobe` (09 R281). -/
def execXprobe (a b c : RegNo) (x : Cx) (s : State) : Host.Outcome State Fault Refusal :=
  s.command (.xprobe a b c x) x
    (fun t =>
      let ra := t.reg a
      let rb := t.reg b
      [checkCell (t.reg c), opCap ra permXLAT 1, opCap rb (permST ||| permENG) 32, opAlign rb 32, xlatPlace ra, opPlace rb 32])
    (State.xprobeEff a b c x s)

/-! ## Leaves one after another (09 R282, R283) -/

/-- A whole leaf of a command's range: its offset, log2 of its size, its level, its entry and the entry's address. -/
structure Leaf where
  off : Nat
  lg : Nat
  lvl : Nat
  e : Word
  entryAt : Nat
  deriving DecidableEq, Repr

/-- The span of the leaf in a range that begins at `base`. -/
def Leaf.span (f : Leaf) (part base : Nat) : Span := ⟨part, base + f.off, base + f.off + 2 ^ f.lg⟩
/-- The target address of the leaf's first byte. -/
def Leaf.target (f : Leaf) (base : Nat) : Nat := leafTarget f.e f.lg (base + f.off)
/-- The entries of a leaf: one, or the 16 of a 64 KiB page. -/
def Leaf.entries (f : Leaf) : List Nat :=
  if f.lg = 16 then (List.range 16).map (fun i => f.entryAt / 128 * 128 + 8 * i) else [f.entryAt]

/-- The leaf, from memory, that holds the byte at an offset of a range; none, or one not wholly inside, is a cause with its
offset. -/
def State.leafIn (s : State) (part base len pos : Nat) : Leaf ⊕ (Byte × Nat) :=
  match (s.walk part (base + pos) false).1 with
  | .leaf lvl e entryAt =>
    let lg := leafLg lvl e
    let start := (base + pos) / 2 ^ lg * 2 ^ lg
    if start < base then .inr (0x30, pos)
    else if base + len < start + 2 ^ lg then .inr (0x30, start - base)
    else .inl ⟨start - base, lg, lvl, e, entryAt⟩
  | _ => .inr (0x10, pos)

/-- Sets a bit in a leaf's entries by atomic ORs and drops its translations: no access is translated through it from here on. -/
def State.markLeaf (s : State) (f : Leaf) (r : Span) (bits : Word) : State :=
  (f.entries.foldl (fun s a => s.orEntry a bits) s).dropSpan r

/-- A unit of the span that the darner must invalidate (08 R237). -/
def State.ticketIn (s : State) (r : Span) : Option (Nat × DirUnit) :=
  s.clusters.findSome? (fun (c, k) =>
    (k.dir.find? (fun u => decide (u.part = r.part ∧ u.base * 64 < r.hi ∧ r.lo < (u.base + 2 ^ u.k) * 64) && u.needsTicket)).map (fun u => (c, u)))

/-- What a leaf's command waits for before it goes on with the lines: accesses translated through the leaf, and the darner's
invalidations of units that meet it (log 87, DESIGN CHOICE). -/
def State.leafWaits (s : State) (r : Span) : Option State :=
  if s.unperformed r s.nextReq then some s
  else (s.ticketIn r).map (fun (c, u) => s.askTicket c r.part u.base u.k)

/-- Every copy of the span's lines goes: L1s, victim pools, fills on their way, slices, with the reservations there (08 R235). -/
def State.dropLines (s : State) (r : Span) : State :=
  let inLine (p l : Nat) : Bool := r.has p (64 * l)
  let s := s.filterL1 (fun _ l => !inLine l.part l.line)
  let s : State := { s with reqs := s.reqs.map (fun ((i, q) : Nat × Req) => (i, if r.has q.part q.addr.toNat then { q with fill := none } else q)) }
  let s : State := { s with clusters := s.clusters.map (fun (c, k) =>
    (c, { k with data := k.data.filter (fun x => !inLine x.part x.line)
                 dir := k.dir.filter (fun u => !(inLine u.part u.base && inLine u.part (u.base + 2 ^ u.k - 1))) })) }
  s.dropResv (fun v => v.glob && inLine v.part (v.start / 64))

/-- The offset of the end of a leaf. -/
def Leaf.next (f : Leaf) : Nat := f.off + 2 ^ f.lg

/-! ## `pgdisc` (09 R282) -/

/-- What a discarded leaf leaves of its lines: no copy, no cached data, no version. -/
def State.forgetLeaf (s : State) (f : Leaf) (r : Span) : State :=
  let s := s.dropLines r
  let s : State := { s with clusters := s.clusters.map (fun (c, k) =>
    (c, { k with versions := k.versions.filter (fun v => !r.has v.part (64 * v.line)) })) }
  match s.flatOf (leafTarget f.e f.lg r.lo) f.e with
  | some a => { s with dirty := s.dirty.filter (fun (l, _) => !(a / 64 ≤ l ∧ l < a / 64 + 2 ^ f.lg / 64)) }
  | none => s

/-- The leaves of a range from offset `pos` on, each marked, waited for and discarded in turn. -/
def State.discardFrom (cmd : Cmd) (base len : Nat) : Nat → Nat → State → Eff
  | 0, _, s => .retire (s.complete cmd 0)
  | fuel + 1, pos, s =>
    if len ≤ pos then .retire (s.complete cmd 0)
    else
      match s.leafIn cmd.part base len pos with
      | .inr (c, off) => .retire (s.complete cmd (faultStatus c off))
      | .inl f =>
        let r := f.span cmd.part base
        let s := (s.markLeaf f r 0x100#64).releaseHeld r
        match s.leafWaits r with
        | some s => .pend s { cmd with pos := f.off }
        | none => State.discardFrom cmd base len fuel f.next (s.forgetLeaf f r)

/-- The effect of `pgdisc`, from offset `pos` on (09 R282). -/
def State.pgdiscEff (a b c : RegNo) (x : Cx) (pos : Nat) (s : State) (t : Thread) : Eff :=
  let len := fld (t.reg b).bits 0 64
  State.discardFrom (t.cmd s.cur x (t.reg c)) (t.reg a).cursor.toNat len (len / 4096 + 1) pos s

/-- `pgdisc` (09 R282). -/
def execPgdisc (a b c : RegNo) (x : Cx) (s : State) : Host.Outcome State Fault Refusal :=
  s.command (.pgdisc a b c x) x
    (fun t => let q := (t.reg b).bits; rangeChecks t (t.reg a) (t.reg c) (!zeroAbove q 64) (fld q 0 64) false)
    (State.pgdiscEff a b c x 0 s)

/-! ## Moving pages (09 R283) -/

/-- The host's page behind a PCIe page, for an access that names none of the partition's own pages by itself: what holds it
is noted under the key address `va` (17 R440, R441). -/
def State.bridgePage (s : State) (p : Party) (cl va page : Nat) (write : Bool) : State × Acc Nat :=
  match (s.cluster cl).engHold? p va with
  | none => s.engAts p cl va page write
  | some h =>
    match s.holdEnd cl p va .write true h with
    | .stay => (s, .hold)
    | .fault c => (s.dropHold cl h, .fault c)
    | .again => (s.dropHold cl h).engAts p cl va page write

/-- Where 64 bytes of a target stand, for the copy of step 3; a peer's bytes stand nowhere here. `va`: the chunk that moves. -/
def State.chunkAt (s : State) (p : Party) (va tgt pa : Nat) (write : Bool) : State × Acc (Option Nat) :=
  match tgt with
  | 0 => (s, .ok (some pa))
  | 1 => if s.bridge.hostUp then (s, .ok (some (flatHost pa))) else (s, .fault 0x15)
  | 2 =>
    (match s.bridgePage p (s.homeOfLine p.part (va / 64)) va (pa / 4096) write with
     | (s, .ok h) => (s, .ok (some (flatHost (h + pa % 4096))))
     | (s, .fault c) => (s, .fault c)
     | (s, .hold) => (s, .hold))
  | _ =>
    let chip := pa / 2 ^ 47
    if chip = s.bridge.chip then (s, .ok (some (pa % 2 ^ 43)))
    else if s.reachable chip then (s, .ok none) else (s, .fault 0x10)

/-- 64 bytes arrive at a place of this module, with memory tags where both targets carry them, or at another module. -/
def State.putChunk (s : State) (bs : List Byte) (tagged : Bool) (src dst : Option Nat) (pa : Nat) : State :=
  match dst with
  | some f =>
    (List.range 4).foldl (fun (s : State) q =>
      let tag := tagged && (match src with | some g => s.tags.contains (g / 16 + q) | none => false)
      s.putBytes false (f + 16 * q) ((bs.drop (16 * q)).take 16) tag) s
  | none => s.emit (.toPeer (pa / 2 ^ 47) (BitVec.ofNat 64 (pa % 2 ^ 43)) 64)

/-- Copies chunks of 64 bytes from one target to another, in ascending order. The chunk at `va` comes next; the answer is where
it came to. -/
def State.copyPage (s : State) (p : Party) (tgt tgt' : Nat) : Nat → Nat → Nat → Nat → State × Acc Unit × Nat
  | 0, va, _, _ => (s, .ok (), va)
  | n + 1, va, pa, pa' =>
    match s.chunkAt p va tgt pa false with
    | (s, .fault c) => (s, .fault c, va)
    | (s, .hold) => (s, .hold, va)
    | (s, .ok src) =>
      match s.chunkAt p va tgt' pa' true with
      | (s, .fault c) => (s, .fault c, va)
      | (s, .hold) => (s, .hold, va)
      | (s, .ok dst) =>
        let (s, bs) := match src with | some f => (s, memBytes s.mem f 64) | none => s.peerBytes 64
        if (match src with | some f => s.poisonedAt ((List.range 64).map (f + ·)) | none => false) then (s, .fault 0x38, va)
        else (s.putChunk bs (decide (tgt = 0 ∧ tgt' = 0)) src dst pa').copyPage p tgt tgt' n (va + 64) (pa + 64) (pa' + 64)

/-- Modified lines of a flat range go to memory. -/
def State.writeBackRange (s : State) (f n : Nat) : State :=
  (s.dirty.map Prod.fst).foldl (fun s l => if f / 64 ≤ l ∧ l < f / 64 + n then s.writeBack l else s) s

/-- A leaf's entry under a new placement: key, ppn, tgt and nc are new, mig is clear, the rest is kept. -/
def placedEntry (e place : Word) (ppn : Nat) : Word :=
  (e &&& 0x17F#64) ||| (place &&& 0xFF00000000000E00#64) ||| BitVec.ofNat 64 (ppn % 2 ^ 44 * 4096)

/-- Writes an 8-byte table entry in memory, past every cache (09 R265). -/
def State.putEntry (s : State) (entryAt : Nat) (e : Word) : State :=
  { s.keepCached (entryAt / 64) with mem := memPutAll (s.keepCached (entryAt / 64)).mem entryAt (wordBytes e) }

/-- The move of a leaf failed: its old entries stand with mig clear, and what is held goes on. -/
def State.unmarkLeaf (s : State) (f : Leaf) (r : Span) : State :=
  (f.entries.foldl (fun s a => s.putEntry a (memWord s.mem a &&& ~~~0x80#64)) s).releaseHeld r

/-- The leaf has its new placement, the first of its entries at page `ppn`, and what is held goes on. -/
def State.placeLeaf (s : State) (f : Leaf) (r : Span) (place : Word) (ppn : Nat) : State :=
  ((f.entries.zip (List.range 16)).foldl (fun s (a, i) => s.putEntry a (placedEntry (memWord s.mem a) place (ppn + i))) s).releaseHeld r

/-- The lines of a leaf leave the caches, modified data for the old target (step 2). -/
def State.flushLeaf (s : State) (f : Leaf) (r : Span) : State :=
  (match s.flatOf (leafTarget f.e f.lg r.lo) f.e with | some a => s.writeBackRange a (2 ^ f.lg / 64) | none => s).dropLines r

/-- The leaves of a range from offset `pos` on, each marked, waited for, copied and rewritten in turn; inside a leaf `pos` is
the chunk to be copied next. The leaf at an offset of the range goes to the page at the same offset of the new placement
(log 32, DEDUCED). -/
def State.moveFrom (cmd : Cmd) (place : Word) (base len : Nat) : Nat → Nat → State → Eff
  | 0, _, s => .retire (s.complete cmd 0)
  | fuel + 1, pos, s =>
    if len ≤ pos then .retire (s.complete cmd 0)
    else
      match s.leafIn cmd.part base len pos with
      | .inr (c, off) => .retire (s.complete cmd (faultStatus c off))
      | .inl f =>
        let ppn := ptePpn place + f.off / 4096
        if !ppnOk (pteTgt place) ppn f.lg then .retire (s.complete cmd (faultStatus 0x30 f.off))
        else
          let r := f.span cmd.part base
          let s := s.markLeaf f r 0x80#64
          match s.leafWaits r with
          | some s => .pend s { cmd with pos := pos }
          | none =>
            let done := pos - f.off
            match (s.flushLeaf f r).copyPage { cmd.party with hid := 0 } (pteTgt f.e) (pteTgt place) ((2 ^ f.lg - done) / 64)
                (base + pos) (f.target base + done) (ppn * 4096 + done) with
            | (s, .hold, va) => .pend s { cmd with pos := va - base }
            | (s, .fault c, _) => .retire ((s.unmarkLeaf f r).complete cmd (faultStatus c f.off))
            | (s, .ok (), _) => State.moveFrom cmd place base len fuel f.next (s.placeLeaf f r place ppn)

/-- The effect of `pgmig`, from offset `pos` on (09 R283). -/
def State.pgmigEff (a b c : RegNo) (x : Cx) (pos : Nat) (s : State) (t : Thread) : Eff :=
  let len := fld (t.reg b).bits 64 64
  State.moveFrom (t.cmd s.cur x (t.reg c)) (t.reg b).lo (t.reg a).cursor.toNat len (len / 4096 + 1) pos s

/-- `pgmig` (09 R283). -/
def execPgmig (a b c : RegNo) (x : Cx) (s : State) : Host.Outcome State Fault Refusal :=
  s.command (.pgmig a b c x) x
    (fun t => let q := (t.reg b).bits; rangeChecks t (t.reg a) (t.reg c) (decide (fld q 0 9 ≠ 0)) (fld q 64 64) false)
    (State.pgmigEff a b c x 0 s)

/-! ## The fault queue (09 R274, R275) -/

def Partition.fqSlots (p : Partition) : Nat := 2 ^ (p.word 5 % 256)
def Partition.fqVector (p : Partition) : Nat := p.word 5 / 2 ^ 16 % 2 ^ 16

/-- The record of a page request (09 R275). -/
def PageReq.record (q : PageReq) (index cluster chip cycle : Nat) : List Byte :=
  leBytes 8 (index + 1)
    ++ leBytes 8 (q.page * 4096 + (if q.write then 1 else 0) + (if q.fetch then 2 else 0) + (if q.watch then 4 else 0))
    ++ leBytes 8 (q.tid % 2 ^ 28 + chip % 2 ^ 9 * 2 ^ 28)
    ++ leBytes 8 (q.id % 2 ^ 16 + cluster % 2 ^ 14 * 2 ^ 16 + q.level % 16 * 2 ^ 30)
    ++ wordBytes q.entry ++ leBytes 8 q.load ++ leBytes 8 cycle ++ zeroBytes 8

/-- The requests of a partition that its keeper has not written yet, the first to arrive of them (log 2, DESIGN CHOICE among equals). -/
def State.nextPageReq (s : State) (part : Nat) : Option (Nat × PageReq) :=
  (s.clusters.flatMap (fun (c, k) => (k.pageReqs.filter (fun q => decide (q.part = part) && !q.written)).map (fun q => (c, q)))).foldl
    (fun (b : Option (Nat × PageReq)) x => match b with | some y => if x.2.since < y.2.since then some x else b | none => some x) none

/-- A byte of BAR0 of a function: the bytes written; a vector's mask bit is set at reset, as PCIe has it (log 33, PRESUMED). -/
def State.barByte (s : State) (fn off : Nat) : Byte :=
  (tget s.bridge.bar0 (fn * 65536 + off)).getD (if off < 1024 ∧ off % 16 = 12 then 1 else 0)

def State.setBarByte (s : State) (fn off : Nat) (b : Byte) : State :=
  { s with bridge := { s.bridge with bar0 := tput s.bridge.bar0 (fn * 65536 + off) b } }

/-- A vector of a function is masked. -/
def State.vectorMasked (s : State) (fn v : Nat) : Bool := (s.barByte fn (16 * v + 12)).getLsbD 0

/-- MSI_X_SEND (17 R450): a message on a vector, or its pending bit while the vector is masked. -/
def State.sendMsix (s : State) (fn v : Nat) : State :=
  if 64 ≤ v then s
  else if s.vectorMasked fn v then s.setBarByte fn (0x800 + v / 8) (s.barByte fn (0x800 + v / 8) ||| BitVec.ofNat 8 (2 ^ (v % 8)))
  else s.emit (.msix fn v)

/-- The message of a record: sent where 4,096 cycles have passed since the last, else owed (09 R275). -/
def State.fqMessage (s : State) (part : Nat) : State :=
  match tget s.parts part with
  | none => s
  | some p =>
    if (match p.lastMsi with | some c => decide (c + 4096 ≤ s.cycle) | none => true) then
      (s.setPart part { p with lastMsi := some s.cycle, msiPending := false }).sendMsix part p.fqVector
    else s.setPart part { p with msiPending := true }

/-- A host address of the partition's translation record: the bridge translates it where the host has ATS enabled for the
partition's function (09 R258) (log 89, DEDUCED). -/
def State.recordAt (s : State) (part addr : Nat) : State × Acc Nat :=
  if s.bridge.atsOn.getLsbD part = false then (s, .ok (flatHost addr))
  else
    let cl := ((tget s.parts part).map Partition.wbase).getD 0
    match s.bridgePage { rootParty part with tid := 2 ^ 29 + 2 } cl addr (addr / 4096) true with
    | (s, .ok h) => (s, .ok (flatHost (h + addr % 4096)))
    | (s, .fault c) => (s, .fault c)
    | (s, .hold) => (s, .hold)

/-- FAULT_QUEUE_RECORD (09 R275): the next record, then the write index, then the message. -/
def execFaultQueueRecord (part : Nat) (s : State) : Host.Outcome State Fault Refusal :=
  match tget s.parts part, s.nextPageReq part with
  | some p, some (c, q) =>
    if p.fqSlots ≤ p.fqIndex - p.fqRead ∨ s.bridge.hostUp = false then .next s
    else
      match s.recordAt part (p.word 3 + 64 * (p.fqIndex % p.fqSlots)) with
      | (s1, .ok ring) =>
        (match s1.recordAt part (p.word 4) with
         | (s2, .ok index) =>
           let s := s2.flatWrite ring (q.record p.fqIndex c s.bridge.chip s.cycle)
           let s := s.flatWord index (p.fqIndex + 1)
           let k := s.cluster c
           let s := s.setCluster c { k with pageReqs := k.pageReqs.map (fun r => if r = q then { q with written := true } else r) }
           .next ((s.setPart part { p with fqIndex := p.fqIndex + 1 }).fqMessage part)
         | (s2, _) => .next (s.keepWaiting s2))
      | (s1, _) => .next (s.keepWaiting s1)
  | _, _ => .next s

/-- MSI_X_INTERVAL_EXPIRY (09 R275). -/
def execMsiXIntervalExpiry (part : Nat) (s : State) : Host.Outcome State Fault Refusal :=
  match tget s.parts part with
  | some p => if p.msiPending && (match p.lastMsi with | some c => decide (c + 4096 ≤ s.cycle) | none => true) then .next (s.fqMessage part) else .next s
  | none => .next s

/-! ## Answers (09 R276, R277) -/

/-- A little-endian word as the point of coherence holds it. -/
def State.wordAt (s : State) (a : Nat) : Nat := leNat (s.bytesAt a 8)

/-- PAGE_RESPONSE_READ (09 R276): the keeper reads the response line; an index outside its range is ignored. -/
def execPageResponseRead (part : Nat) (s : State) : Host.Outcome State Fault Refusal :=
  match tget s.parts part with
  | none => .next s
  | some p =>
    if p.hasFaultQueue = false then .next s
    else
      let w := s.wordAt (p.word 6 + 8)
      let ok := decide (p.respIndex ≤ w ∧ w ≤ p.respIndex + p.fqSlots)
      .next (s.setPart part { p with fqRead := s.wordAt (p.word 6), respIndex := if ok then w else p.respIndex })

/-- A request is answered: every access joined to it is translated again, or faults with 0x14 where the answer is a denial
(09 R277). Every access, of any partition, that waited at the slice for one of its 64 requests is translated again too (R274). -/
def State.answerPage (s : State) (cl : Nat) (q : PageReq) (deny : Bool) : State :=
  let k := s.cluster cl
  let rest := k.pageReqs.filter (· ≠ q)
  let mine (part page : Nat) : Bool := decide (part = q.part ∧ page = q.page)
  let waits (part page : Nat) : Bool := rest.any (fun r => decide (r.part = part ∧ r.page = page))
  let denied (h : EngHold) : Bool := deny && decide (h.why = .page) && mine h.who.part (h.line / 64)
  let holds := k.engHolds.map (fun h => if denied h then { h with ended := some 0x14 } else h)
  let s := s.setCluster cl { k with pageReqs := rest, engHolds := holds }
  let s : State := { s with reqs := s.reqs.map (fun ((n, r) : Nat × Req) =>
    (n, match r.phase with
        | .paging page =>
          if r.target ≠ .home cl then r
          else if mine r.part page then { r with phase := if deny then .fault 0x14 else .sent }
          else if waits r.part page then r else { r with phase := .sent }
        | _ => r)) }
  (q.part :: holds.map (fun h => h.who.part)).foldl State.wakeAccess s

/-- PAGE_REQUEST_ANSWER (09 R276, R277): the keeper takes the next response entry; one that names no outstanding request is
ignored. -/
def execPageRequestAnswer (part : Nat) (s : State) : Host.Outcome State Fault Refusal :=
  match tget s.parts part with
  | none => .next s
  | some p =>
    if p.respIndex ≤ p.respRead then .next s
    else
      let e := s.wordAt (p.word 6 + 64 + 16 * (p.respRead % p.fqSlots))
      let s := s.setPart part { p with respRead := p.respRead + 1 }
      let cl := e / 2 ^ 16 % 2 ^ 14
      match (s.cluster cl).pageReqs.find? (fun q => q.part = part ∧ q.id = e % 2 ^ 16) with
      | some q => .next (s.answerPage cl q (decide (e / 2 ^ 32 % 256 ≠ 0)))
      | none => .next s

/-- PAGE_REQUEST_LIMIT (09 R274): a request not answered in the partition's limit is denied. -/
def execPageRequestLimit (cluster id : Nat) (s : State) : Host.Outcome State Fault Refusal :=
  match (s.cluster cluster).pageReqs.find? (fun q => q.id = id) with
  | some q =>
    (match (tget s.parts q.part).bind Partition.reqLimit with
     | some n => if q.since + n ≤ s.cycle then .next (s.answerPage cluster q true) else .next s
     | none => .next s)
  | none => .next s

end Sys2Proof.Machine
end

