-- ==== Sys2Proof/Machine/Bridge.lean ====
section
/-!
DEFINITION. Sys2Proof/Machine/Bridge.lean: the host bridge (17): ATS and PRI, PCIe reads, CXL snoops and host accesses, warm
restart and function-level reset, BAR0 writes, and the steward's event records (19 R474), which are writes to the host.
-/
namespace Sys2Proof.Machine

/-! ## Event records (19 R474) -/

/-- EVENT_RECORD: a record in a function's event ring; lost where none is registered (log 90, DESIGN CHOICE). -/
def State.eventRecord (s : State) (fn kind detail : Nat) : State :=
  match tget s.steward.events fn with
  | none => s
  | some r =>
    if s.bridge.hostUp = false then s
    else
      let bs := leBytes 8 (r.index + 1) ++ leBytes 8 kind ++ leBytes 8 s.cycle ++ leBytes 8 detail ++ zeroBytes 32
      let s := s.flatWrite (flatHost r.base + 64 * (r.index % 2 ^ r.lslots)) bs
      ({ s with steward := { s.steward with events := tput s.steward.events fn { r with index := r.index + 1 } } }).sendMsix fn 1

/-- An event record for every set-up partition. -/
def State.eventForAll (s : State) (kind detail : Nat) : State := s.parts.foldl (fun s (p, _) => s.eventRecord p kind detail) s

/-- A link or the host needs the module awake: it is back in Aster before the event is handled (19 R471). On leaving Lupin local
memory, accumulators and rings read zero, decode tables hold the preset, and the firmware's contexts are placed again. The state
entered is reported (R474 kind 6). -/
def State.powerUp (s : State) : State :=
  let st := s.steward
  let s := if st.power = .lupin then
      let s := (s.zeroFlat (flatTcm 0 0) (flatScratch 0 0)).zeroFlat (flatScratch 0 0) (flatScratch (2 ^ 20) 0)
      { s with
        cores := s.cores.map (fun (c, k) =>
          (c, k.threads.foldl (fun k (i, t) => if t.tier = .stowed ∧ t.held = false then k.seat i t else k)
            { k with acc0 := List.replicate 256 0, acc1 := List.replicate 256 0, table := presetE4M3 }))
        rings := s.rings.map (fun (g, _) => (g, Ring.reset)) }
    else s
  let s' : State := { s with steward := { st with power := .aster, moving := false } }
  if st.power = .aster then s' else s'.eventRecord 0 6 0

/-! ## Accesses waiting at the bridge (17 R440, R441) -/

/-- A thread's access waits on the request: same page, same permission. -/
def AtsReq.asks (a : AtsReq) (r : Req) : Bool :=
  decide (r.part = a.part ∧ r.phase = .ats a.page ∧ a.exec = false) && (decide (r.kind = .store) == a.write)

/-- An engine's or a fetch's access waits on the request. -/
def AtsReq.holds (a : AtsReq) (h : EngHold) : Bool := decide (h.who.part = a.part ∧ h.why = .ats a.page a.write a.exec ∧ h.ended = none)

/-- What the accesses of a request need is granted. -/
def AtsReq.granted (a : AtsReq) (rd wr ex : Bool) : Bool := if a.write then wr else rd && (ex || !a.exec)

/-- The slice that sent an access to the bridge. -/
def Req.slice (r : Req) : Nat := match r.target with | .home cl => cl | _ => 0

/-- The accesses of a request go on from the ATS step. -/
def State.atsAgain (s : State) (a : AtsReq) : State :=
  ((s.reqs.filter (fun (_, r) => a.asks r)).foldl (fun s (n, r) => s.atBridge n r r.slice a.page (r.addr.toNat % 4096))
    (s.mapHolds (fun h => if a.holds h then none else some h))).wakeAccess a.part

/-- The accesses of a request fault. -/
def State.atsFault (s : State) (a : AtsReq) (c : Byte) : State :=
  ((s.reqs.filter (fun (_, r) => a.asks r)).foldl (fun s (n, r) => s.phased n r (.fault c))
    (s.mapHolds (fun h => some (if a.holds h then { h with ended := some c } else h)))).wakeAccess a.part

def State.setAts (s : State) (f : List AtsReq → List AtsReq) : State := { s with bridge := { s.bridge with ats := f s.bridge.ats } }

/-- The request is outstanding no longer. -/
def State.dropAts (s : State) (a : AtsReq) : State := s.setAts (fun l => l.filter (· ≠ a))

/-- A request ends in a denial: its accesses fault with 0x14. -/
def State.atsDeny (s : State) (a : AtsReq) : State := (s.dropAts a).atsFault a 0x14

/-- Page request groups outstanding on a function (17 R441). -/
def State.priCount (s : State) (part : Nat) : Nat := (s.bridge.ats.filter (fun a => decide (a.part = part) && a.pri)).length

/-- A page request is raised for what an answer did not grant: refused at once after a Response Failure; beyond 512 groups the
accesses stay held. -/
def State.raisePri (s : State) (a : AtsReq) : State :=
  if ((tget s.parts a.part).map Partition.priFailed).getD false then s.atsFault a 0x14
  else if 512 ≤ s.priCount a.part then s
  else s.setAts (fun l => l ++ [{ a with pri := true, marked := false, since := s.cycle }])

/-- The translation cache takes an entry: 8,192 are kept. -/
def State.putAtc (s : State) (e : AtcEntry) : State :=
  { s with bridge := { s.bridge with atc := (e :: s.bridge.atc.filter (fun x => !(x.part = e.part ∧ x.page = e.page))).take 8192 } }

/-- A Translation Completion with a translation (17 R440). -/
def State.atsSuccess (s : State) (a : AtsReq) (hpage : Nat) (rd wr ex : Bool) (lg : Nat) : State :=
  let n := 2 ^ (lg - 12)
  if a.granted rd wr ex then ((s.dropAts a).putAtc ⟨a.part, a.page, hpage / n * n + a.page % n, rd, wr, ex⟩).atsAgain a
  else (s.dropAts a).raisePri a

/-- The translation request that an answer is for: the oldest for its page. -/
def State.atsAsked (s : State) (part page : Nat) : Option AtsReq := s.bridge.ats.find? (fun a => a.part = part ∧ a.page = page ∧ a.pri = false)

/-- The page request group that an answer is for. -/
def State.priAsked (s : State) (part page : Nat) : Option AtsReq := s.bridge.ats.find? (fun a => a.part = part ∧ a.page = page ∧ a.pri = true)

/-- ATS_TRANSLATION_COMPLETION (17 R440, R442): a marked request's answer is discarded and the request sent again. -/
def execAtsTranslationCompletion (part page : Nat) (res : AtsResult) (s : State) : Host.Outcome State Fault Refusal :=
  match s.atsAsked part page with
  | none => .next s
  | some a =>
    if a.marked then .next (s.setAts (fun l => l.map (fun x => if x = a then { a with marked := false, since := s.cycle } else x)))
    else match res with
      | .ok hpage rd wr ex lg => .next (s.atsSuccess a hpage rd wr ex lg)
      | .none => .next (s.atsDeny a)

/-- ATS_COMPLETION_TIMEOUT (17 R440). -/
def execAtsCompletionTimeout (part page : Nat) (s : State) : Host.Outcome State Fault Refusal :=
  match s.atsAsked part page with
  | some a => if a.since + 2 ^ 24 ≤ s.cycle then .next (s.atsDeny a) else .next s
  | none => .next s

/-- Accesses of a function that no request is outstanding for: they were held for want of a page request group. -/
def State.unasked (s : State) (part : Nat) : List AtsReq :=
  let asked (a : AtsReq) : Bool := s.bridge.ats.any (fun b => decide (b.part = part ∧ b.page = a.page ∧ b.write = a.write ∧ b.exec = a.exec))
  let of_ (page : Nat) (write exec : Bool) : AtsReq := ⟨part, page, write, false, false, 0, exec⟩
  (s.reqs.filterMap (fun (_, r) => match r.phase with
      | .ats p => if r.part = part then some (of_ p (decide (r.kind = .store)) false) else none
      | _ => none)
    ++ s.clusters.flatMap (fun (_, k) => k.engHolds.filterMap (fun h => match h.why with
      | .ats p w x => if h.who.part = part ∧ h.ended = none then some (of_ p w x) else none
      | _ => none))).eraseDups.filter (fun a => !asked a)

/-- Accesses held for want of a group look again once one has ended. -/
def State.priFreed (s : State) (part : Nat) : State := (s.unasked part).foldl State.atsAgain s

/-- The end of a page request group. -/
def State.priEnd (s : State) (a : AtsReq) (res : PriResult) : State :=
  match res with
  | .success => ((s.dropAts a).atsAgain a).priFreed a.part
  | .invalid => (s.atsDeny a).priFreed a.part
  | .failure =>
    let s := match tget s.parts a.part with | some p => s.setPart a.part { p with priFailed := true } | none => s
    (s.atsDeny a).priFreed a.part

/-- PRI_RESPONSE (17 R441). -/
def execPriResponse (part page : Nat) (res : PriResult) (s : State) : Host.Outcome State Fault Refusal :=
  match s.priAsked part page with
  | some a => .next (s.priEnd a res)
  | none => .next s

/-- PRI_GROUP_TIMEOUT (17 R441). -/
def execPriGroupTimeout (part page : Nat) (s : State) : Host.Outcome State Fault Refusal :=
  match s.priAsked part page, (tget s.parts part).bind Partition.reqLimit with
  | some a, some n => if a.since + n ≤ s.cycle then .next (s.priEnd a .invalid) else .next s
  | _, _ => .next s

/-! ## Invalidation (17 R442) and reads (R443) -/

/-- Reads of a partition sent to the host and not answered whose page lies in a range of host page numbers (log 96, DEDUCED). -/
def State.readsInRange (s : State) (part page pages : Nat) : List Nat :=
  s.reqs.filterMap (fun (n, r) =>
    if r.part = part ∧ r.phase = .atHost then
      match s.leafNow part r.addr.toNat with
      | some (e, pa) => if pteTgt e = 2 ∧ page ≤ pa / 4096 ∧ pa / 4096 < page + pages then some n else none
      | none => none
    else none)

/-- Invalidations whose reads have all been answered are completed (17 R442 steps 3 and 4). -/
def State.finishInvs (s : State) : State :=
  let open_ (i : AtsInv) : Bool := i.reads.any (fun n => match tget s.reqs n with | some r => decide (r.phase = .atHost) | none => false)
  let done := s.bridge.invs.filter (fun i => !open_ i)
  if done = [] then s
  else done.foldl (fun s i => s.emit (.invalidated i.part i.page i.pages)) { s with bridge := { s.bridge with invs := s.bridge.invs.filter open_ } }

/-- ATS_INVALIDATE_REQUEST (17 R442). -/
def execAtsInvalidateRequest (part page pages : Nat) (s : State) : Host.Outcome State Fault Refusal :=
  let hit (p q : Nat) : Bool := decide (p = part ∧ page ≤ q ∧ q < page + pages)
  let reads := s.readsInRange part page pages
  let b := s.bridge
  .next (({ s with bridge := { b with
    atc := b.atc.filter (fun e => !hit e.part e.page)
    ats := b.ats.map (fun a => if hit a.part a.page && !a.pri then { a with marked := true } else a)
    invs := b.invs ++ [⟨part, page, pages, reads⟩] } } : State).finishInvs)

/-- PCIE_READ_COMPLETION (17 R443). -/
def execPcieReadCompletion (req : Nat) (res : PcieResult) (s : State) : Host.Outcome State Fault Refusal :=
  match tget s.reqs req with
  | some r =>
    if r.phase = .atHost ∧ s.sentToHost req then
      let p : Phase := match res with
        | .data v => .done (BitVec.ofNat 128 (v.toNat % 2 ^ (8 * r.len))) false 0
        | .poisoned => .fault 0x38
        | .unsupported | .abort | .timeout => .fault 0x14
      .next ((s.phased req r p).finishInvs)
    else .next s
  | none => .next s

/-! ## CXL (17 R445 to R448) -/

/-- A hold or a full overflow queue keeps a write of a flat line waiting (07 R202, 08 R246). -/
def State.flatHeld (s : State) (line : Nat) : Bool :=
  s.heldByOther none (s.resvOnLine noPart line (64 * line)) || s.ovfFullAt noPart line (64 * line)

/-- HOST_SNOOP (17 R445, R446): the line is recalled and its modified data goes to the host; a snoop that takes it away, for a
host write, fires its watches (log 97, DEDUCED). -/
def execHostSnoop (hpa : Nat) (write : Option Nat) (s : State) : Host.Outcome State Fault Refusal :=
  let line := flatHost hpa / 64
  match write with
  | none => .next (((s.powerUp).recallFlat (fun f => decide (f = line))).writeBack line)
  | some v => if s.flatHeld line then .next s else .next (s.powerUp.flatWrite (64 * line) (leBytes 64 v))

/-- Either fault of a host access adds one to the partition's counter, which the steward reports (17 R447, 19 R474). -/
def State.hostFault (s : State) (part : Nat) : State :=
  match tget s.parts part with
  | some p => (s.setPart part { p with hostFaults := p.hostFaults + 1 }).eventRecord part 5 (p.hostFaults + 1)
  | none => s

/-- A host access that faults (17 R447): a read gets poison, a write is dropped. -/
def State.hostFails (s : State) (part hpa n : Nat) (write : Bool) : State :=
  let s := s.hostFault part
  if write then s.emit (.hostWritten part hpa) else s.emit (.hostData part hpa (zeroBytes n) true)

/-- A host access at its line: an owner gives the line up before a read, every copy goes before a write (08 R229); it waits
for a hold, and for a ticket of the darner. -/
def State.hostPerform (s : State) (l : Loc) (hpa n : Nat) (write : Option Nat) : State :=
  match write with
  | none =>
    (match s.recallOwner l.cl l.part l.line with
     | (s', .unit b k) => s'.askTicket l.cl l.part b k
     | (s', .nothing) =>
       if s'.viewPoisoned l 0 n then s'.hostFails l.part hpa n false else s'.emit (.hostData l.part hpa (s'.viewRead l 0 n).1 false))
  | some v =>
    if s.engWriteHeld l then s
    else match s.clearLine l.cl l.part l.line with
      | (s', .unit b k) => s'.askTicket l.cl l.part b k
      | (s', .nothing) => (s'.performWrite l 0 (leBytes n v) false).emit (.hostWritten l.part hpa)

/-- CXL_MEM_HOST_ACCESS (17 R447, R448): `n` bytes of one line at a host address of the partition's HDM range, in class 3 of the
slice; one that may not be performed yet comes again. -/
def execCxlMemHostAccess (part hpa n : Nat) (write : Option Nat) (s : State) : Host.Outcome State Fault Refusal :=
  match (tget s.parts part).bind Partition.hdm with
  | none => .next s
  | some (hbase, vbase, size) =>
    if hpa < hbase ∨ hbase + size < hpa + n ∨ 64 < hpa % 64 + n then .next s
    else
      let va := vbase + (hpa - hbase)
      let cl := ((tget s.parts part).map (fun p => p.homeOf va)).getD 0
      match s.powerUp.admitted cl part 3 (va / 64) with
      | none => .next s
      | some s1 =>
        match s1.translate part va (if write.isSome then .write else .read) true write.isSome with
        | (s1, .zeros) => .next (s1.emit (.hostData part hpa (zeroBytes n) false))
        | (s1, .ok pa e) =>
          if pteTgt e ≠ 0 then .next (s1.hostFails part hpa n write.isSome)
          else .next (s1.hostPerform ⟨part, va, cl, pa, cacheable e⟩ hpa n write)
        | (s1, _) => .next (s1.hostFails part hpa n write.isSome)

/-! ## Restart and reset (17 R453, R454) -/

/-- The page stands at the host, be it moving or not (09 R261). -/
def State.hostPage (s : State) (part va : Nat) : Bool :=
  match s.leafNow part va with
  | some (e, _) => pteTgt e == 1 || pteTgt e == 2
  | none => false

/-- The access is in flight to a host page, or waits on the host. -/
def State.hostBound (s : State) (r : Req) : Bool :=
  match r.target, r.phase with
  | .home _, .done _ _ _ | .home _, .fault _ => false
  | .home _, .ats _ => true
  | .home _, _ => s.hostPage r.part r.addr.toNat
  | _, _ => false

/-- An engine's or a fetch's access is held for a host page, or waits on the host. -/
def State.hostHeld (s : State) (h : EngHold) : Bool :=
  h.ended.isNone && (match h.why with
    | .ats _ _ _ => true
    | .retry => false
    | _ => s.hostPage h.who.part (64 * h.line))

/-- The queues that a test names leave their engines with the engines' watches; what of their baskets is not admitted is never
admitted (log 34, DEDUCED). -/
def State.dropQueues (s : State) (gone : Queue → Bool) : State :=
  let out := s.queues.filter (fun (_, q) => gone q)
  let s := out.foldl (fun s (_, q) =>
    match q.head with
    | some h => ((s.dropWatch q.watch).dropWatch h.watch).modBasket h.basket (fun b => { b with admitted := true })
    | none => s.dropWatch q.watch) s
  { s with queues := s.queues.filter (fun (_, q) => !gone q)
           dies := s.dies.map (fun (d, e) => (d, { e with queues := e.queues.filter (fun n => !out.any (fun g => g.1 = n)) })) }

/-- Host queues of the partitions named. -/
def State.dropHostQueues (s : State) (mine : Nat → Bool) : State := s.dropQueues (fun q => mine q.part && !q.control.getLsbD 8)

/-- A member is stopped as `tstop` stops it (05 R150). -/
def State.stopMember (s : State) (tid : Nat) : State :=
  match s.thread? tid with
  | some t =>
    if t.fault.isNone ∧ (t.state = .running ∨ t.state = .ready ∨ t.state = .sleeping) then
      (s.halt tid .stopped).modThread tid (fun u => { u with ask := .stop })
    else s
  | none => s

/-- The members of a load that are not themselves hit are stopped, and its basket's fault cell is told (17 R454 step 3). -/
def State.restartLoad (s : State) (hit : List Nat) (n : Nat) : State :=
  match tget s.loads n with
  | some l => ((l.members.filter (fun m => !hit.contains m)).foldl State.stopMember s).basketFault l.basket 0x15 (n % 2 ^ 32)
  | none => s

/-- A host warm restart for the partitions named, in its order (17 R454) (log 112, DEDUCED). -/
def State.warmRestart (s : State) (mine : Nat → Bool) : State :=
  -- 1: accesses at the host fault with 0x15
  let cut := s.reqs.filter (fun (_, r) => mine r.part && s.hostBound r)
  let held := (s.clusters.flatMap (fun (_, k) => k.engHolds)).filter (fun h => mine h.who.part && s.hostHeld h)
  let l1 := s.cores.flatMap (fun (_, k) => (k.l1 ++ k.victims).map (fun l => (l.part, l.line)))
  let l2 := s.clusters.flatMap (fun (_, k) => k.data.map (fun l => (l.part, l.line)) ++ k.versions.map (fun v => (v.part, v.line)))
  let lines := ((l1 ++ l2).eraseDups).filter (fun (p, l) => mine p && s.hostPage p (64 * l))
  let named := lines.filterMap (fun (p, l) => (s.leafNow p (64 * l)).bind (fun (e, pa) => (s.flatOf pa e).map (· / 64)))
  let dropped (f : Nat) : Bool := decide (flatHost 0 ≤ 64 * f) && named.contains f
  let s : State := cut.foldl (fun s (n, r) => s.phased n r (.fault 0x15)) s
  let s := s.mapHolds (fun h => some (if held.contains h then { h with ended := some 0x15 } else h))
  let s := s.setAts (fun l => l.filter (fun a => !mine a.part))
  -- 2: translations of host pages, the bridge's cache and host lines go
  let s : State := { s with
    clusters := s.clusters.map (fun (c, k) => (c, { k with
      tlb := k.tlb.filter (fun t => !(mine t.part && (pteTgt t.pte == 1 || pteTgt t.pte == 2)))
      data := k.data.filter (fun x => !lines.contains (x.part, x.line))
      versions := k.versions.filter (fun v => !lines.contains (v.part, v.line)) }))
    bridge := { s.bridge with atc := s.bridge.atc.filter (fun e => !mine e.part) }
    dirty := s.dirty.filter (fun (f, _) => !dropped f) }
  let s := s.filterL1 (fun _ x => !lines.contains (x.part, x.line))
  let s := s.dropResv (fun r => r.glob && lines.contains (r.part, r.start / 64))
  let s := (s.parts.filter (fun (p, _) => mine p)).foldl (fun s (p, _) => s.wakeAccess p) s
  -- 3: loads with a member so faulted
  let hit := cut.map (fun (_, r) => r.tid) ++ (held.filter (fun h => h.who.fetch)).map (fun h => h.who.tid)
  let s := ((hit.filterMap (fun tid => (s.thread? tid).map Thread.load)).eraseDups).foldl (State.restartLoad · hit ·) s
  -- 4: host queues go
  (s.dropHostQueues mine).finishInvs

/-- HOST_WARM_RESTART (17 R454). -/
def execHostWarmRestart (s : State) : Host.Outcome State Fault Refusal :=
  .next ((({ s with bridge := { s.bridge with hostUp := false } } : State).warmRestart (fun _ => true)))

/-- HOST_LINK_UP (17 R454). -/
def execHostLinkUp (s : State) : Host.Outcome State Fault Refusal := .next { s with bridge := { s.bridge with hostUp := true } }

/-- FUNCTION_LEVEL_RESET (17 R441, R453): a warm restart confined to the function's partition; page requests may be raised again. -/
def execFunctionLevelReset (fn : Nat) (s : State) : Host.Outcome State Fault Refusal :=
  let s := s.warmRestart (fun p => decide (p = fn))
  match tget s.parts fn with
  | some p => .next (s.setPart fn { p with priFailed := false })
  | none => .next s

/-! ## BAR0 (17 R438, 19 R469) -/

def State.mailbox (s : State) (fn : Nat) : Mailbox := (tget s.steward.mail fn).getD Mailbox.reset
def State.setMailbox (s : State) (fn : Nat) (m : Mailbox) : State := { s with steward := { s.steward with mail := tput s.steward.mail fn m } }

/-- Vectors that are unmasked and pending are sent. -/
def State.sendPending (s : State) (fn : Nat) : State :=
  (List.range 64).foldl (fun s v =>
    let b := s.barByte fn (0x800 + v / 8)
    if b.getLsbD (v % 8) ∧ !s.vectorMasked fn v then
      (s.setBarByte fn (0x800 + v / 8) (b &&& ~~~BitVec.ofNat 8 (2 ^ (v % 8)))).emit (.msix fn v)
    else s) s

/-- Eight bytes written at an offset of BAR0. -/
def State.setBarWord (s : State) (fn off : Nat) (v : Word) : State :=
  ((wordBytes v).zip (List.range 8)).foldl (fun s (b, i) => s.setBarByte fn (off + i) b) s

/-- REGISTER_WRITE (17 R438): an aligned 8-byte write of the host. The MSI-X table and a mailbox's opcode and arguments keep it; the
pending bits, the reply and every other offset ignore it. A command sequence that rises by one with an unknown opcode is
answered with status 1; one with a known opcode is that command's own event; any other change of the word is only kept (log 92, DEDUCED). -/
def execRegisterWrite (fn off : Nat) (v : Word) (s : State) : Host.Outcome State Fault Refusal :=
  if 64 ≤ fn ∨ off % 8 ≠ 0 then .next s
  else if off < 0x400 then .next ((s.setBarWord fn off v).sendPending fn)
  else if 0x1008 ≤ off ∧ off < 0x1100 then .next (s.powerUp.setBarWord fn off v)
  else if off = 0x1000 then
    let m := s.mailbox fn
    let op := leNat ((List.range 8).map (fun i => s.barByte fn (0x1008 + i)))
    if v.toNat = m.seqWord + 1 ∧ 1 ≤ op ∧ op ≤ 10 then .next s
    else
      let s := s.powerUp
      .next (s.setMailbox fn (if v.toNat = m.seqWord + 1 then { seqWord := v.toNat, status := 1, reply := v.toNat, data := [] } else { m with seqWord := v.toNat }))
  else .next s

end Sys2Proof.Machine
end

