-- ==== Sys2Proof/Machine/Capability.lean ====
section
/-!
DEFINITION. Sys2Proof/Machine/Capability.lean: the capability instructions (04 R122 to R124).
-/
namespace Sys2Proof.Machine

/-- A capability instruction's fault: it makes no access (05 R162). -/
def capTrap (cause : Byte) : Trap := plainTrap cause

/-- An integer result from a bound: 0 to 2^65 - 1 as it is; for an untagged operand whose rebuilt bound is no such number
the spec states no value (log 8, DESIGN CHOICE). -/
def boundResult (which : Nat) (a : Reg) (v : Int) : Reg :=
  if 0 ≤ v ∧ v < 2 ^ 65 then Reg.ofNat v.toNat else ⟨Config.boundOf which a.bits, false⟩

/-- An instruction that writes an integer taken from one register. -/
def State.capGet (s : State) (i : Instr) (d a : RegNo) (f : Reg → Reg) : Host.Outcome State Fault Refusal :=
  s.issue i (fun t => s.writes d (f (t.reg a)))

/-- A cursor or permission change: a tagged sealed source faults with 0x06 (04 R122). -/
def State.capChange (s : State) (i : Instr) (d a : RegNo) (f : Thread → Reg → Reg) : Host.Outcome State Fault Refusal :=
  s.issue i (fun t =>
    let c := t.reg a
    .checked [need (!(c.tag && c.sealed_)) (capTrap 0x06)] (fun _ => s.writes d (f t c)))

/-- A with its permissions reduced to those of the mask. -/
def Reg.maskPerm (c : Reg) (m : BitVec 14) : Reg := ⟨(c.perm &&& m) ++ c.bits.extractLsb' 0 114, c.tag⟩

/-- Narrowed bounds, or the fault (04 R123). -/
def State.capBound (s : State) (i : Instr) (d a : RegNo) (len : Thread → Nat) (exact : Bool) : Host.Outcome State Fault Refusal :=
  s.issue i (fun t =>
    match setBounds (t.reg a) (len t) exact with
    | .ok c => s.writes d c
    | .error x => .trap (capTrap x))

/-- The address lies in the handle space: bits [63:57] are 0b0111111 (04 R124, 15 R390). -/
def inHandleSpace (a : Int) : Bool := decide (a / 2 ^ 57 = 0x3F)

/-- The bounds of b lie within those of a. -/
def boundsWithin (b a : Reg) : Bool :=
  decide ((boundsOf a).1 ≤ (boundsOf b).1) && decide ((boundsOf b).2 ≤ (boundsOf a).2)

/-- The checks of `cunseal`, in its order (04 R124). -/
def unsealChecks (a b : Reg) : List (Option Trap) :=
  [need a.tag (capTrap 0x05), need a.sealed_ (capTrap 0x06),
   need (!inHandleSpace a.cursor.toNat) (capTrap 0x08), need b.tag (capTrap 0x05), need (!b.sealed_) (capTrap 0x06),
   need (b.has (a.perm &&& ~~~permSEALED)) (capTrap 0x08), need (boundsWithin a b) (capTrap 0x07)]

def execCgetaddr (d a : RegNo) (s : State) : Host.Outcome State Fault Refusal :=
  s.capGet (.cgetaddr d a) d a (fun c => Reg.ofWord c.cursor)

def execCgetbase (d a : RegNo) (s : State) : Host.Outcome State Fault Refusal :=
  s.capGet (.cgetbase d a) d a (fun c => boundResult 0 c (boundsOf c).1)

def execCgettop (d a : RegNo) (s : State) : Host.Outcome State Fault Refusal :=
  s.capGet (.cgettop d a) d a (fun c => boundResult 1 c (boundsOf c).2)

def execCgetlen (d a : RegNo) (s : State) : Host.Outcome State Fault Refusal :=
  s.capGet (.cgetlen d a) d a (fun c => boundResult 2 c ((boundsOf c).2 - (boundsOf c).1))

def execCgetperm (d a : RegNo) (s : State) : Host.Outcome State Fault Refusal :=
  s.capGet (.cgetperm d a) d a (fun c => Reg.ofNat c.perm.toNat)

def execCgettag (d a : RegNo) (s : State) : Host.Outcome State Fault Refusal :=
  s.capGet (.cgettag d a) d a (fun c => Reg.ofNat (if c.tag then 1 else 0))

def execCsetaddr (d a b : RegNo) (s : State) : Host.Outcome State Fault Refusal :=
  s.capChange (.csetaddr d a b) d a (fun t c => c.moved (t.reg b).lo)

def execCinc (d a b : RegNo) (s : State) : Host.Outcome State Fault Refusal :=
  s.capChange (.cinc d a b) d a (fun t c => c.moved (c.cursor + (t.reg b).lo))

def execCinci (d a : RegNo) (imm : BitVec 17) (s : State) : Host.Outcome State Fault Refusal :=
  s.capChange (.cinci d a imm) d a (fun _ c => c.moved (c.cursor + imm.signExtend 64))

def execCsetbnd (d a b : RegNo) (s : State) : Host.Outcome State Fault Refusal :=
  s.capBound (.csetbnd d a b) d a (fun t => (t.reg b).lo.toNat) false

def execCsetbndi (d a : RegNo) (imm : BitVec 17) (s : State) : Host.Outcome State Fault Refusal :=
  s.capBound (.csetbndi d a imm) d a (fun _ => imm.toNat) false

def execCsetbndx (d a b : RegNo) (s : State) : Host.Outcome State Fault Refusal :=
  s.capBound (.csetbndx d a b) d a (fun t => (t.reg b).lo.toNat) true

def execCandperm (d a b : RegNo) (s : State) : Host.Outcome State Fault Refusal :=
  s.capChange (.candperm d a b) d a (fun t c => c.maskPerm ((t.reg b).lo.setWidth 14))

def execCandpermi (d a : RegNo) (imm : BitVec 14) (s : State) : Host.Outcome State Fault Refusal :=
  s.capChange (.candpermi d a imm) d a (fun _ c => c.maskPerm imm)

/-- `cseal` (04 R124). -/
def execCseal (d a : RegNo) (s : State) : Host.Outcome State Fault Refusal :=
  s.issue (.cseal d a) (fun t =>
    let c := t.reg a
    .checked [need c.tag (capTrap 0x05), need (!c.sealed_) (capTrap 0x06),
              need (!inHandleSpace (boundsOf c).1) (capTrap 0x08)] (fun _ =>
      s.writes d ⟨(c.perm ||| permSEALED) ++ c.bits.extractLsb' 0 114, true⟩))

/-- `cunseal` (04 R124). -/
def execCunseal (d a b : RegNo) (s : State) : Host.Outcome State Fault Refusal :=
  s.issue (.cunseal d a b) (fun t =>
    .checked (unsealChecks (t.reg a) (t.reg b)) (fun _ =>
      s.writes d { (t.reg a).maskPerm (~~~permSEALED) with tag := true }))

def execCclrtag (d a : RegNo) (s : State) : Host.Outcome State Fault Refusal :=
  s.issue (.cclrtag d a) (fun t => s.writes d { t.reg a with tag := false })

def execCmove (d a : RegNo) (s : State) : Host.Outcome State Fault Refusal :=
  s.issue (.cmove d a) (fun t => s.writes d (t.reg a))

/-- `ctestsub`: 1 where b is no more than a (04 R122). -/
def execCtestsub (d a b : RegNo) (s : State) : Host.Outcome State Fault Refusal :=
  s.issue (.ctestsub d a b) (fun t =>
    let x := t.reg a
    let y := t.reg b
    s.writes d (Reg.ofNat (if x.tag = y.tag ∧ boundsWithin y x ∧ x.has y.perm then 1 else 0)))

end Sys2Proof.Machine
end

