-- ==== Sys2Proof/Machine/Link.lean ====
section
/-!
DEFINITION. Sys2Proof/Machine/Link.lean: the link engine (18): training, reachability, accesses of other modules to this
module's memory, and what becomes of requests to a module that does not answer.
-/
namespace Sys2Proof.Machine

/-- Chips this module can reach, its own apart (18 R457). -/
def State.reachableChips (s : State) : List Nat := (s.bridge.peers.map Prod.fst).filter s.reachable

/-- Every change in reachability is reported (18 R465, 19 R474 kind 4): the chip, and its new state in bit 32. -/
def State.reportReach (s before : State) : State :=
  let was := before.reachableChips
  let now := s.reachableChips
  let s := (was.filter (fun c => !now.contains c)).foldl (fun s c => s.eventForAll 4 c) s
  (now.filter (fun c => !was.contains c)).foldl (fun s c => s.eventForAll 4 (c + 2 ^ 32)) s

/-- Watch records and reservations of a module's threads that this module holds go (18 R465). -/
def State.dropChipWatches (s : State) (chip : Nat) : State :=
  let keep (ws : List WatchUnit) : List WatchUnit := liveUnits (ws.map (fun w => { w with recs := w.recs.filter (fun r => r.chip ≠ chip) }))
  { s with cores := s.cores.map (fun (c, k) => (c, { k with watches := keep k.watches }))
           clusters := s.clusters.map (fun (c, k) => (c, { k with watches := keep k.watches }))
           bridge := { s.bridge with peerResv := s.bridge.peerResv.filter (fun v => decide (v.chip ≠ chip)) } }

/-- Reachability has changed from what it was: records held for a module now out of reach go (18 R465), and every change is
reported. -/
def State.reached (s before : State) : State :=
  ((before.reachableChips.filter (fun c => !s.reachable c)).foldl State.dropChipWatches s).reportReach before

/-- LINK_TRAINING (18 R456): the chip number the switch gives, 0 with no switch, the links up here and at the peers. -/
def execLinkTraining (port : Option Nat) (up : BitVec 36) (peers : List (Nat × BitVec 36)) (s : State) : Host.Outcome State Fault Refusal :=
  let chip := port.getD 0
  let table := (if port.isSome then peers else []).foldl (fun t (c, m) => if c ≤ 287 ∧ c ≠ chip then tput t c m else t) ([] : Table (BitVec 36))
  let s' : State := { s with bridge := { s.bridge with chip := chip % 288, links := if port.isSome then up else 0, peers := table } }
  .next (s'.reached s)

/-- LINK_COUNT_CHANGE (18 R459): a link of this module, or of another, goes down or up. Pairs move to their new links without a
trace (log 100, DESIGN CHOICE). -/
def execLinkCountChange (link : Nat) (up : Bool) (chip : Option Nat) (s : State) : Host.Outcome State Fault Refusal :=
  if 36 ≤ link then .next s
  else
    let set (m : BitVec 36) : BitVec 36 := if up then m ||| BitVec.ofNat 36 (2 ^ link) else m &&& ~~~BitVec.ofNat 36 (2 ^ link)
    let s := s.powerUp
    let b := s.bridge
    let s' : State := match chip with
      | none => { s with bridge := { b with links := set b.links } }
      | some c => { s with bridge := { b with peers := tput b.peers c (set ((tget b.peers c).getD 0)) } }
    .next (s'.reached s)

/-- PEER_UNREACHABLE (18 R465): a module resets or leaves the domain. -/
def execPeerUnreachable (chip : Nat) (s : State) : Host.Outcome State Fault Refusal :=
  let s' : State := { s with bridge := { s.bridge with peers := tdel s.bridge.peers chip } }
  .next ((s'.dropChipWatches chip).reportReach s)

/-- A request is on its way to another module. -/
def State.atPeer (s : State) (req : Nat) (r : Req) : Bool :=
  decide (r.phase = .atHost) && (match r.target with | .peer _ => true | .home _ => !s.sentToHost req | _ => false)

/-- LINK_REPLY_TIMEOUT (18 R464): no reply in 2^20 cycles: cause 0x10 in the place that cause takes for the access. -/
def execLinkReplyTimeout (req : Nat) (s : State) : Host.Outcome State Fault Refusal :=
  match tget s.reqs req with
  | some r => if s.atPeer req r ∧ r.sentAt + 2 ^ 20 ≤ s.cycle then .next (s.phased req r (.fault 0x10)) else .next s
  | none => .next s

/-- LINK_LEVEL_RETRY (18 R456, R464): a retransmission leaves no trace; data that cannot be recovered arrives poisoned, and its
consumer faults with 0x38. -/
def execLinkLevelRetry (req : Nat) (recovered : Bool) (s : State) : Host.Outcome State Fault Refusal :=
  match tget s.reqs req with
  | some r => if s.atPeer req r ∧ recovered = false ∧ r.kind.returns then .next (s.phased req r (.fault 0x38)) else .next s
  | none => .next s

/-! ## Accesses of other modules (18 R462, R463) -/

/-- The home slice of a physical address (18 R462). -/
def peerHome (pa : Nat) : Nat := let g := pa / 2 ^ 16 % 2 ^ 27; (g ^^^ g / 2 ^ 14) % 2 ^ 14

/-- The entry of the table of R463 for a physical address. -/
def State.offer (s : State) (pa : Nat) : Word := (tget s.bridge.offered (pa / 2 ^ 30)).getD 0
def offerV (e : Word) : Bool := e.getLsbD 0
def offerWr (e : Word) : Bool := e.getLsbD 1
def offerTag (e : Word) : Nat := (e.extractLsb' 18 16).toNat

/-- Accesses that need wr. -/
def peerWrites : PeerOp → Bool
  | .store _ _ | .atomic _ _ _ _ | .cas _ _ _ _ _ | .scond _ _ _ _ _ => true
  | _ => false

/-- The checks at the peer, in order (18 R463). -/
def State.offerCause (s : State) (p : PeerReq) : Option Byte :=
  let e := s.offer p.addr
  if offerV e = false ∨ offerTag e ≠ p.tag.toNat then some 0x10
  else if peerWrites p.op ∧ offerWr e = false then some 0x11
  else none

/-- An agent command of another module stands in the order of arrival at its target (18 R460), or is refused for its tag (R461) (log 117, DEDUCED). -/
def State.peerAgent (s : State) (chip : Nat) (tag : BitVec 16) (q : AgentCmd) : State :=
  if refChip q.a.bits ≠ s.bridge.chip ∨ AgentOp.ofCode q.member = .spawn ∨ 9 ≤ q.member then s
  else if q.cores.all (fun c => s.domainRefused c tag) then s.emit (.agentReply chip ((q.peer.map PeerAgent.tid).getD 0) (faultStatus 0x28 0) [])
  else { s with agentQ := s.agentQ ++ [q] }

/-- The flat reservation an `lres` of another module takes: the line (07 R201). -/
def peerResvOn (addr n : Nat) : Resv := ⟨BitVec.ofNat 64 addr, n, noPart, true, addr / 64 * 64, 64, 0, 0⟩

/-- An atomic of another module as this module's own requests put it, with the thread of an `lres` or `scond`. -/
def peerAsReq (op : PeerOp) (addr : Nat) : Option (Req × Option Nat) :=
  let r : Req := { tid := 2 ^ 28, order := 0, part := noPart, kind := .load, target := .home (peerHome addr), addr := BitVec.ofNat 64 addr
                   len := 8, data := 0, tag := false, hid := 0, depth := 0, host := false, unv := true, ldc := true
                   signed := false, hint := .none, scope := .mod, acq := false, rel := false, counted := false, sentAt := 0
                   fill := none, pos := 0, got := 0, phase := .sent }
  match op with
  | .atomic kind w v tag => some ({ r with kind := .amo kind.toNat, len := widthBytes w, data := v, tag := tag }, none)
  | .cas w e et v tag => some ({ r with kind := .cas e et, len := widthBytes w, data := v, tag := tag }, none)
  | .lres tid w => some ({ r with kind := .lres, len := widthBytes w }, some tid.toNat)
  | .scond tid w v tag _ => some ({ r with kind := .scond, len := widthBytes w, data := v, tag := tag }, some tid.toNat)
  | _ => none

/-- A `scond` whose origin still holds its reservation says so. -/
def peerStands : PeerOp → Bool
  | .scond _ _ _ _ ok => ok
  | _ => false

/-- An atomic of another module at its slice (07 R199 to R202; 18 R462). It waits for a hold of another thread; what its own
thread had reserved before is dropped by an `lres` or a `scond`. Nothing: it waits. -/
def State.peerAtomic (s : State) (chip addr : Nat) (op : PeerOp) (r : Req) (tid : Option Nat) : Option (State × Quad × Bool × Byte) :=
  let old := leNat (s.bytesAt addr r.len)
  let oldTag := decide (r.len = 16) && s.tagAt addr
  let resv := peerStands op && (match tid with | some t => s.peerReserved chip t r.addr r.len | none => false)
  let free := match tid with | some t => s.dropPeerResv chip t | none => s
  if free.flatHeld (addr / 64) then none
  else if s.poisonedAt ((List.range r.len).map (addr + ·)) then some (s, 0, false, 0x38)
  else
    let o := r.atomicOut resv old oldTag
    let s' := match o.write with
      | some (v, vt) => free.flatPut addr (leBytes r.len v) (vt && decide (r.len = 16))
      | none => free
    let s' := match r.kind, tid with | .lres, some t => s'.addPeerResv chip t (peerResvOn addr r.len) | _, _ => s'
    some (s', o.bits, o.tag, 0)

/-- PEER_ACCESS (18 R460, R463): an access of another module, performed at its home slice here; one that a hold, a full watch
store or a full overflow queue keeps waiting is not performed yet. An agent command comes the same way. -/
def execPeerAccess (p : PeerReq) (s : State) : Host.Outcome State Fault Refusal :=
  let chip := p.chip.toNat
  let reply (s : State) (v : Quad) (tag : Bool) (c : Byte) : State := s.emit (.peerReply chip (BitVec.ofNat 64 p.addr) v tag c)
  let s1 := s.powerUp
  match p.op with
  | .agent member tid a b entries granted image =>
    let target := if refKind a then refCluster a else refTarget a
    let lane := agentLane (AgentOp.ofCode member.toNat) s1.bridge.chip target (refKind a)
    .next (s1.peerAgent chip p.tag ⟨⟨2 ^ 28, 0, lane, noPart, 0, 0, 0, 0, .mod, none, 0⟩, member.toNat, ⟨a, false⟩, ⟨b, false⟩, target, entries,
      granted || refKind a, 0, 0, some ⟨chip, tid.toNat, image⟩⟩)
  | op =>
  if dramEnd ≤ p.addr then .next (reply s1 0 false 0x10)
  else match s1.offerCause p with
  | some c => .next (reply s1 0 false c)
  | none =>
    match op with
    | .load n =>
      let n := Nat.min n 16
      if s1.poisonedAt ((List.range n).map (p.addr + ·)) then .next (reply s1 0 false 0x38)
      else .next (reply s1 (BitVec.ofNat 128 (leNat (s1.bytesAt p.addr n))) (decide (n = 16) && s1.tagAt p.addr) 0)
    | .store bs tag =>
      if s1.flatHeld (p.addr / 64) then .next s
      else if tag ∧ bs.length = 16 then .next (reply (s1.flatPut p.addr bs true) 0 false 0)
      else .next (reply (s1.flatWriteAll p.addr (bs.length / 64 + 2) bs) 0 false 0)
    | .watch tid slot hidden =>
      (match (s1.recallFlat (fun f => decide (f = p.addr / 64))).placeGlobal (peerHome p.addr) noPart (p.addr / 64)
          ⟨chip, tid.toNat, slot.toNat, hidden, 0, 0⟩ with
       | some (s', seq) => .next (reply s' (BitVec.ofNat 128 seq) false 0)
       | none => .next s)
    | .unwatch tid slot hidden =>
      (match s1.forgetRecord (fun r => r.isOf chip tid.toNat slot.toNat hidden) true with
       | some s' => .next (reply s' 0 false 0)
       | none => .next s)
    | op =>
      match peerAsReq op p.addr with
      | none => .next s
      | some (r, tid) =>
        match s1.peerAtomic chip p.addr op r tid with
        | some (s', v, tag, c) => .next (reply s' v tag c)
        | none => .next s

end Sys2Proof.Machine
end

