-- ==== Sys2Proof/Machine/Steward.lean ====
section
/-!
DEFINITION. Sys2Proof/Machine/Steward.lean: the steward (19): boot, mailbox commands, the journal, partitions (17 R452, R453), power,
core reset, park sizes; and the quarantine of a core (05 R165) with the records it makes.
-/
namespace Sys2Proof.Machine

/-! ## Module reset (04 R114) -/

/-- MODULE_RESET: everything takes its reset value but fuses, host memory and what has left the module (log 93, DESIGN CHOICE). -/
def execModuleReset (s : State) : Host.Outcome State Fault Refusal :=
  .next { State.reset with
    mem := s.mem.filter (fun c => decide (flatHost 0 ≤ c.1))
    bridge := { Bridge.reset with hostUp := s.bridge.hostUp, out := s.bridge.out }
    steward := { Steward.reset with fuseMin := s.steward.fuseMin, attBlocks := s.steward.attBlocks }
    agenda := s.agenda, free := s.free }

/-! ## The journal (19 R470) -/

/-- JOURNAL_RECORD: the ring keeps 65,536. -/
def State.journalRec (s : State) (m : Mail) (op : Nat) : State :=
  let st := s.steward
  let r : JournalRec := ⟨st.journalSeq, s.cycle, op, m.fn % 64, m.seq, (List.range 4).map (fun i => m.args.getD i 0)⟩
  let j := st.journal ++ [r]
  { s with steward := { st with journal := j.drop (j.length - 65536), journalSeq := st.journalSeq + 1 } }

/-- The command's record, written once where the command takes several steps. -/
def State.journaled (s : State) (m : Mail) (op : Nat) : State :=
  if s.steward.journal.any (fun r => decide (r.opcode = op ∧ r.fn = m.fn % 64 ∧ r.mailSeq = m.seq)) then s else s.journalRec m op

/-- A record as 64 bytes in words. -/
def JournalRec.words (r : JournalRec) : List Word :=
  [BitVec.ofNat 64 r.seq, BitVec.ofNat 64 r.cycle, BitVec.ofNat 64 (r.opcode % 2 ^ 16 + r.fn % 64 * 2 ^ 16), BitVec.ofNat 64 r.mailSeq] ++ r.args

/-! ## Mailboxes (19 R468, R469) -/

/-- What a command comes to: turned away with a status and reply data (and what it did until then), done, or not yet, while
an access of the steward is held. -/
inductive MailRes where
  | no (s : State) (status : Nat) (data : List Word)
  | yes (f : State → State × List Word)
  | later (s : State)

/-- The firmware's mailbox, a page of device memory. -/
def fwMail : Nat := 64

/-- The reply: its data, the status, then the sequence (19 R469); the firmware's stands in its page. -/
def State.mailReply (s : State) (m : Mail) (status : Nat) (data : List Word) : State :=
  let s := s.setMailbox m.fn ⟨m.seq, m.seq, status, data⟩
  if m.fn = fwMail then
    let p := s.steward.firmPage
    let s := s.flatWriteAll (p + 0x110) 8 (data.flatMap wordBytes)
    (s.flatWord (p + 0x108) status).flatWord (p + 0x100) m.seq
  else s

/-- The command is there to be acted on: its sequence is one above the last; the firmware's stands in its page. -/
def State.mailDue (s : State) (m : Mail) (op : Nat) : Bool :=
  s.steward.running && decide (m.seq = (s.mailbox m.fn).seqWord + 1) &&
    (if m.fn = fwMail then
       s.steward.firmLoad.isSome && decide (s.wordAt s.steward.firmPage = m.seq) && decide (s.wordAt (s.steward.firmPage + 8) = op)
     else decide (m.fn < 64))

/-- A mailbox command (19 R469): busy during a power transition, malformed, refused, or recorded in the journal and applied. -/
def State.mail (s : State) (m : Mail) (op : Nat) (pfOnly : Bool) (f : State → MailRes) : Host.Outcome State Fault Refusal :=
  if s.mailDue m op = false then .next s
  else if s.steward.moving then .next (s.mailReply m 3 [])
  else
    let s := s.powerUp
    if m.reserved then .next (s.mailReply m 1 [])
    else if (m.fn = fwMail ∧ op ≠ 4 ∧ op ≠ 7) ∨ (pfOnly ∧ m.fn ≠ 0 ∧ m.fn ≠ fwMail) then .next (s.mailReply m 2 [])
    else match f s with
      | .no s' status data => .next (s'.mailReply m status data)
      | .later s' => .next s'
      | .yes g => let (s', data) := g (s.journalRec m op); .next (s'.mailReply m 0 data)

/-- The partition whose function a mailbox is: the firmware runs in partition 0. -/
def mailPart (m : Mail) : Nat := m.fn % 64

/-! ## Partitions (17 R452, R453) -/

/-- Owner number of a key slot that belongs to no partition. -/
def noOwner : Nat := 64

/-- The key slot may be assigned. -/
def State.keyFree (s : State) (k : Nat) : Bool :=
  decide (1 ≤ k ∧ k ≤ 255) && (match tget s.steward.keys k with | some (p, _) => decide (p = noOwner) | none => true)

/-- Lines of all partitions' version budgets at a slice (15 R410). -/
def State.versionBudget (s : State) (cl : Nat) : Nat :=
  s.parts.foldl (fun n (_, p) => if p.window.contains cl then n + p.verLines else n) 0

/-- The fault-queue words of a translation record are as 09 R258 has them; without a fault queue the other words are not read. -/
def faultQueueOk (ring index shape area : Nat) : Bool :=
  decide (ring = 0) || (decide (ring % 64 = 0 ∧ index % 8 = 0 ∧ shape / 2 ^ 32 = 0 ∧ area % 64 = 0) && decide (4 ≤ shape % 256 ∧ shape % 256 ≤ 12))

/-- The items can be assigned (17 R452, 09 R256, R258, 15 R410). -/
def State.setupOk (s : State) (x : PartArgs) : Bool :=
  let w (i : Nat) : Nat := (x.record.getD i 0).toNat
  let wlog := w 1 / 2 ^ 16 % 16
  let wbase := w 1 % 2 ^ 14
  decide (x.part < 64) && (tget s.parts x.part).isNone && decide (x.pasid < 2 ^ 20) && s.parts.all (fun (_, p) => decide (p.pasid ≠ x.pasid))
    && decide (x.keys ≠ []) && x.keys.all s.keyFree && decide (wlog ≤ 14) && decide (wbase % 2 ^ wlog = 0 ∧ wbase + 2 ^ wlog ≤ 16384)
    && decide (w 0 % 4096 = 0 ∧ w 0 + 4096 ≤ dramEnd) && decide (w 1 / 2 ^ 20 = 0 ∧ w 7 = 0) && faultQueueOk (w 3) (w 4) (w 5) (w 6)
    && decide (x.verLines ≤ 16384)
    && ((List.range (2 ^ wlog)).all (fun i => decide (s.versionBudget (wbase + i) + x.verLines + 1024 * (s.cluster (wbase + i)).park ≤ 24576)))
    && x.pages.all (fun (b, n) => decide (b % 64 = 0 ∧ b + 64 * n ≤ dramEnd))

/-- The partition's memory is zeroed, its key slots get fresh keys, and it is set up. -/
def State.setupPart (s : State) (x : PartArgs) : State :=
  let s := x.pages.foldl (fun s (b, n) => s.zeroDevice b (b + 64 * n)) s
  let st := s.steward
  let keys := x.keys.foldl (fun t k => tput t k (x.part, ((tget t k).map (fun o => o.2 + 1)).getD 0)) st.keys
  let p : Partition :=
    { record := (List.range 8).map (fun i => x.record.getD i 0), pasid := x.pasid, domTag := x.domTag, hdm := x.hdm, budgets := x.budgets
      memBudgets := x.memBudgets, verLines := x.verLines, hostFaults := 0, tolerance := 0, mint := ⟨x.mint, true⟩, nodes := [], gens := []
      fqIndex := 0, fqRead := 0, respRead := 0, respIndex := 0, lastMsi := none, msiPending := false, priFailed := false, pages := x.pages }
  let bit : BitVec 64 := BitVec.ofNat 64 (2 ^ x.part)
  { s with
    steward := { st with keys := keys }
    bridge := { s.bridge with offered := x.offers.foldl (fun t (i, e) => if i < 8192 then tput t i (e &&& 0x3FFFFFC03#64) else t) s.bridge.offered
                              atsOn := if x.ats then s.bridge.atsOn ||| bit else s.bridge.atsOn &&& ~~~bit }
    parts := tput s.parts x.part p }

/-- A control word that a host queue can have (06 R167). -/
def hostControlOk (control ring : Word) : Bool :=
  !control.getLsbD 8 && decide (control.toNat / 2 ^ 16 = 0 ∧ 4 ≤ control.toNat % 256 ∧ control.toNat % 256 ≤ 16 ∧ ring.toNat % 128 = 0)

/-- A host queue is registered (06 R167, R168): the steward writes the partition's mint capability into the descriptor as a
tagged quad, and the engine reads the descriptor's other fields (log 91, DEDUCED; log 133, DESIGN CHOICE). -/
def State.hostQueue (s : State) (part addr : Nat) : State × Acc Unit :=
  let a : Word := BitVec.ofNat 64 addr
  match tget s.parts part with
  | none => (s, .fault 0x10)
  | some p =>
    if addr % 64 ≠ 0 ∨ (s.queueAt part a).isSome then (s, .fault 0x09)
    else match s.engWrite1 (rootParty part) a (quadBytes p.mint.bits) true true true true with
      | (s, .ok ()) =>
        (match s.readDesc (rootParty part) a true with
         | (s, .ok (_, ring, control, template)) =>
           if hostControlOk control ring = false then (s, .fault 0x02)
           else (match s.registerQueue part a p.mint ring control template with
             | some (s, _) => (s, .ok ())
             | none => (s, .fault 0x02))
         | (s, .fault c) => (s, .fault c)
         | (s, .hold) => (s, .hold))
      | (s, .fault c) => (s, .fault c)
      | (s, .hold) => (s, .hold)

/-- The host queues of a set-up are registered; one that cannot be now is left to the host's own command (log 133, DESIGN CHOICE). -/
def State.setupQueues (s : State) (part : Nat) (queues : List Nat) : State :=
  queues.foldl (fun s a => match s.hostQueue part a with | (s', .ok ()) => s' | _ => s) s

/-- PARTITION_SETUP. -/
def execPartitionSetup (m : Mail) (x : PartArgs) (s : State) : Host.Outcome State Fault Refusal :=
  s.mail m 1 true (fun s => if s.setupOk x then .yes (fun s => ((s.setupPart x).setupQueues x.part x.queues, [])) else .no s 2 [])

/-- Everything on its way that a partition's threads and engines left, their engines' watches with it. -/
def State.forgetPart (s : State) (part : Nat) : State :=
  let mine (c : Cmd) : Bool := decide (c.part = part)
  let s := (s.cores.flatMap (fun (_, k) => (k.vq.filter (fun e => mine e.cmd)).map VmuEntry.watch)).foldl State.dropWatch s
  { s with
    reqs := s.reqs.filter (fun (_, r) => decide (r.part ≠ part))
    probes := s.probes.filter (fun p => decide (p.part ≠ part))
    agentQ := s.agentQ.filter (fun a => !mine a.cmd)
    cellQ := s.cellQ.filter (fun w => !mine w.cmd)
    heldCmds := s.heldCmds.filter (fun h => !mine h.cmd)
    cores := s.cores.map (fun (c, k) => (c, { k with
      waitingVmu := k.waitingVmu.filter (fun w => !mine w.2.cmd)
      vq := k.vq.filter (fun e => !mine e.cmd), started := k.started.filter (fun e => !mine e.cmd)
      slots := k.slots.filter (fun (_, x) => !mine x.cmd), ports := k.ports.filter (fun (_, p) => !mine p.cmd)
      sends := k.sends.filter (fun x => !mine x.cmd), l1 := k.l1.filter (fun l => decide (l.part ≠ part))
      victims := k.victims.filter (fun l => decide (l.part ≠ part)) }))
    clusters := s.clusters.map (fun (c, k) => (c, { k with
      tlb := k.tlb.filter (fun t => decide (t.part ≠ part)), ptrs := k.ptrs.filter (fun t => decide (t.part ≠ part))
      dir := k.dir.filter (fun u => decide (u.part ≠ part)), data := k.data.filter (fun x => decide (x.part ≠ part))
      watches := k.watches.filter (fun w => decide (w.part ≠ part)), ovfLines := k.ovfLines.filter (fun o => decide (o.part ≠ part))
      tickets := k.tickets.filter (fun t => decide (t.part ≠ part)), versions := k.versions.filter (fun v => decide (v.part ≠ part))
      dxWait := (match k.dxWait with | some (c, n, a) => if mine c then none else some (c, n, a) | none => none)
      pageReqs := k.pageReqs.filter (fun q => decide (q.part ≠ part)), engHolds := k.engHolds.filter (fun h => decide (h.who.part ≠ part)) }))
    bridge := { s.bridge with atc := s.bridge.atc.filter (fun e => decide (e.part ≠ part)), ats := s.bridge.ats.filter (fun e => decide (e.part ≠ part))
                              atsOn := s.bridge.atsOn &&& ~~~BitVec.ofNat 64 (2 ^ part) } }

/-- The threads of a partition. -/
def State.partThreads (s : State) (part : Nat) : List Nat := (s.allThreads.filter (fun (_, t) => decide (t.part = part))).map Prod.fst

/-- A teardown stops every thread of the partition, as `tstop` does (05 R150). -/
def State.stopPart (s : State) (part : Nat) : State := (s.partThreads part).foldl State.stopMember s

/-- What a retire waits for (05 R150), for every thread of the partition: its stores have settled and its commands have completed.
At a quarantined core nothing is waited for (01 R40). -/
def State.retirable (s : State) (part : Nat) : Bool :=
  (s.partThreads part).all (fun tid => s.settledMember tid || (s.core (coreOf tid)).quarantined)

/-- Every thread of the partition is retired, and the baskets that so end complete (06 R176). -/
def State.retirePart (s : State) (part : Nat) : State :=
  let s := (s.partThreads part).foldl State.endThread s
  (((s.baskets.filter (fun (_, b) => decide (b.part = part))).map Prod.fst).reverse).foldl State.endBasket s

/-- Teardown, its threads stopped (17 R453): loads are retired, hypotheses, queues, translations and copies go, the HDM range is
disabled, and memory, cores and key slots are zeroed (log 94, DESIGN CHOICE). -/
def State.teardown (s : State) (part : Nat) (p : Partition) : State :=
  let s := s.retirePart part
  let s := s.dropQueues (fun q => decide (q.part = part))
  let s : State := { s with baskets := s.baskets.filter (fun (_, b) => decide (b.part ≠ part)) }
  let s := p.pages.foldl (fun s (b, n) => s.zeroDevice b (b + 64 * n)) s
  let s := s.forgetPart part
  let s := (s.cores.filter (fun (_, k) => decide (k.lastOwner = some part))).foldl (fun s (c, _) =>
    let s := s.zeroCore c
    s.setCore c { s.core c with lastOwner := none }) s
  { s with parts := tdel s.parts part
           steward := { s.steward with keys := s.steward.keys.map (fun (k, o) => (k, if o.1 = part then (noOwner, o.2 + 1) else o)) } }

/-- PARTITION_TEARDOWN: the partition's threads are stopped, and once they can be retired the rest is done. -/
def execPartitionTeardown (m : Mail) (part : Nat) (s : State) : Host.Outcome State Fault Refusal :=
  s.mail m 2 true (fun s =>
    match tget s.parts part with
    | some p =>
      let s' := (s.journaled m 2).stopPart part
      if s'.retirable part then .yes (fun _ => (s'.teardown part p, [])) else .later s'
    | none => .no s 2 [])

/-! ## The other commands (19 R469) -/

/-- REGISTER_HOST_QUEUE (06 R168, 17 R452). -/
def execRegisterHostQueue (m : Mail) (addr : Nat) (s : State) : Host.Outcome State Fault Refusal :=
  s.mail m 3 false (fun s =>
    match s.hostQueue (mailPart m) addr with
    | (s', .ok ()) => .yes (fun _ => ((s'.journalRec m 3), []))
    | (s', .fault _) => .no s' 2 []
    | (s', .hold) => .later (s.keepWaiting s'))

/-- LATENCY_TOLERANCE (19 R471). -/
def execLatencyTolerance (m : Mail) (us : BitVec 32) (s : State) : Host.Outcome State Fault Refusal :=
  s.mail m 4 false (fun s =>
    match tget s.parts (mailPart m) with
    | some p => .yes (fun s => (s.setPart (mailPart m) { p with tolerance := us.toNat }, []))
    | none => .no s 2 [])

/-- Free words, as many as asked. -/
def State.freeWords (s : State) (n : Nat) : State × List Word :=
  ({ s with free := s.free + n }, (List.range n).map (fun i => Config.digestWord (s.free + i)))

/-- The report (19 R467): three measurements, versions, the partition's set-up, the nonce, the signature; digests and signature
are free, and so is their order (log 35, DESIGN CHOICE). -/
def State.report (s : State) (m : Mail) (nonce : BitVec 256) : State × List Byte :=
  let (s, digests) := s.freeWords 12
  let (s, sig) := s.freeWords 222
  let p := tget s.parts (mailPart m)
  (s, (digests ++ [BitVec.ofNat 64 s.steward.stewardVer, BitVec.ofNat 64 (s.steward.firmware.getD 0)]
    ++ (p.map Partition.record).getD [] ++ [BitVec.ofNat 64 ((p.map Partition.pasid).getD 0), BitVec.ofNat 64 ((p.map Partition.domTag).getD 0)]
    ++ (List.range 4).map (fun i => nonce.extractLsb' (64 * i) 64) ++ sig).flatMap wordBytes)

/-- ATTEST (19 R467): refused once the one-time keys are spent. -/
def execAttest (m : Mail) (nonce : BitVec 256) (addr : Nat) (s : State) : Host.Outcome State Fault Refusal :=
  s.mail m 5 false (fun s =>
    if 2 ^ 20 ≤ s.steward.attIndex ∨ s.bridge.hostUp = false then .no s 2 []
    else .yes (fun s =>
      let (s, bs) := s.report m nonce
      let s := s.flatWriteAll (flatHost addr) (bs.length / 64 + 2) bs
      let st := s.steward
      let next := st.attIndex + 1
      ({ s with steward := { st with attIndex := next, attBlocks := if 1024 * st.attBlocks ≤ next ∧ st.attBlocks < 1024 then st.attBlocks + 1 else st.attBlocks } },
       [BitVec.ofNat 64 addr])))

/-- READ_JOURNAL (19 R469, R470): up to three records from a sequence on; a VF sees its own partition's. -/
def execReadJournal (m : Mail) (first : Nat) (s : State) : Host.Outcome State Fault Refusal :=
  s.mail m 6 false (fun _ => .yes (fun s =>
    let rs := (s.steward.journal.filter (fun r => decide (first ≤ r.seq) && (decide (m.fn = 0) || decide (r.fn = m.fn)))).take 3
    (s, rs.flatMap JournalRec.words)))

/-- A core after its reset (19 R473): all local memory, accumulators and slots zeroed, the carve and the decode table at reset (log 75, DEDUCED). -/
def State.resetCore (s : State) (core : Nat) (pass : Bool) : State :=
  let s := if (s.core core).carve = 0x4444#64 then s else s.carve core 0x4444#64
  let k := s.core core
  let s := s.zeroCore core
  let s := k.threads.foldl (fun s (i, t) => (s.dropThread (256 * core + i)).memberGone t.load (256 * core + i)) s
  let s := s.setCore core { Core.reset with quarantined := !pass, l1 := k.l1, victims := k.victims, lastOwner := k.lastOwner }
  s.eventRecord 0 3 (core + (if pass then 0 else 2 ^ 32))

/-- RESET_CORE (19 R473): the steward waits until no load has a member on the core. -/
def execResetCore (m : Mail) (core : Nat) (pass : Bool) (s : State) : Host.Outcome State Fault Refusal :=
  if (s.core core).quarantined ∧ s.loads.any (fun (_, l) => decide (l.state ≠ .failed ∧ l.state ≠ .ended) && l.members.any (fun t => decide (coreOf t = core))) then .next s
  else
    s.mail m 7 true (fun s =>
      if (s.core core).quarantined = false ∨ 2 ^ 20 ≤ core then .no s 2 []
      else if pass then .yes (fun s => (s.resetCore core true, []))
      else .no (s.resetCore core false) 2 [])

/-- EVENT_RING (19 R474). -/
def execEventRing (m : Mail) (base lslots : Nat) (s : State) : Host.Outcome State Fault Refusal :=
  s.mail m 8 false (fun s =>
    if lslots < 4 ∨ 12 < lslots ∨ base % 64 ≠ 0 then .no s 1 []
    else .yes (fun s => ({ s with steward := { s.steward with events := tput s.steward.events m.fn ⟨base, lslots, 0⟩ } }, [])))

/-- An image passes the two tests (19 R466). -/
def State.imageOk (s : State) (img : Nat) : Bool := Config.imageVerifies img && decide (s.steward.fuseMin ≤ Config.imageVersion img)

/-- LOAD_IMAGE (19 R466). -/
def execLoadImage (m : Mail) (img : Nat) (raise : Bool) (s : State) : Host.Outcome State Fault Refusal :=
  s.mail m 9 true (fun s =>
    if s.imageOk img then
      .yes (fun s =>
        let v := Config.imageVersion img
        ({ s with steward := { s.steward with firmware := some v, fuseMin := if raise then Nat.max s.steward.fuseMin v else s.steward.fuseMin } }, []))
    else .no s 2 [])

/-! ## Park regions (19 R475) -/

/-- Places of a cluster's park region that its contexts need. -/
def State.parkNeed (s : State) (cl : Nat) : Nat :=
  s.cores.foldl (fun n (c, k) =>
    if clusterOf c = cl then n + ((k.threads.filter (fun (_, t) => decide (t.tier ≠ .stowed))).length - k.warmSlots) else n) 0

/-- The size can be given to the slice. -/
def State.parkFits (s : State) (cl size : Nat) : Bool :=
  (decide ((s.cluster cl).park ≤ size) || decide (s.parkNeed cl ≤ 64 * size)) && decide (1024 * size + s.versionBudget cl ≤ 24576)

/-- The slice gives up data space: what no longer fits is written back and dropped. -/
def State.setPark (s : State) (cl size : Nat) : State :=
  let k := s.cluster cl
  let room := 32768 - 1024 * size
  let lost := k.data.drop room
  let s := lost.foldl (fun s x => s.evictData cl x) s
  s.setCluster cl { s.cluster cl with park := size }

/-- The slices from `cl` on, `n` of them: the first that cannot take the size. -/
def State.parkFrom (s : State) (size : Nat) : Nat → Nat → State × Option Nat
  | 0, _ => (s, none)
  | n + 1, cl => if s.parkFits cl size then (s.setPark cl size).parkFrom size n (cl + 1) else (s, some cl)

/-- PARK_SIZE (log 19, DESIGN CHOICE). -/
def execParkSize (m : Mail) (first count size : Nat) (s : State) : Host.Outcome State Fault Refusal :=
  s.mail m 10 true (fun s =>
    if 16384 ≤ first ∨ count = 0 ∨ 16384 < first + count ∨ 16 < size then .no s 1 []
    else match s.parkFrom size count first with
      | (s', some cl) => .no s' 2 [BitVec.ofNat 64 cl]
      | (_, none) => .yes (fun s => ((s.parkFrom size count first).1, [])))

/-! ## Boot (19 R466 to R468) -/

/-- The firmware's load: one member of partition 0 with c1 the mailbox's address, READ and FLAGS over clusters, STOP over cores (log 39, DESIGN CHOICE). -/
def State.launchFirmware (s : State) (x : BootArgs) : State :=
  let cl := clusterOf x.core
  let k := s.cluster cl
  let n := cl * 2 ^ 18 + k.seq
  let s := s.setCluster cl { k with seq := (k.seq + 1) % 2 ^ 18 }
  let auth := (x.clusters.map (fun c => ownEntry 4 c (rREAD ||| rFLAGS)) ++ x.stops.map (fun c => ownEntry 2 c rSTOP)).take 32
  let data : Reg := ⟨x.data, true⟩
  let t : Thread := { Thread.blank with
    state := .ready, part := x.setup.part, load := n, pcc := ⟨x.code, true⟩, ctx := x.ctx, ctxHost := data.hostBit, faultrec := x.record
    regs := (List.range 32).map (fun i => if i = 1 then Reg.ofWord x.mailVa else if i = 27 then data else Reg.zero)
    auth := auth ++ List.replicate (32 - auth.length) 0, since := s.cycle }
  let s := s.passCore x.core x.setup.part
  match tfree (s.core x.core).threads 256 0 with
  | none => s
  | some slot =>
    let s := s.setCore x.core ((s.core x.core).seat slot t)
    let load : Load := { basket := 0, index := 0, cluster := cl, core0 := x.core, cores := 1, tpc := 1, prio := 0, mtx := false, ring := false
                         state := .live, heldAt := 0, members := [256 * x.core + slot], kept := [] }
    let s := s.setLoad n load
    { s with steward := { s.steward with firmLoad := some n, firmPage := x.mailAt } }

/-- MODULE_BOOT: the steward's image is verified, a fuse block burnt, then the firmware's image is verified and its load launched. -/
def execModuleBoot (x : BootArgs) (s : State) : Host.Outcome State Fault Refusal :=
  let st := s.steward
  if st.running then .next s
  else if s.imageOk x.stewardImg = false then .next s
  else
    let s : State := { s with steward := { st with
      running := true, stewardVer := Config.imageVersion x.stewardImg, attIndex := 1024 * st.attBlocks
      attBlocks := Nat.min 1024 (st.attBlocks + 1), moving := false, power := .aster } }
    if s.imageOk x.firmwareImg = false ∨ x.setup.part ≠ 0 ∨ s.setupOk x.setup = false then .next s
    else
      let s := s.setupPart x.setup
      let s := (x.words.foldl (fun s (a, w) => s.putEntry a w) s).setupQueues x.setup.part x.setup.queues
      let s : State := { s with steward := { s.steward with firmware := some (Config.imageVersion x.firmwareImg) } }
      .next (s.launchFirmware x)

/-! ## Power (19 R471) -/

/-- The module is idle. -/
def State.idle (s : State) : Bool :=
  s.loads.all (fun (n, l) => decide (some n = s.steward.firmLoad) || !(l.state == .live || l.state == .stopping)) &&
    s.allThreads.all (fun (_, t) => decide (some t.load ≠ s.steward.firmLoad) || (decide (t.state = .sleeping) && decide (t.wait ≠ .access) && decide (t.window = []) && decide (t.stores = [])))

/-- The module's tolerance: the least of all set-up partitions; none set up tolerates nothing (log 36, DESIGN CHOICE). -/
def State.tolerance (s : State) : Nat :=
  match s.parts with
  | [] => 0
  | (_, p) :: r => r.foldl (fun n (_, q) => Nat.min n q.tolerance) p.tolerance

/-- The deepest state that the conditions allow. -/
def State.deepest (s : State) : Power :=
  let quiet := s.clusters.all (fun (_, k) => decide (k.versions = []))
  if s.idle = false ∨ s.tolerance < 2 then .aster
  else if s.tolerance < 60 ∨ quiet = false then .iris
  else if s.tolerance < 2000 ∨ s.loads.any (fun (_, l) => l.state == .held) then .poppy
  else .lupin

def Power.code : Power → Nat
  | .aster => 0 | .iris => 1 | .poppy => 2 | .lupin => 3

/-- Entering Lupin: L2 data is written back first, caches are given up, the firmware's contexts are stowed into their blocks. -/
def State.enterLupin (s : State) : State :=
  let s := (s.dirty.map Prod.fst).foldl (fun s l => s.writeBack l) s
  let s : State := { s with clusters := s.clusters.map (fun (c, k) => (c, { k with data := [] })) }
  let s := s.filterL1 (fun _ _ => false)
  s.allThreads.foldl (fun s (tid, t) =>
    if some t.load = s.steward.firmLoad then
      match s.engWrite (t.agentParty tid) t.ctx (t.hotImage tid) t.ctxHost true true with
      | (s', .ok ()) =>
        let gone (p : Option Nat) : Option Nat := if p = some (slotOf tid) then none else p
        let k := s'.core (coreOf tid)
        s'.setCore (coreOf tid) { k with resident := k.resident.map gone, warm := k.warm.map gone
                                         threads := tput k.threads (slotOf tid) { t with tier := .stowed, line := none } }
      | (s', _) => s'
    else s) s

/-- POWER_STATE_ENTRY: first the transition begins, then the state is entered and reported (log 37, DESIGN CHOICE). -/
def execPowerStateEntry (s : State) : Host.Outcome State Fault Refusal :=
  let st := s.steward
  let p := s.deepest
  if p.code ≤ st.power.code then .next { s with steward := { st with moving := false } }
  else if st.moving = false then .next { s with steward := { st with moving := true } }
  else
    let s := if p = .lupin then s.enterLupin else s
    .next (({ s with steward := { s.steward with power := p, moving := false } } : State).eventRecord 0 6 p.code)

/-- POWER_WAKE: the module is back in Aster. -/
def execPowerWake (src : WakeSrc) (s : State) : Host.Outcome State Fault Refusal :=
  match src with
  | .launch | .host | .link | .thermal =>
    .next s.powerUp

/-- SOFT_ERROR_REPORT (19 R474): a die's count over the last 2^30 cycles, when nonzero: the count, with the die from bit 32. -/
def execSoftErrorReport (die count : Nat) (s : State) : Host.Outcome State Fault Refusal :=
  let st := s.steward
  if s.cycle < (tget st.softAt die).getD 0 + 2 ^ 30 ∨ count = 0 then .next s
  else .next (({ s with steward := { st with softAt := tput st.softAt die s.cycle } } : State).eventRecord 0 1 (count % 2 ^ 32 + die * 2 ^ 32))

/-! ## Quarantine (05 R165, 19 R474) -/

/-- CORE_QUARANTINE: with its event records for the PF and for every partition with a load there (log 85, DESIGN CHOICE). -/
def execCoreQuarantine (core : Nat) (s : State) : Host.Outcome State Fault Refusal :=
  if (s.core core).quarantined then .next s
  else
    let parts := (0 :: ((s.core core).threads.map (fun (_, t) => t.part) ++ (s.partOfCore core).toList)).eraseDups
    .next (parts.foldl (fun s p => s.eventRecord p 2 core) (s.quarantine core))

end Sys2Proof.Machine
end

