-- ==== Sys2Proof/Machine/Dispatch.lean ====
section
/-!
DEFINITION. Sys2Proof/Machine/Dispatch.lean: one arm per constructor of Instr, each a call of that instruction's meaning.
-/
namespace Sys2Proof.Machine

def exec (i : Instr) (s : State) : Host.Outcome State Fault Refusal :=
  match i with
  | .nop => Sys2Proof.Machine.execNop s
  | .yield => Sys2Proof.Machine.execYield s
  | .exit => Sys2Proof.Machine.execExit s
  | .trap imm => Sys2Proof.Machine.execTrap imm s
  | .kget d k => Sys2Proof.Machine.execKget d k s
  | .kputFpcsr a => Sys2Proof.Machine.execKputFpcsr a s
  | .kputFaultrec a => Sys2Proof.Machine.execKputFaultrec a s
  | .kputPrio a => Sys2Proof.Machine.execKputPrio a s
  | .kputWake a => Sys2Proof.Machine.execKputWake a s
  | .kputCarve a => Sys2Proof.Machine.execKputCarve a s
  | .add d w a b => Sys2Proof.Machine.execAdd d w a b s
  | .sub d w a b => Sys2Proof.Machine.execSub d w a b s
  | .and d w a b => Sys2Proof.Machine.execAnd d w a b s
  | .or d w a b => Sys2Proof.Machine.execOr d w a b s
  | .xor d w a b => Sys2Proof.Machine.execXor d w a b s
  | .sll d w a b => Sys2Proof.Machine.execSll d w a b s
  | .srl d w a b => Sys2Proof.Machine.execSrl d w a b s
  | .sra d w a b => Sys2Proof.Machine.execSra d w a b s
  | .slt d w a b => Sys2Proof.Machine.execSlt d w a b s
  | .sltu d w a b => Sys2Proof.Machine.execSltu d w a b s
  | .seq d w a b => Sys2Proof.Machine.execSeq d w a b s
  | .sne d w a b => Sys2Proof.Machine.execSne d w a b s
  | .min d w a b => Sys2Proof.Machine.execMin d w a b s
  | .max d w a b => Sys2Proof.Machine.execMax d w a b s
  | .minu d w a b => Sys2Proof.Machine.execMinu d w a b s
  | .maxu d w a b => Sys2Proof.Machine.execMaxu d w a b s
  | .mul d w a b => Sys2Proof.Machine.execMul d w a b s
  | .mulh d w a b => Sys2Proof.Machine.execMulh d w a b s
  | .mulhu d w a b => Sys2Proof.Machine.execMulhu d w a b s
  | .div d w a b => Sys2Proof.Machine.execDiv d w a b s
  | .divu d w a b => Sys2Proof.Machine.execDivu d w a b s
  | .rem d w a b => Sys2Proof.Machine.execRem d w a b s
  | .remu d w a b => Sys2Proof.Machine.execRemu d w a b s
  | .andn d w a b => Sys2Proof.Machine.execAndn d w a b s
  | .orn d w a b => Sys2Proof.Machine.execOrn d w a b s
  | .rol d w a b => Sys2Proof.Machine.execRol d w a b s
  | .ror d w a b => Sys2Proof.Machine.execRor d w a b s
  | .clz d w a => Sys2Proof.Machine.execClz d w a s
  | .ctz d w a => Sys2Proof.Machine.execCtz d w a s
  | .popc d w a => Sys2Proof.Machine.execPopc d w a s
  | .bswap d w a => Sys2Proof.Machine.execBswap d w a s
  | .pack d a b => Sys2Proof.Machine.execPack d a b s
  | .hi d a => Sys2Proof.Machine.execHi d a s
  | .sextb d w a => Sys2Proof.Machine.execSextb d w a s
  | .sexth d w a => Sys2Proof.Machine.execSexth d w a s
  | .addi d w a imm => Sys2Proof.Machine.execAddi d w a imm s
  | .andi d w a imm => Sys2Proof.Machine.execAndi d w a imm s
  | .ori d w a imm => Sys2Proof.Machine.execOri d w a imm s
  | .xori d w a imm => Sys2Proof.Machine.execXori d w a imm s
  | .slli d w a imm => Sys2Proof.Machine.execSlli d w a imm s
  | .srli d w a imm => Sys2Proof.Machine.execSrli d w a imm s
  | .srai d w a imm => Sys2Proof.Machine.execSrai d w a imm s
  | .slti d w a imm => Sys2Proof.Machine.execSlti d w a imm s
  | .sltui d w a imm => Sys2Proof.Machine.execSltui d w a imm s
  | .seqi d w a imm => Sys2Proof.Machine.execSeqi d w a imm s
  | .snei d w a imm => Sys2Proof.Machine.execSnei d w a imm s
  | .mini d w a imm => Sys2Proof.Machine.execMini d w a imm s
  | .maxi d w a imm => Sys2Proof.Machine.execMaxi d w a imm s
  | .minui d w a imm => Sys2Proof.Machine.execMinui d w a imm s
  | .maxui d w a imm => Sys2Proof.Machine.execMaxui d w a imm s
  | .muli d w a imm => Sys2Proof.Machine.execMuli d w a imm s
  | .roli d w a imm => Sys2Proof.Machine.execRoli d w a imm s
  | .rori d w a imm => Sys2Proof.Machine.execRori d w a imm s
  | .li d imm => Sys2Proof.Machine.execLi d imm s
  | .lih d imm => Sys2Proof.Machine.execLih d imm s
  | .beq a b t => Sys2Proof.Machine.execBeq a b t s
  | .bne a b t => Sys2Proof.Machine.execBne a b t s
  | .blt a b t => Sys2Proof.Machine.execBlt a b t s
  | .bge a b t => Sys2Proof.Machine.execBge a b t s
  | .bltu a b t => Sys2Proof.Machine.execBltu a b t s
  | .bgeu a b t => Sys2Proof.Machine.execBgeu a b t s
  | .btag a t => Sys2Proof.Machine.execBtag a t s
  | .bntag a t => Sys2Proof.Machine.execBntag a t s
  | .jmp t => Sys2Proof.Machine.execJmp t s
  | .call d t => Sys2Proof.Machine.execCall d t s
  | .jr a => Sys2Proof.Machine.execJr a s
  | .callr d a => Sys2Proof.Machine.execCallr d a s
  | .cgetaddr d a => Sys2Proof.Machine.execCgetaddr d a s
  | .cgetbase d a => Sys2Proof.Machine.execCgetbase d a s
  | .cgettop d a => Sys2Proof.Machine.execCgettop d a s
  | .cgetlen d a => Sys2Proof.Machine.execCgetlen d a s
  | .cgetperm d a => Sys2Proof.Machine.execCgetperm d a s
  | .cgettag d a => Sys2Proof.Machine.execCgettag d a s
  | .csetaddr d a b => Sys2Proof.Machine.execCsetaddr d a b s
  | .cinc d a b => Sys2Proof.Machine.execCinc d a b s
  | .csetbnd d a b => Sys2Proof.Machine.execCsetbnd d a b s
  | .csetbndx d a b => Sys2Proof.Machine.execCsetbndx d a b s
  | .candperm d a b => Sys2Proof.Machine.execCandperm d a b s
  | .cseal d a => Sys2Proof.Machine.execCseal d a s
  | .cunseal d a b => Sys2Proof.Machine.execCunseal d a b s
  | .cclrtag d a => Sys2Proof.Machine.execCclrtag d a s
  | .cmove d a => Sys2Proof.Machine.execCmove d a s
  | .ctestsub d a b => Sys2Proof.Machine.execCtestsub d a b s
  | .cinci d a imm => Sys2Proof.Machine.execCinci d a imm s
  | .csetbndi d a imm => Sys2Proof.Machine.execCsetbndi d a imm s
  | .candpermi d a imm => Sys2Proof.Machine.execCandpermi d a imm s
  | .fadd d t a b => Sys2Proof.Machine.execFadd d t a b s
  | .fsub d t a b => Sys2Proof.Machine.execFsub d t a b s
  | .fmul d t a b => Sys2Proof.Machine.execFmul d t a b s
  | .fdiv d t a b => Sys2Proof.Machine.execFdiv d t a b s
  | .fsqrt d t a => Sys2Proof.Machine.execFsqrt d t a s
  | .fmin d t a b => Sys2Proof.Machine.execFmin d t a b s
  | .fmax d t a b => Sys2Proof.Machine.execFmax d t a b s
  | .fsgnj d t a b => Sys2Proof.Machine.execFsgnj d t a b s
  | .fsgnjn d t a b => Sys2Proof.Machine.execFsgnjn d t a b s
  | .fsgnjx d t a b => Sys2Proof.Machine.execFsgnjx d t a b s
  | .feq d t a b => Sys2Proof.Machine.execFeq d t a b s
  | .flt d t a b => Sys2Proof.Machine.execFlt d t a b s
  | .fle d t a b => Sys2Proof.Machine.execFle d t a b s
  | .fclass d t a => Sys2Proof.Machine.execFclass d t a s
  | .fma d t a b c => Sys2Proof.Machine.execFma d t a b c s
  | .fms d t a b c => Sys2Proof.Machine.execFms d t a b c s
  | .fnma d t a b c => Sys2Proof.Machine.execFnma d t a b c s
  | .fnms d t a b c => Sys2Proof.Machine.execFnms d t a b c s
  | .fcvt d toF fr rnd a => Sys2Proof.Machine.execFcvt d toF fr rnd a s
  | .spawn a b c x => Sys2Proof.Machine.execSpawn a b c x s
  | .tstop a b c x => Sys2Proof.Machine.execTstop a b c x s
  | .tstopRetire a b c x => Sys2Proof.Machine.execTstopRetire a b c x s
  | .tstart a b c x => Sys2Proof.Machine.execTstart a b c x s
  | .tread a b c x => Sys2Proof.Machine.execTread a b c x s
  | .twrite a b c x => Sys2Proof.Machine.execTwrite a b c x s
  | .tstat a b c x => Sys2Proof.Machine.execTstat a b c x s
  | .tstatCluster a b c x => Sys2Proof.Machine.execTstatCluster a b c x s
  | .agrant a b c x => Sys2Proof.Machine.execAgrant a b c x s
  | .arevoke a b c x => Sys2Proof.Machine.execArevoke a b c x s
  | .sfreplay a b c x => Sys2Proof.Machine.execSfreplay a b c x s
  | .qpub a b c x => Sys2Proof.Machine.execQpub a b c x s
  | .ldB d a off z acq h => Sys2Proof.Machine.execLdB d a off z acq h s
  | .ldH d a off z acq h => Sys2Proof.Machine.execLdH d a off z acq h s
  | .ldW d a off z acq h => Sys2Proof.Machine.execLdW d a off z acq h s
  | .ldD d a off acq h => Sys2Proof.Machine.execLdD d a off acq h s
  | .ldQ d a off acq h => Sys2Proof.Machine.execLdQ d a off acq h s
  | .stB d a off rel h => Sys2Proof.Machine.execStB d a off rel h s
  | .stH d a off rel h => Sys2Proof.Machine.execStH d a off rel h s
  | .stW d a off rel h => Sys2Proof.Machine.execStW d a off rel h s
  | .stD d a off rel h => Sys2Proof.Machine.execStD d a off rel h s
  | .stQ d a off rel h => Sys2Proof.Machine.execStQ d a off rel h s
  | .amoAdd w d a b o => Sys2Proof.Machine.execAmoAdd w d a b o s
  | .amoAnd w d a b o => Sys2Proof.Machine.execAmoAnd w d a b o s
  | .amoOr w d a b o => Sys2Proof.Machine.execAmoOr w d a b o s
  | .amoXor w d a b o => Sys2Proof.Machine.execAmoXor w d a b o s
  | .amoSmin w d a b o => Sys2Proof.Machine.execAmoSmin w d a b o s
  | .amoSmax w d a b o => Sys2Proof.Machine.execAmoSmax w d a b o s
  | .amoUmin w d a b o => Sys2Proof.Machine.execAmoUmin w d a b o s
  | .amoUmax w d a b o => Sys2Proof.Machine.execAmoUmax w d a b o s
  | .amoSwap w d a b o => Sys2Proof.Machine.execAmoSwap w d a b o s
  | .amoFadd d a b o => Sys2Proof.Machine.execAmoFadd d a b o s
  | .cas w d a b o => Sys2Proof.Machine.execCas w d a b o s
  | .lres w d a sc acq => Sys2Proof.Machine.execLres w d a sc acq s
  | .scond w d a b sc rel => Sys2Proof.Machine.execScond w d a b sc rel s
  | .fence kinds sc => Sys2Proof.Machine.execFence kinds sc s
  | .fenceRs => Sys2Proof.Machine.execFenceRs s
  | .drain => Sys2Proof.Machine.execDrain s
  | .warm d a x_i => Sys2Proof.Machine.execWarm d a x_i s
  | .wdis x_i => Sys2Proof.Machine.execWdis x_i s
  | .sleep => Sys2Proof.Machine.execSleep s
  | .waitge a b sc => Sys2Proof.Machine.execWaitge a b sc s
  | .ccCln a b c x => Sys2Proof.Machine.execCcCln a b c x s
  | .ccFls a b c x => Sys2Proof.Machine.execCcFls a b c x s
  | .ccInv a b c x => Sys2Proof.Machine.execCcInv a b c x s
  | .ccPf h a b c x => Sys2Proof.Machine.execCcPf h a b c x s
  | .ccRsd h a b c x => Sys2Proof.Machine.execCcRsd h a b c x s
  | .dxNext a b c x => Sys2Proof.Machine.execDxNext a b c x s
  | .dxInvInvalidate a b c x => Sys2Proof.Machine.execDxInvInvalidate a b c x s
  | .dxInvWake a b c x => Sys2Proof.Machine.execDxInvWake a b c x s
  | .dxDone a b c x => Sys2Proof.Machine.execDxDone a b c x s
  | .xinv a b c x => Sys2Proof.Machine.execXinv a b c x s
  | .xprobe a b c x => Sys2Proof.Machine.execXprobe a b c x s
  | .pgdisc a b c x => Sys2Proof.Machine.execPgdisc a b c x s
  | .pgmig a b c x => Sys2Proof.Machine.execPgmig a b c x s
  | .cp1d h d a b c x => Sys2Proof.Machine.execCp1d h d a b c x s
  | .cp2d h d a b c x => Sys2Proof.Machine.execCp2d h d a b c x s
  | .cp3d h d a b c x => Sys2Proof.Machine.execCp3d h d a b c x s
  | .cpGat h d a b c x => Sys2Proof.Machine.execCpGat h d a b c x s
  | .cpFill h d a b c x => Sys2Proof.Machine.execCpFill h d a b c x s
  | .cpStat a c x => Sys2Proof.Machine.execCpStat a c x s
  | .cpResume b c x => Sys2Proof.Machine.execCpResume b c x s
  | .cpCancel b c x => Sys2Proof.Machine.execCpCancel b c x s
  | .snd d a c x => Sys2Proof.Machine.execSnd d a c x s
  | .rcvBind d a b c x => Sys2Proof.Machine.execRcvBind d a b c x s
  | .rcvBindUnbind d a b c x => Sys2Proof.Machine.execRcvBindUnbind d a b c x s
  | .vAdd f d a b c x => Sys2Proof.Machine.execVAdd f d a b c x s
  | .vSub f d a b c x => Sys2Proof.Machine.execVSub f d a b c x s
  | .vMul f d a b c x => Sys2Proof.Machine.execVMul f d a b c x s
  | .vDiv f d a b c x => Sys2Proof.Machine.execVDiv f d a b c x s
  | .vMin f d a b c x => Sys2Proof.Machine.execVMin f d a b c x s
  | .vMax f d a b c x => Sys2Proof.Machine.execVMax f d a b c x s
  | .vFma f d a b c x => Sys2Proof.Machine.execVFma f d a b c x s
  | .vAbs f d a b x => Sys2Proof.Machine.execVAbs f d a b x s
  | .vNeg f d a b x => Sys2Proof.Machine.execVNeg f d a b x s
  | .vSqrt f d a b x => Sys2Proof.Machine.execVSqrt f d a b x s
  | .vAnd f d a b c x => Sys2Proof.Machine.execVAnd f d a b c x s
  | .vOr f d a b c x => Sys2Proof.Machine.execVOr f d a b c x s
  | .vXor f d a b c x => Sys2Proof.Machine.execVXor f d a b c x s
  | .vShl f d a b c x => Sys2Proof.Machine.execVShl f d a b c x s
  | .vShr f d a b c x => Sys2Proof.Machine.execVShr f d a b c x s
  | .vCeq f d a b c x => Sys2Proof.Machine.execVCeq f d a b c x s
  | .vClt f d a b c x => Sys2Proof.Machine.execVClt f d a b c x s
  | .vCle f d a b c x => Sys2Proof.Machine.execVCle f d a b c x s
  | .vSel f d a b c x => Sys2Proof.Machine.execVSel f d a b c x s
  | .vCvt toF fr d a b x => Sys2Proof.Machine.execVCvt toF fr d a b x s
  | .vRsum f d a b x => Sys2Proof.Machine.execVRsum f d a b x s
  | .vRmax f d a b x => Sys2Proof.Machine.execVRmax f d a b x s
  | .vRmin f d a b x => Sys2Proof.Machine.execVRmin f d a b x s
  | .vBcast f d a b x => Sys2Proof.Machine.execVBcast f d a b x s
  | .vGat f d a b c x => Sys2Proof.Machine.execVGat f d a b c x s
  | .vSct f d a b c x => Sys2Proof.Machine.execVSct f d a b c x s
  | .vSync c x => Sys2Proof.Machine.execVSync c x s
  | .mmaBf16 acc ta tb d a b x => Sys2Proof.Machine.execMmaBf16 acc ta tb d a b x s
  | .mmaF16 acc ta tb d a b x => Sys2Proof.Machine.execMmaF16 acc ta tb d a b x s
  | .mmaK8 acc ta tb d a b x => Sys2Proof.Machine.execMmaK8 acc ta tb d a b x s
  | .mmaI8 acc ta tb d a b x => Sys2Proof.Machine.execMmaI8 acc ta tb d a b x s
  | .mmaK8Bs acc ta tb d a b c x => Sys2Proof.Machine.execMmaK8Bs acc ta tb d a b c x s
  | .mzero acc c x => Sys2Proof.Machine.execMzero acc c x s
  | .mld acc a c x => Sys2Proof.Machine.execMld acc a c x s
  | .mst acc a c x => Sys2Proof.Machine.execMst acc a c x s
  | .mrd acc d a x => Sys2Proof.Machine.execMrd acc d a x s
  | .mdrain f acc d a b c x => Sys2Proof.Machine.execMdrain f acc d a b c x s
  | .dtload d a c x => Sys2Proof.Machine.execDtload d a c x s
  | .mgCfg d a b c x => Sys2Proof.Machine.execMgCfg d a b c x s
  | .mgTbl d a c x => Sys2Proof.Machine.execMgTbl d a c x s
  | .mgInjU d a c x => Sys2Proof.Machine.execMgInjU d a c x s
  | .mgInjL d a c x => Sys2Proof.Machine.execMgInjL d a c x s
  | .mgGo c x => Sys2Proof.Machine.execMgGo c x s
  | .mgHalt c x => Sys2Proof.Machine.execMgHalt c x s
  | .mgStat a c x => Sys2Proof.Machine.execMgStat a c x s
  | .mgEj d a c x => Sys2Proof.Machine.execMgEj d a c x s
  | .hnew a b c x => Sys2Proof.Machine.execHnew a b c x s
  | .henter a x => Sys2Proof.Machine.execHenter a x s
  | .hleave x => Sys2Proof.Machine.execHleave x s
  | .hconfirm a c x => Sys2Proof.Machine.execHconfirm a c x s
  | .hconfirmX a c x => Sys2Proof.Machine.execHconfirmX a c x s
  | .hrefute a c x => Sys2Proof.Machine.execHrefute a c x s
  | .hstat a b c x => Sys2Proof.Machine.execHstat a b c x s
  | .barExp d c x => Sys2Proof.Machine.execBarExp d c x s
  | .barExpFree d c x => Sys2Proof.Machine.execBarExpFree d c x s
  | .barArr d c x => Sys2Proof.Machine.execBarArr d c x s
  | .redCfg d a b c x => Sys2Proof.Machine.execRedCfg d a b c x s
  | .redCfgFree d a b c x => Sys2Proof.Machine.execRedCfgFree d a b c x s
  | .redSend d a c x => Sys2Proof.Machine.execRedSend d a c x s
  | .redStat d a c x => Sys2Proof.Machine.execRedStat d a c x s
  | .moduleReset => Sys2Proof.Machine.execModuleReset s
  | .moduleBoot x => Sys2Proof.Machine.execModuleBoot x s
  | .linkTraining port up peers => Sys2Proof.Machine.execLinkTraining port up peers s
  | .loadReply req ext => Sys2Proof.Machine.execLoadReply req ext s
  | .storeAck req => Sys2Proof.Machine.execStoreAck req s
  | .storeFaultArrival req ext => Sys2Proof.Machine.execStoreFaultArrival req ext s
  | .faultRecordWrite tid => Sys2Proof.Machine.execFaultRecordWrite tid s
  | .cellWriteFailure x_i => Sys2Proof.Machine.execCellWriteFailure x_i s
  | .contextDisplace core pos => Sys2Proof.Machine.execContextDisplace core pos s
  | .exitComplete tid => Sys2Proof.Machine.execExitComplete tid s
  | .drainComplete tid => Sys2Proof.Machine.execDrainComplete tid s
  | .fenceRsComplete tid => Sys2Proof.Machine.execFenceRsComplete tid s
  | .watchArmReply tid ext => Sys2Proof.Machine.execWatchArmReply tid ext s
  | .wdisReply tid => Sys2Proof.Machine.execWdisReply tid s
  | .watchFire f => Sys2Proof.Machine.execWatchFire f s
  | .sleepWake tid => Sys2Proof.Machine.execSleepWake tid s
  | .waitgeRecheck tid ext => Sys2Proof.Machine.execWaitgeRecheck tid ext s
  | .lresHoldExpiry tid => Sys2Proof.Machine.execLresHoldExpiry tid s
  | .windowStoreApply w => Sys2Proof.Machine.execWindowStoreApply w s
  | .windowLoadServe w => Sys2Proof.Machine.execWindowLoadServe w s
  | .coreQuarantine core => Sys2Proof.Machine.execCoreQuarantine core s
  | .launchQueueWatch q => Sys2Proof.Machine.execLaunchQueueWatch q s
  | .deviceQueueMirrorRestore q => Sys2Proof.Machine.execDeviceQueueMirrorRestore q s
  | .packetAccept q => Sys2Proof.Machine.execPacketAccept q s
  | .basketWaitMet q => Sys2Proof.Machine.execBasketWaitMet q s
  | .admissionChoice die => Sys2Proof.Machine.execAdmissionChoice die s
  | .loadPreempt load => Sys2Proof.Machine.execLoadPreempt load s
  | .basketComplete basket => Sys2Proof.Machine.execBasketComplete basket s
  | .homeReadRequest req => Sys2Proof.Machine.execHomeReadRequest req s
  | .homeStoreRequest req => Sys2Proof.Machine.execHomeStoreRequest req s
  | .homeAtomic req => Sys2Proof.Machine.execHomeAtomic req s
  | .unitMerge cluster part base => Sys2Proof.Machine.execUnitMerge cluster part base s
  | .probeArrival x_i => Sys2Proof.Machine.execProbeArrival x_i s
  | .ticketRetire cluster ticket => Sys2Proof.Machine.execTicketRetire cluster ticket s
  | .requestRetry req => Sys2Proof.Machine.execRequestRetry req s
  | .faultQueueRecord part => Sys2Proof.Machine.execFaultQueueRecord part s
  | .pageResponseRead part => Sys2Proof.Machine.execPageResponseRead part s
  | .pageRequestAnswer part => Sys2Proof.Machine.execPageRequestAnswer part s
  | .pageRequestLimit cluster id => Sys2Proof.Machine.execPageRequestLimit cluster id s
  | .migrationHoldExpiry req => Sys2Proof.Machine.execMigrationHoldExpiry req s
  | .copyChunkDone core slot chunk => Sys2Proof.Machine.execCopyChunkDone core slot chunk s
  | .copyTransferEnd core slot => Sys2Proof.Machine.execCopyTransferEnd core slot s
  | .zeroingFill z => Sys2Proof.Machine.execZeroingFill z s
  | .messageDelivery m => Sys2Proof.Machine.execMessageDelivery m s
  | .messageRetry core x_i => Sys2Proof.Machine.execMessageRetry core x_i s
  | .vectorOpStart quad matrix => Sys2Proof.Machine.execVectorOpStart quad matrix s
  | .streamResume core => Sys2Proof.Machine.execStreamResume core s
  | .vectorOpComplete core x_i => Sys2Proof.Machine.execVectorOpComplete core x_i s
  | .mmaWaitCheck core => Sys2Proof.Machine.execMmaWaitCheck core s
  | .matrixOpComplete core x_i => Sys2Proof.Machine.execMatrixOpComplete core x_i s
  | .halfStep ring => Sys2Proof.Machine.execHalfStep ring s
  | .heldEncounterFire ring pos => Sys2Proof.Machine.execHeldEncounterFire ring pos s
  | .encounterHoldExpiry ring pos => Sys2Proof.Machine.execEncounterHoldExpiry ring pos s
  | .anyHomeAdd ring => Sys2Proof.Machine.execAnyHomeAdd ring s
  | .sessionComplete ring => Sys2Proof.Machine.execSessionComplete ring s
  | .versionLineGrant cluster part => Sys2Proof.Machine.execVersionLineGrant cluster part s
  | .versionHoldExpiry req => Sys2Proof.Machine.execVersionHoldExpiry req s
  | .barrierPhaseComplete cluster bar => Sys2Proof.Machine.execBarrierPhaseComplete cluster bar s
  | .roundEnd cluster tree => Sys2Proof.Machine.execRoundEnd cluster tree s
  | .roundTimeout cluster tree => Sys2Proof.Machine.execRoundTimeout cluster tree s
  | .atsTranslationCompletion part page res => Sys2Proof.Machine.execAtsTranslationCompletion part page res s
  | .atsCompletionTimeout part page => Sys2Proof.Machine.execAtsCompletionTimeout part page s
  | .priResponse part page res => Sys2Proof.Machine.execPriResponse part page res s
  | .priGroupTimeout part page => Sys2Proof.Machine.execPriGroupTimeout part page s
  | .atsInvalidateRequest part page pages => Sys2Proof.Machine.execAtsInvalidateRequest part page pages s
  | .pcieReadCompletion req res => Sys2Proof.Machine.execPcieReadCompletion req res s
  | .hostSnoop hpa write => Sys2Proof.Machine.execHostSnoop hpa write s
  | .cxlMemHostAccess part hpa n write => Sys2Proof.Machine.execCxlMemHostAccess part hpa n write s
  | .hostWarmRestart => Sys2Proof.Machine.execHostWarmRestart s
  | .functionLevelReset fn => Sys2Proof.Machine.execFunctionLevelReset fn s
  | .linkCountChange link up chip => Sys2Proof.Machine.execLinkCountChange link up chip s
  | .linkReplyTimeout req => Sys2Proof.Machine.execLinkReplyTimeout req s
  | .peerAccess p => Sys2Proof.Machine.execPeerAccess p s
  | .peerUnreachable chip => Sys2Proof.Machine.execPeerUnreachable chip s
  | .partitionSetup m p => Sys2Proof.Machine.execPartitionSetup m p s
  | .partitionTeardown m part => Sys2Proof.Machine.execPartitionTeardown m part s
  | .registerHostQueue m addr => Sys2Proof.Machine.execRegisterHostQueue m addr s
  | .latencyTolerance m us => Sys2Proof.Machine.execLatencyTolerance m us s
  | .attest m nonce addr => Sys2Proof.Machine.execAttest m nonce addr s
  | .readJournal m first => Sys2Proof.Machine.execReadJournal m first s
  | .resetCore m core pass => Sys2Proof.Machine.execResetCore m core pass s
  | .eventRing m base lslots => Sys2Proof.Machine.execEventRing m base lslots s
  | .loadImage m img raise => Sys2Proof.Machine.execLoadImage m img raise s
  | .parkSize m first count size => Sys2Proof.Machine.execParkSize m first count size s
  | .softErrorReport die count => Sys2Proof.Machine.execSoftErrorReport die count s
  | .powerStateEntry => Sys2Proof.Machine.execPowerStateEntry s
  | .powerWake src => Sys2Proof.Machine.execPowerWake src s
  | .registerWrite fn off v => Sys2Proof.Machine.execRegisterWrite fn off v s
  | .hostLinkUp => Sys2Proof.Machine.execHostLinkUp s
  | .msiXIntervalExpiry part => Sys2Proof.Machine.execMsiXIntervalExpiry part s
  | .linkLevelRetry req recovered => Sys2Proof.Machine.execLinkLevelRetry req recovered s

end Sys2Proof.Machine
end

