-- ==== Sys2Proof/Machine/Held.lean ====
section
/-!
DEFINITION. Sys2Proof/Machine/Held.lean: commands that their engines have taken and not carried out: an access is held, or an
earlier command of the same order is not complete (01 R31, 09 R271). Each goes on as soon as it can (log 24, DEDUCED).
-/
namespace Sys2Proof.Machine

/-- What a held command's instruction does, its thread as it issued. -/
def State.heldEff (h : HeldCmd) (s : State) : Eff :=
  match h.instr with
  | .ccCln a b c x => s.ccEff .cln .none a b c x h.thread
  | .ccFls a b c x => s.ccEff .fls .none a b c x h.thread
  | .ccInv a b c x => s.ccEff .inv .none a b c x h.thread
  | .ccPf hint a b c x => s.ccEff .pf hint a b c x h.thread
  | .ccRsd hint a b c x => s.ccEff .rsd hint a b c x h.thread
  | .cpStat a c x => s.cpStatEff a c x h.thread
  | .cpResume b c x => s.cpResumeEff b c x h.thread
  | .cpCancel b c x => s.cpCancelEff b c x h.thread
  | .barExp d c x => s.barExpEff d c x h.thread
  | .barExpFree d c x => s.barExpEff d c x h.thread
  | .barArr d c x => s.barArrEff d c x h.thread
  | .redCfg d a b c x => s.redCfgEff d a b c x h.thread
  | .redCfgFree d a b c x => s.redCfgEff d a b c x h.thread
  | .redSend d a c x => s.redSendEff d a c x h.thread
  | .redStat d a c x => s.redStatEff d a c x h.thread
  | .hnew a b _ _ => s.applyHnew h.cmd (h.thread.reg a) (h.thread.reg b)
  | .hstat a b c x => s.hstatEff a b c x h.thread
  | .hconfirm a c x => s.hconfirmEff a c x h.thread
  | .hconfirmX a c x => s.hconfirmXEff a c x h.thread
  | .hrefute a c x => s.hrefuteEff a c x h.thread
  | .qpub a b c x => s.qpubEff a b c x h.basket h.thread
  | .mgCfg d a b c x => s.mgCfgEff d a b c x h.thread
  | .mgTbl d a c x => s.mgTblEff d a c x h.thread
  | .mgInjU d a c x => s.mgInjEff false d a c x h.thread
  | .mgInjL d a c x => s.mgInjEff true d a c x h.thread
  | .mgGo c x => s.mgGoEff c x h.thread
  | .mgHalt c x => s.mgHaltEff c x h.thread
  | .mgStat a c x => s.mgStatEff a c x h.thread
  | .mgEj d a c x => s.mgEjEff d a c x h.thread
  | .xinv a b c x => s.xinvEff a b c x h.cmd.pos h.thread
  | .xprobe a b c x => s.xprobeEff a b c x h.thread
  | .pgdisc a b c x => s.pgdiscEff a b c x h.cmd.pos h.thread
  | .pgmig a b c x => s.pgmigEff a b c x h.cmd.pos h.thread
  | _ => .stall

/-- The command is the first of its order, and every cell of that order is written. -/
def State.heldFirst (s : State) (h : HeldCmd) : Bool :=
  !cellsWait s.cellQ h.cmd.lane &&
    (decide (h.cmd.lane = .open_) || decide (s.heldCmds.find? (fun g => decide (g.cmd.lane = h.cmd.lane)) = some h))

/-- The thread of an awaited command goes on when the command is done. -/
def State.heldDone (s : State) (h : HeldCmd) : State :=
  let s := s.unhold h
  match s.thread? h.cmd.tid with
  | some t => if h.awaited ∧ t.wait = .sync ∧ t.life = h.cmd.life then s.resume h.cmd.tid id else s
  | none => s

/-- One held command is tried: it ends with its status, with 0x02 where its hypothesis is refuted (15 R412), or stays. -/
def State.tryHeld (s : State) (h : HeldCmd) : State :=
  if s.heldDead h || !s.heldFirst h then s
  else if s.refuted h.cmd.part h.cmd.hid then s.refuteHeld h
  else match h.instr with
    | .vSync .. => s.trySync h
    | _ =>
      match State.heldEff h { s with cur := h.cmd.tid } with
      | .retire s' => ({ s' with cur := s.cur } : State).heldDone h
      | .pend s' cmd => { s' with cur := s.cur, heldCmds := s'.heldCmds.map (fun g => if g = h then { h with cmd := cmd } else g) }
      | _ => s

/-- Every held command is tried once, the oldest first. -/
def State.heldPump (s : State) : State := s.heldCmds.foldl (fun s h => if s.heldCmds.contains h then s.tryHeld h else s) s

end Sys2Proof.Machine
end

