-- ==== Sys2Proof/Machine/Settle.lean ====
section
/-!
DEFINITION. Sys2Proof/Machine/Settle.lean: what every step ends with: the agents' and keepers' own work that no event of the
opcode table names, done at once (log 40, DESIGN CHOICE).
-/
namespace Sys2Proof.Machine

/-- A request held at a slice: a page move, a page request, an ATS translation, version room (09 R271, 15 R411). -/
def Req.isHeld (r : Req) : Bool :=
  match r.phase with
  | .migrating _ | .paging _ | .ats _ | .version _ => true
  | _ => false

/-- The request of this number is held. -/
def State.reqHeld (s : State) (n : Nat) : Bool := match tget s.reqs n with | some r => r.isHeld | none => false

/-- The oldest unretired instruction of the thread, or its issue under 07 R195, waits on a held access (09 R273, 15 R411) (log 26, DEDUCED). -/
def State.waitsOnHeld (s : State) (t : Thread) : Bool :=
  match t.wait with
  | .none =>
    match t.window with
    | u :: _ => s.reqHeld u.req
    | [] => t.stores.any (fun x => decide (31 ≤ x.after) && s.reqHeld x.req)
  | .drain | .fenceRs | .exit => t.stores.any (fun x => s.reqHeld x.req)
  | .warm n _ _ | .waitge n false => s.reqHeld n
  | _ => false

/-- A thread falls asleep on a held access, and wakes when nothing it waits for is held any more (05 R137). -/
def State.sleepOrWake (s : State) (tid : Nat) (t : Thread) : State :=
  if t.fault.isSome then s
  else if t.state = .running ∧ s.waitsOnHeld t then s.modThread tid (fun u => { u with state := .sleeping })
  else if t.state = .sleeping ∧ s.waitsOnHeld t = false then
    match t.wait with
    | .sleep | .waitge _ true | .access => s
    | _ => s.modThread tid (fun u => u.wakeIfSleeping s.cycle)
  else s

/-- A stop has reached its end: nothing of the thread is on its way any more, and no command waits for it (05 R150). -/
def State.endAsk (s : State) (tid : Nat) (t : Thread) : State :=
  if t.ask ≠ .none ∧ t.stores = [] ∧ t.fault = none ∧ !s.agentQ.any (fun q => decide (q.target = tid ∧ q.phase = 1)) then
    s.modThread tid (fun u => { u with ask := .none })
  else s

/-- A hidden watch whose `waitge` is undone goes (04 R117, 07 R211). -/
def State.dropStaleHidden (s : State) (tid : Nat) (t : Thread) : State :=
  match t.wait with
  | .waitge _ _ => s
  | _ => if t.hidden.isSome then s.dropHidden tid else s

/-- The bindings of a thread that is faulted with 0x39 or 0x3A are released (11 R300). -/
def State.unbindFaulted (s : State) (tid : Nat) (t : Thread) : State :=
  if t.fault.any (fun f => f.cause = 0x39 ∨ f.cause = 0x3A) ∧ (s.core (coreOf tid)).ports.any (fun (_, p) => p.cmd.tid = tid) then
    s.unbindPorts tid
  else s

/-- What concerns one thread. -/
def State.settleThread (s : State) (tid : Nat) (t : Thread) : State :=
  (((s.unbindFaulted tid t).endAsk tid t).dropStaleHidden tid t).sleepOrWake tid t

/-- The contexts that could come into the resident tier, with their lives. -/
def Core.waiting (k : Core) : List (Nat × Nat) :=
  (k.threads.filter (fun (_, t) => t.mayEnter)).map (fun (i, t) => (i, t.life))

/-- The moments at which the agent decides moves (05 R138; a `yield` decides by itself): since `before` a resident position
fell vacant or was given, or a thread became ready outside the resident tier. -/
def Core.placeMoment (k before : Core) : Bool :=
  decide (k.resident ≠ before.resident) || (k.openPos.isSome && before.openPos.isNone) || k.waiting.any (fun w => !before.waiting.contains w)

/-- Every core's placement (05 R138), for cores where something may move. -/
def State.placeAll (s before : State) : State :=
  s.cores.foldl (fun s (c, k) => if k.pickReady.isSome && k.placeMoment (before.core c) then s.setCore c (k.place s.cycle) else s) s

/-- Waiting VMU operations enter the queues that have room (12 R315). -/
def State.fillQueues (s : State) : State :=
  s.cores.foldl (fun s (c, k) => if k.waitingVmu = [] then s else s.fillQueue c k.waitingVmu.length) s

/-- A darner that is faulted with 0x39 or 0x3A is bound no more (08 R238). -/
def State.unbindLost (s : State) : State :=
  s.clusters.foldl (fun s (_, k) =>
    match k.darner with
    | some tid =>
      (match (s.thread? tid).bind Thread.fault with
       | some f => if f.cause = 0x39 ∨ f.cause = 0x3A then s.noDarner tid else s
       | none => s)
    | none => s) s

/-- The agents apply the commands that have reached them (05 R148), held commands and held sends go on (log 24, DEDUCED; 16 R431),
held encounters and waiting operations enter queues that have room (14 R366, 12 R315), each darner's outstanding `dx.next` is
served (08 R240), resolved IDs that nothing pins are freed (15 R389), invalidations whose reads are answered complete (17 R442),
threads sleep and wake with what they wait on (09 R273), contexts are placed (05 R138), the copy engines start their chunks of
the cycle (10 R290), and the parts of context blocks that this step changed are written (05 R136). `before` is the state before
the step. -/
def State.settle (s before : State) : State :=
  let s := s.agentPump.heldPump.retryHolds.fireAllHeld.fillQueues.unbindLost
  let s := s.clusters.foldl (fun s (n, k) => if k.dxWait.isSome then s.dxServe n else s) s
  let s := s.sweepIds.finishInvs
  let s := s.allThreads.foldl (fun s (tid, t) => s.settleThread tid t) s
  ((s.placeAll before).startCopies 1).syncCold before

/-- A cycle passes (log 13, DESIGN CHOICE). -/
def State.tick (s : State) : State := { s with cycle := s.cycle + 1 }

end Sys2Proof.Machine
end

