-- ==== Sys2Proof/Machine/Turn.lean ====
section
/-!
DEFINITION. Sys2Proof/Machine/Turn.lean: whose turn a step is (MODEL, log 6, DESIGN CHOICE), an instruction or event carried out with
what every step ends with, and the placing of a line of code (log 7, DESIGN CHOICE).
-/
namespace Sys2Proof.Machine

/-! ## What a turn does -/

/-- What a step does with the state it found. -/
abbrev Act := State → Host.Outcome State Fault Refusal

/-- What every step ends with; `before` is the state as the step found it. -/
def ended (before : State) : Host.Outcome State Fault Refusal → Host.Outcome State Fault Refusal
  | .next s' => .next (s'.settle before).tick
  | .fault r => .fault r
  | .refused r => .refused r

/-- Core `c` issues: the context's line is entered, its instruction decoded and carried out. -/
def issues (c : Nat) : Act := fun s =>
  match s.prepare c with
  | (s', some i) => exec i s'
  | (s', none) => .next s'

/-- An event happens: no program instruction is one. -/
def happens (i : Instr) : Act := fun s => if (encode i).isNone then exec i s else .fault .badTurn

/-! ## The module's own turns -/

/-- The module's own events that can be due: those of requests, threads, cells, firings and probes. -/
def State.accessEvents (s : State) : List Act :=
  s.reqs.flatMap (fun (n, _) => [execHomeReadRequest n, execHomeStoreRequest n, execHomeAtomic n, execWindowStoreApply (.mine n),
      execWindowLoadServe (.mine n), execLoadReply n .served, execStoreAck n, execStoreFaultArrival n .served, execRequestRetry n,
      execMigrationHoldExpiry n, execVersionHoldExpiry n, execLinkReplyTimeout n])
    ++ (List.range s.probes.length).map execProbeArrival
    ++ (List.range s.firings.length).map (fun i => execWatchFire (.mine i))
    ++ (List.range s.cellQ.length).map execCellWriteFailure
    ++ s.allThreads.flatMap (fun (n, _) => [execWatchArmReply n .served, execWdisReply n, execWaitgeRecheck n .served, execSleepWake n,
      execLresHoldExpiry n, execDrainComplete n, execFenceRsComplete n, execExitComplete n, execFaultRecordWrite n])

/-- Those of cores: contexts, copies, messages, the VMU; and the issue of an instruction. -/
def State.coreEvents (s : State) : List Act :=
  s.cores.flatMap (fun (c, k) =>
    [issues c] ++ (List.range 4).map (execContextDisplace c)
      ++ k.slots.flatMap (fun (n, v) => (List.range (v.started - v.first)).map (fun i => execCopyChunkDone c n (v.first + i)) ++ [execCopyTransferEnd c n])
      ++ (List.range k.sends.length).flatMap (fun i => [execMessageDelivery (.slot c i), execMessageRetry c i])
      ++ [execMmaWaitCheck c, execVectorOpStart (c / 4) false, execVectorOpStart (c / 4) true, execStreamResume c]
      ++ (List.range k.started.length).flatMap (fun i => [execVectorOpComplete c i, execMatrixOpComplete c i]))

/-- Those of clusters, rings and dies: held accesses of engines and fetches, tickets, page requests, version room, combining, the mangle, dispatch. -/
def State.moduleEvents (s : State) : List Act :=
  s.clusters.flatMap (fun (c, k) =>
      k.engHolds.flatMap (fun h => [execRequestRetry h.id, execMigrationHoldExpiry h.id])
        ++ k.pageReqs.map (fun r => execPageRequestLimit c r.id) ++ s.parts.map (fun (p, _) => execVersionLineGrant c p)
        ++ k.tickets.map (fun x => execTicketRetire c x.id)
        ++ k.bars.map (fun (n, _) => execBarrierPhaseComplete c n)
        ++ k.trees.flatMap (fun (n, _) => [execRoundEnd c n, execRoundTimeout c n]))
    ++ s.rings.flatMap (fun (g, r) => r.encounters.flatMap (fun e => [execHeldEncounterFire g e.pos, execEncounterHoldExpiry g e.pos])
        ++ [execHalfStep g, execAnyHomeAdd g, execSessionComplete g])
    ++ s.queues.flatMap (fun (q, _) => [execLaunchQueueWatch q, execDeviceQueueMirrorRestore q, execPacketAccept q, execBasketWaitMet q])
    ++ s.dies.map (fun (d, _) => execAdmissionChoice d)
    ++ s.loads.map (fun (l, _) => execLoadPreempt l)
    ++ s.baskets.map (fun (b, _) => execBasketComplete b)
    ++ s.parts.flatMap (fun (p, _) => [execPageResponseRead p, execPageRequestAnswer p, execFaultQueueRecord p, execMsiXIntervalExpiry p])
    ++ s.bridge.ats.map (fun a => if a.pri then execPriGroupTimeout a.part a.page else execAtsCompletionTimeout a.part a.page)

/-- The act would change something. -/
def State.due (s : State) (f : Act) : Bool :=
  match f s with
  | .next s' => decide (({ s' with free := s.free } : State) ≠ s)
  | _ => false

/-- What happens when the agenda is empty: of the module's own events and the cores, in a round that begins at a place which
moves with the cycle, the first that is due; else nothing. Events from outside the module come only by the agenda. -/
def State.own (s : State) : Act :=
  let all := s.accessEvents ++ s.coreEvents ++ s.moduleEvents
  ((all.rotateLeft (s.cycle % (all.length + 1))).find? s.due).getD .next

/-! ## The agenda -/

/-- The state with its turn taken off the agenda. -/
def State.begun (s : State) : State := { s with agenda := s.agenda.drop 1 }

/-- A turn in which only cycles pass; the copy engines start the chunks of those cycles (10 R290). -/
def State.passed (s : State) (n : Nat) : State := { s.startCopies n with cycle := s.cycle + n }

/-! ## Placing a line to run (MODEL: stands for a launch) -/

/-- Where the placed line stands: its virtual and physical address. -/
def placedAt : Nat := 0x10000

/-- Five levels of page tables from LPDDR address 0x1000 on that map the placed page to itself with rd and wr, key 1. -/
def placedTables : List (Nat × Nat) :=
  [(0x1000, 0x2001), (0x2000, 0x3001), (0x3000, 0x4001), (0x4000, 0x5001), (0x5080, 0x0100000000010027)]

/-- A partition whose home window is cluster 0 and whose level-4 table stands at 0x1000. -/
def placedPart : Partition :=
  { record := [0x1000, 0, 0, 0, 0, 0, 0, 0], pasid := 0, domTag := 0, hdm := none, budgets := [], memBudgets := []
    verLines := 4096, hostFaults := 0, tolerance := 0, mint := rootCap, nodes := [], gens := [], fqIndex := 0, fqRead := 0
    respRead := 0, respIndex := 0, lastMsi := none, msiPending := false, priFailed := false, pages := [] }

/-- The state with a line of code placed, a thread running at its instruction 1 in position 0 of core 0, and its turn. -/
def State.placeLine (s : State) (line : List Byte) : State :=
  let m := placedTables.foldl (fun m (a, e) => memPutAll m a (leBytes 8 e)) s.mem
  let t := { Thread.blank with
    state := .running, tier := .resident, pcc := rootCap.withCursor (BitVec.ofNat 64 (placedAt + 2))
    ctx := BitVec.ofNat 64 (placedAt + 0x800), faultrec := BitVec.ofNat 64 (placedAt + 0x400) }
  let k := { Core.reset with threads := [(0, t)], resident := [some 0, none, none, none] }
  { s with mem := memPutAll m placedAt line, parts := tput s.parts 0 placedPart
           steward := { s.steward with keys := tput s.steward.keys 1 (0, 0) }
           cores := tput s.cores 0 k, agenda := [.core 0] }

end Sys2Proof.Machine
end

