-- ==== Sys2Proof/Machine/Step.lean ====
section
/-!
DEFINITION. Sys2Proof/Machine/Step.lean: one step of the module: its turn is taken, the instruction or event is carried
out, and a cycle passes.
-/
namespace Sys2Proof.Machine

/-- One step: the turn at the head of the agenda, or the module's own. -/
def step (s : State) : Host.Outcome State Fault Refusal :=
  match s.agenda with
  | .core c :: _ => ended s (issues c s.begun)
  | .event i :: _ => ended s (happens i s.begun)
  | .pass n :: _ => .next (s.begun.passed n)
  | .spoil a n :: _ => .next (s.begun.spoiled a n)
  | [] => ended s (s.own s)

/-- The state in which the next step fetches and runs the instruction of an opcode-table word: partition 0 with page
tables in LPDDR and key slot 1, one page of code, and one running thread of load 0 resident on core 0. It stands for a
launch (log 7, DESIGN CHOICE). -/
def State.withFetchWord (s : State) (nbits w : Nat) : State := s.placeLine (lineOfWord (splitTableWord nbits w).1 (splitTableWord nbits w).2)

end Sys2Proof.Machine
end

