-- ==== Sys2Proof/Safety.lean ====
section
/-!
DEFINITION. Sys2Proof/Safety.lean: what holds of every state the module can be in, and what an instruction leaves as it
was, in the terms statements use.
-/
namespace Sys2Proof.Machine

/-! ## States -/

/-- Numbers strictly rising. -/
def rising : List Nat → Bool
  | [] => true
  | [_] => true
  | a :: b :: r => decide (a < b) && rising (b :: r)

/-- Memory, its tags and the modified lines stand in their one form: addresses strictly rising, no listed byte that reads as
an unlisted one does, every tagged quad and every modified line listed once, a line with its 64 bytes and 4 tags. -/
structure State.Canonical (s : State) : Prop where
  mem : Memory.wf s.mem = true
  tags : rising s.tags = true
  lines : rising (s.dirty.map Prod.fst) = true
  shape : ∀ x ∈ s.dirty, x.2.bytes.length = 64 ∧ x.2.tags.length = 4

/-- No line stands in a cache unmodified with bytes that memory has left behind (09 R265): such a line reads as memory once it
is dropped. -/
abbrev State.NoStale (s : State) : Prop := ∀ x ∈ s.dirty, x.2.clean = false

/-- The `n` bytes at a window address, as an engine of core `core` names it, stand in this module's TCMs or scratchpads at the flat
addresses `fs`: outside the warm contexts, sound, and with no thread's hold on them (01 R18, R22; 05 R163; 07 R202). -/
structure State.Here (s : State) (core : Nat) (a : Word) (n : Nat) (fs : List Nat) : Prop where
  form : canonical a = true
  apart : touchesAgent a n = false
  flat : s.localFlat (placeOf s.bridge.chip core a) n = .ok fs
  plain : s.warmAt (placeOf s.bridge.chip core a) = none
  sound : s.poisonedAt fs = false
  free : s.heldByOther none (fun r => fs.any (fun x => resvOnFlat x 1 r)) = false

/-- The bytes at some flat addresses. -/
def State.bytesOf (s : State) (fs : List Nat) : List Byte := fs.map s.byteAt

/-- The state with bytes written at a window address that is here. -/
def State.put (s : State) (core : Nat) (a : Word) (fs : List Nat) (bs : List Byte) : State :=
  s.writeLocal (placeOf s.bridge.chip core a) fs bs false

/-- The command's completion cell stands in local memory, where its writes are made at once (01 R35, R37). -/
def State.CellHere (s : State) (c : Cmd) : Prop :=
  ∃ r fs, c.cell = some r ∧ s.Here c.core r.addr 16 fs ∧ r.addr.toNat % 16 = 0 ∧ (c.hid = 0 ∨ r.unv = true)

/-- An access of the partition to a virtual address finds its translation in the cache of leaves of the address's home slice: a
page of device memory, open to such accesses and marked dirty already if this one writes, with no budget in its way (08 R255; 09
R265, R268). -/
structure State.Mapped (s : State) (part va : Nat) (kind : TKind) (host : Bool) (p : Partition) (t : TlbEntry) : Prop where
  setUp : tget s.parts part = some p
  leaf : (s.cluster (p.homeOf va)).tlb.find? (fun t => t.covers part va) = some t
  forHost : hostDenied t.pte kind host = false
  allowed : leafDenied t.pte kind = none
  device : pteTgt t.pte = 0
  dirty : kind.writes = true → t.dty = true
  budget : ∀ cls, (p.budgets.getD cls 0).toNat % 2 ^ 32 = 0 ∧ (p.memBudgets.getD cls 0).toNat % 2 ^ 32 = 0

/-- Where such an access finds its bytes. -/
def Partition.found (p : Partition) (t : TlbEntry) (part va : Nat) : Loc := ⟨part, va, p.homeOf va, leafTarget t.pte t.lg va, cacheable t.pte⟩

/-- Thread `t` is the one that issues, and instruction `i` may issue now (04 R115, R116; 07 R195). -/
abbrev State.Issues (s : State) (t : Thread) (i : Instr) : Prop := s.runner = some t ∧ t.mayIssue i = true

/-! ## What is left as it was -/

/-- Everything but the issuing thread is as it was: every byte and tag of memory, every other thread, and the rest of the
state. The arbiters of cores move with every issue (04 R115), and flags held back until the instructions before had retired
are shown in the cluster's union (03 R93). -/
structure State.Keeps (s s' : State) : Prop where
  bytes : ∀ a, s'.byteAt a = s.byteAt a
  tags : ∀ a, s'.tagAt a = s.tagAt a
  threads : ∀ n, n ≠ s.cur → s'.thread? n = s.thread? n
  cores : ∀ c, ({ s'.core c with threads := (s.core c).threads, lastPos := (s.core c).lastPos } : Core) = s.core c
  clusters : ∀ c, ({ s'.cluster c with flags := (s.cluster c).flags } : Cluster) = s.cluster c
  rest : ({ s' with cores := s.cores, clusters := s.clusters } : State) = s

/-- The thread has retired one instruction with the registers `regs`, the `k.fpcsr` value `fp`: it stands at the following
one, and of its other fields only those that count issues have moved. -/
structure Thread.Retired (t t' : Thread) (regs : RegNo → Reg) (fp : Word) : Prop where
  pcc : t'.pcc = t.pcc.withCursor t.following
  regs : ∀ r, t'.reg r = regs r
  fpcsr : t'.fpcsr = fp
  stores : t'.stores.map StoreOut.req = t.stores.map StoreOut.req
  rest : ({ t' with regs := t.regs, pcc := t.pcc, fpcsr := t.fpcsr, stores := t.stores, order := t.order,
                    lastIssue := t.lastIssue, unionPend := t.unionPend } : Thread) = t

/-- The registers after a write of `v` to `d`: c0 keeps reading as zero (04 R100). -/
def Thread.with (t : Thread) (d : RegNo) (v : Reg) (r : RegNo) : Reg :=
  if r = 0 then Reg.zero else if r = d then v else t.reg r

/-- The issuing thread has retired an instruction that writes `v` to register `d` and `fp` to `k.fpcsr`, and nothing else has
changed. -/
def State.Wrote (s s' : State) (t : Thread) (d : RegNo) (v : Reg) (fp : Word) : Prop :=
  s.Keeps s' ∧ ∃ t', s'.thread? s.cur = some t' ∧ t.Retired t' (t.with d v) fp

end Sys2Proof.Machine
end

