-- ==== Sys2Proof/Certificates/Slice0/Obligations.lean ====
section
/-!
DEFINITION. Sys2Proof/Certificates/Slice0/Obligations.lean: the statements, with the readings of the spec's tables they are
written in (namespace Spec: plain number arithmetic, apart from the functions the machine uses).
-/

namespace Sys2Proof.Spec

/-! ## Integer arithmetic, in numbers (04 R118) -/

/-- The signed value of an `n`-bit number. -/
def sx (n x : Nat) : Int := if 2 * x < 2 ^ n then x else (x : Int) - 2 ^ n

/-- An integer as an `n`-bit number. -/
def wrap (n : Nat) (v : Int) : Nat := (v % 2 ^ n).toNat

def ofBool (b : Bool) : Nat := if b then 1 else 0

def add (n x y : Nat) : Nat := (x + y) % 2 ^ n
def sub (n x y : Nat) : Nat := wrap n ((x : Int) - y)
def and (_ x y : Nat) : Nat := x &&& y
def or (_ x y : Nat) : Nat := x ||| y
def xor (_ x y : Nat) : Nat := x ^^^ y
def andn (n x y : Nat) : Nat := x &&& (2 ^ n - 1 - y)
def orn (n x y : Nat) : Nat := x ||| (2 ^ n - 1 - y)
def sll (n x y : Nat) : Nat := x * 2 ^ (y % n) % 2 ^ n
def srl (n x y : Nat) : Nat := x / 2 ^ (y % n)
def sra (n x y : Nat) : Nat := wrap n (sx n x / 2 ^ (y % n))
def rol (n x y : Nat) : Nat := x * 2 ^ (y % n) % 2 ^ n + x / 2 ^ (n - y % n)
def ror (n x y : Nat) : Nat := x / 2 ^ (y % n) + x * 2 ^ (n - y % n) % 2 ^ n
def slt (n x y : Nat) : Nat := ofBool (decide (sx n x < sx n y))
def sltu (_ x y : Nat) : Nat := ofBool (decide (x < y))
def seq (_ x y : Nat) : Nat := ofBool (decide (x = y))
def sne (_ x y : Nat) : Nat := ofBool (decide (x ≠ y))
def min (n x y : Nat) : Nat := if sx n x ≤ sx n y then x else y
def max (n x y : Nat) : Nat := if sx n x ≤ sx n y then y else x
def minu (_ x y : Nat) : Nat := if x ≤ y then x else y
def maxu (_ x y : Nat) : Nat := if x ≤ y then y else x
def mul (n x y : Nat) : Nat := x * y % 2 ^ n
def mulh (n x y : Nat) : Nat := wrap n (sx n x * sx n y / 2 ^ n)
def mulhu (n x y : Nat) : Nat := x * y / 2 ^ n
def div (n x y : Nat) : Nat := if y = 0 then 2 ^ n - 1 else wrap n ((sx n x).tdiv (sx n y))
def divu (n x y : Nat) : Nat := if y = 0 then 2 ^ n - 1 else x / y
def rem (n x y : Nat) : Nat := if y = 0 then x else wrap n ((sx n x).tmod (sx n y))
def remu (_ x y : Nat) : Nat := if y = 0 then x else x % y
def clz (n x _ : Nat) : Nat := if x = 0 then n else n - 1 - Nat.log2 x
def ctz (n x _ : Nat) : Nat := ((List.range n).find? (fun i => x.testBit i)).getD n
def popc (n x _ : Nat) : Nat := ((List.range n).filter (fun i => x.testBit i)).length
def bswap (n x _ : Nat) : Nat := ((List.range (n / 8)).map (fun i => x / 256 ^ i % 256 * 256 ^ (n / 8 - 1 - i))).sum
def sextb (n x _ : Nat) : Nat := wrap n (sx 8 (x % 256))
def sexth (n x _ : Nat) : Nat := wrap n (sx 16 (x % 65536))

/-- The result of a function at a width: on the low 64 or 32 bits of its operands, extended to 64 bits. -/
def alu (w : Width) (f : Nat → Nat → Nat → Nat) (a b : Word) : Sys2Proof.Machine.Reg :=
  Sys2Proof.Machine.Reg.ofWord (match w with
    | .d => BitVec.ofNat 64 (f 64 a.toNat b.toNat)
    | .w => BitVec.ofInt 64 (sx 32 (f 32 (a.toNat % 2 ^ 32) (b.toNat % 2 ^ 32)))
    | .wz => BitVec.ofNat 64 (f 32 (a.toNat % 2 ^ 32) (b.toNat % 2 ^ 32)))

open Sys2Proof.Machine in
/-- What an integer instruction writes, with the register it writes it to (04 R118, R119). -/
def intResult (i : Instr) (t : Thread) : Option (RegNo × Reg) :=
  let lo (r : RegNo) : Word := (t.reg r).lo
  match i with
  | .add d w a b => some (d, alu w add (lo a) (lo b))
  | .sub d w a b => some (d, alu w sub (lo a) (lo b))
  | .and d w a b => some (d, alu w and (lo a) (lo b))
  | .or d w a b => some (d, alu w or (lo a) (lo b))
  | .xor d w a b => some (d, alu w xor (lo a) (lo b))
  | .sll d w a b => some (d, alu w sll (lo a) (lo b))
  | .srl d w a b => some (d, alu w srl (lo a) (lo b))
  | .sra d w a b => some (d, alu w sra (lo a) (lo b))
  | .slt d w a b => some (d, alu w slt (lo a) (lo b))
  | .sltu d w a b => some (d, alu w sltu (lo a) (lo b))
  | .seq d w a b => some (d, alu w seq (lo a) (lo b))
  | .sne d w a b => some (d, alu w sne (lo a) (lo b))
  | .min d w a b => some (d, alu w min (lo a) (lo b))
  | .max d w a b => some (d, alu w max (lo a) (lo b))
  | .minu d w a b => some (d, alu w minu (lo a) (lo b))
  | .maxu d w a b => some (d, alu w maxu (lo a) (lo b))
  | .mul d w a b => some (d, alu w mul (lo a) (lo b))
  | .mulh d w a b => some (d, alu w mulh (lo a) (lo b))
  | .mulhu d w a b => some (d, alu w mulhu (lo a) (lo b))
  | .div d w a b => some (d, alu w div (lo a) (lo b))
  | .divu d w a b => some (d, alu w divu (lo a) (lo b))
  | .rem d w a b => some (d, alu w rem (lo a) (lo b))
  | .remu d w a b => some (d, alu w remu (lo a) (lo b))
  | .andn d w a b => some (d, alu w andn (lo a) (lo b))
  | .orn d w a b => some (d, alu w orn (lo a) (lo b))
  | .rol d w a b => some (d, alu w rol (lo a) (lo b))
  | .ror d w a b => some (d, alu w ror (lo a) (lo b))
  | .clz d w a => some (d, alu w clz (lo a) 0)
  | .ctz d w a => some (d, alu w ctz (lo a) 0)
  | .popc d w a => some (d, alu w popc (lo a) 0)
  | .bswap d w a => some (d, alu w bswap (lo a) 0)
  | .sextb d w a => some (d, alu w sextb (lo a) 0)
  | .sexth d w a => some (d, alu w sexth (lo a) 0)
  | .addi d w a imm => some (d, alu w add (lo a) (imm.signExtend 64))
  | .andi d w a imm => some (d, alu w and (lo a) (imm.signExtend 64))
  | .ori d w a imm => some (d, alu w or (lo a) (imm.signExtend 64))
  | .xori d w a imm => some (d, alu w xor (lo a) (imm.signExtend 64))
  | .slli d w a imm => some (d, alu w sll (lo a) (imm.signExtend 64))
  | .srli d w a imm => some (d, alu w srl (lo a) (imm.signExtend 64))
  | .srai d w a imm => some (d, alu w sra (lo a) (imm.signExtend 64))
  | .slti d w a imm => some (d, alu w slt (lo a) (imm.signExtend 64))
  | .sltui d w a imm => some (d, alu w sltu (lo a) (imm.signExtend 64))
  | .seqi d w a imm => some (d, alu w seq (lo a) (imm.signExtend 64))
  | .snei d w a imm => some (d, alu w sne (lo a) (imm.signExtend 64))
  | .mini d w a imm => some (d, alu w min (lo a) (imm.signExtend 64))
  | .maxi d w a imm => some (d, alu w max (lo a) (imm.signExtend 64))
  | .minui d w a imm => some (d, alu w minu (lo a) (imm.signExtend 64))
  | .maxui d w a imm => some (d, alu w maxu (lo a) (imm.signExtend 64))
  | .muli d w a imm => some (d, alu w mul (lo a) (imm.signExtend 64))
  | .roli d w a imm => some (d, alu w rol (lo a) (imm.signExtend 64))
  | .rori d w a imm => some (d, alu w ror (lo a) (imm.signExtend 64))
  | .pack d a b => some (d, ⟨(lo b) ++ (lo a), false⟩)
  | .hi d a => some (d, Reg.ofWord (t.reg a).hi)
  | .li d imm => some (d, Reg.ofWord (imm.signExtend 64))
  | .lih d imm => some (d, Reg.ofWord (imm ++ (lo d).extractLsb' 0 54))
  | _ => none

/-! ## Capabilities (04 R104 to R108, R122 to R124) -/

open Sys2Proof.Machine in
/-- The capability may have its cursor or permissions changed: it is not both tagged and sealed (04 R122). -/
def changeable (c : Reg) : Prop := c.tag = true → c.sealed_ = false

open Sys2Proof.Machine in
/-- The number `v`, or, where no number from 0 to 2^65 − 1 is stated for an untagged operand, the value left open (log 8, DESIGN CHOICE). -/
def capNumber (which : Nat) (c : Reg) (v : Int) (r : Reg) : Prop :=
  if 0 ≤ v ∧ v < 2 ^ 65 then r = ⟨BitVec.ofInt 128 v, false⟩ else r = ⟨Config.boundOf which c.bits, false⟩

open Sys2Proof.Machine in
/-- `set_bounds` gives no fault: the source is tagged and unsealed, and both the request and the rounded bounds lie within its
bounds; an exact request needs no rounding (04 R123). -/
def boundable (c : Reg) (len : Nat) (exact : Bool) : Prop :=
  let lo : Int := c.cursor.toNat
  let hi : Int := lo + len
  let e := expFor lo hi 42 0
  c.tag = true ∧ c.sealed_ = false ∧ (boundsOf c).1 ≤ lo ∧ hi ≤ (boundsOf c).2
    ∧ (exact = true → roundDown lo e = lo ∧ roundUp hi e = hi)
    ∧ (boundsOf c).1 ≤ roundDown lo e ∧ roundUp hi e ≤ (boundsOf c).2

open Sys2Proof.Machine in
/-- The narrowed capability: its exponent and both mantissas are new, its tag set, its permissions and cursor kept. -/
def bounded (c : Reg) (len : Nat) : Reg :=
  let lo : Int := c.cursor.toNat
  let hi : Int := lo + len
  let e := expFor lo hi 42 0
  ⟨c.perm ++ BitVec.ofNat 6 e ++ BitVec.ofInt 22 (roundDown lo e / 2 ^ e) ++ BitVec.ofInt 22 (roundUp hi e / 2 ^ e) ++ c.cursor, true⟩

open Sys2Proof.Machine in
/-- The cursor replaced: the tag stays only where the bounds stay (04 R108). -/
def moved (c : Reg) (a : Word) : Reg :=
  let d : Reg := ⟨c.hi ++ a, c.tag⟩
  ⟨c.hi ++ a, c.tag && decide (boundsOf d = boundsOf c)⟩

open Sys2Proof.Machine in
/-- What a capability instruction needs not to fault, and what it then writes where (04 R122 to R124). -/
def capResult (i : Instr) (t : Thread) (d : RegNo) (v : Reg) : Prop :=
  match i with
  | .cgetaddr d' a => d' = d ∧ v = Reg.ofWord (t.reg a).lo
  | .cgetbase d' a => d' = d ∧ capNumber 0 (t.reg a) (boundsOf (t.reg a)).1 v
  | .cgettop d' a => d' = d ∧ capNumber 1 (t.reg a) (boundsOf (t.reg a)).2 v
  | .cgetlen d' a => d' = d ∧ capNumber 2 (t.reg a) ((boundsOf (t.reg a)).2 - (boundsOf (t.reg a)).1) v
  | .cgetperm d' a => d' = d ∧ v = ⟨((t.reg a).bits.extractLsb' 114 14).setWidth 128, false⟩
  | .cgettag d' a => d' = d ∧ v = ⟨if (t.reg a).tag then 1 else 0, false⟩
  | .csetaddr d' a b => d' = d ∧ changeable (t.reg a) ∧ v = moved (t.reg a) (t.reg b).lo
  | .cinc d' a b => d' = d ∧ changeable (t.reg a) ∧ v = moved (t.reg a) ((t.reg a).lo + (t.reg b).lo)
  | .cinci d' a imm => d' = d ∧ changeable (t.reg a) ∧ v = moved (t.reg a) ((t.reg a).lo + imm.signExtend 64)
  | .csetbnd d' a b => d' = d ∧ boundable (t.reg a) (t.reg b).lo.toNat false ∧ v = bounded (t.reg a) (t.reg b).lo.toNat
  | .csetbndi d' a imm => d' = d ∧ boundable (t.reg a) imm.toNat false ∧ v = bounded (t.reg a) imm.toNat
  | .csetbndx d' a b => d' = d ∧ boundable (t.reg a) (t.reg b).lo.toNat true ∧ v = bounded (t.reg a) (t.reg b).lo.toNat
  | .candperm d' a b => d' = d ∧ changeable (t.reg a) ∧
      v = ⟨((t.reg a).perm &&& (t.reg b).bits.extractLsb' 0 14) ++ (t.reg a).bits.extractLsb' 0 114, (t.reg a).tag⟩
  | .candpermi d' a imm => d' = d ∧ changeable (t.reg a) ∧ v = ⟨((t.reg a).perm &&& imm) ++ (t.reg a).bits.extractLsb' 0 114, (t.reg a).tag⟩
  | .cseal d' a => d' = d ∧ (t.reg a).tag = true ∧ (t.reg a).sealed_ = false ∧ (boundsOf (t.reg a)).1 / 2 ^ 57 ≠ 0x3F ∧
      v = ⟨(t.reg a).bits ||| 1#128 <<< 127, true⟩
  | .cunseal d' a b => d' = d ∧ (t.reg a).tag = true ∧ (t.reg a).sealed_ = true ∧ (t.reg a).lo.toNat / 2 ^ 57 ≠ 0x3F ∧
      (t.reg b).tag = true ∧ (t.reg b).sealed_ = false ∧ (t.reg a).perm &&& ~~~permSEALED &&& ~~~(t.reg b).perm = 0 ∧
      (boundsOf (t.reg b)).1 ≤ (boundsOf (t.reg a)).1 ∧ (boundsOf (t.reg a)).2 ≤ (boundsOf (t.reg b)).2 ∧
      v = ⟨(t.reg a).bits &&& ~~~(1#128 <<< 127), true⟩
  | .cclrtag d' a => d' = d ∧ v = ⟨(t.reg a).bits, false⟩
  | .cmove d' a => d' = d ∧ v = t.reg a
  | .ctestsub d' a b => d' = d ∧ v = ⟨if (t.reg a).tag = (t.reg b).tag ∧ (boundsOf (t.reg a)).1 ≤ (boundsOf (t.reg b)).1 ∧
      (boundsOf (t.reg b)).2 ≤ (boundsOf (t.reg a)).2 ∧ (t.reg b).perm &&& ~~~(t.reg a).perm = 0 then 1 else 0, false⟩
  | _ => False

open Sys2Proof.Machine in
/-- The cause with which a capability instruction faults, by the first check that fails (04 R122 to R124). -/
def capFault (i : Instr) (t : Thread) : Option Byte :=
  let change (a : RegNo) : Option Byte := if (t.reg a).tag ∧ (t.reg a).sealed_ then some 0x06 else none
  let bound (a : RegNo) (len : Nat) (exact : Bool) : Option Byte :=
    let c := t.reg a
    let lo : Int := c.cursor.toNat
    let hi : Int := lo + len
    let e := expFor lo hi 42 0
    if c.tag = false then some 0x05
    else if c.sealed_ then some 0x06
    else if lo < (boundsOf c).1 ∨ (boundsOf c).2 < hi then some 0x07
    else if exact ∧ (roundDown lo e ≠ lo ∨ roundUp hi e ≠ hi) then some 0x07
    else if roundDown lo e < (boundsOf c).1 ∨ (boundsOf c).2 < roundUp hi e then some 0x07
    else none
  match i with
  | .csetaddr _ a _ | .cinc _ a _ | .cinci _ a _ | .candperm _ a _ | .candpermi _ a _ => change a
  | .csetbnd _ a b => bound a (t.reg b).lo.toNat false
  | .csetbndi _ a imm => bound a imm.toNat false
  | .csetbndx _ a b => bound a (t.reg b).lo.toNat true
  | .cseal _ a =>
    if (t.reg a).tag = false then some 0x05
    else if (t.reg a).sealed_ then some 0x06
    else if (boundsOf (t.reg a)).1 / 2 ^ 57 = 0x3F then some 0x08
    else none
  | .cunseal _ a b =>
    if (t.reg a).tag = false then some 0x05
    else if (t.reg a).sealed_ = false then some 0x06
    else if (t.reg a).lo.toNat / 2 ^ 57 = 0x3F then some 0x08
    else if (t.reg b).tag = false then some 0x05
    else if (t.reg b).sealed_ then some 0x06
    else if (t.reg a).perm &&& ~~~permSEALED &&& ~~~(t.reg b).perm ≠ 0 then some 0x08
    else if (boundsOf (t.reg a)).1 < (boundsOf (t.reg b)).1 ∨ (boundsOf (t.reg b)).2 < (boundsOf (t.reg a)).2 then some 0x07
    else none
  | _ => none

end Sys2Proof.Spec

open Sys2Proof Sys2Proof.Machine

/-- Every integer instruction, when its thread may issue it, retires with the table's result in its destination, and changes
nothing else: no flag, no fault (04 R118, R119). -/
def Obligations.IntegerResult : Prop :=
  ∀ (i : Instr) (s : State) (t : Thread) (d : RegNo) (v : Reg), i.wellFormed = true → s.Issues t i →
    Spec.intResult i t = some (d, v) → ∃ s', exec i s = .next s' ∧ s.Wrote s' t d v t.fpcsr

/-- Every capability instruction whose checks pass retires with the result of the rules in its destination, and changes
nothing else (04 R122 to R124). Where the spec states no value for a bound of an untagged operand the value is the open one of
log 8, DESIGN CHOICE. -/
def Obligations.CapabilityResult : Prop :=
  ∀ (i : Instr) (s : State) (t : Thread) (d : RegNo) (v : Reg), s.Issues t i → Spec.capResult i t d v →
    ∃ s', exec i s = .next s' ∧ s.Wrote s' t d v t.fpcsr

/-- Where a precise fault leaves its thread (04 R117; 05 R161): a fault with this cause, head, address and cycle is pending
at the boundary before the instruction, nothing is in flight, no reservation and no line is held, and registers and pcc are as
they were. -/
structure Sys2Proof.Machine.Thread.Faulting (t t' : Thread) (x : Trap) (cycle : Nat) : Prop where
  fault : t'.fault = some ⟨x.cause, x.addr, x.kind, x.size, t.headAt, t.pcc.lo, cycle, .faulted⟩
  regs : t'.regs = t.regs
  pcc : t'.pcc = t.pcc
  fpcsr : t'.fpcsr = t.fpcsr
  idle : t'.window = [] ∧ t'.wait = .none ∧ t'.resv = none ∧ t'.line = none
  stores : t'.stores = t.stores

/-- A capability instruction whose checks fail takes the fault of the first check that fails, charged to itself: the cause is
pending, every register keeps its value, and all of memory is as it was (04 R117, R122 to R124). -/
def Sys2Proof.Rules.CapabilityFaults : Prop :=
  ∀ (i : Instr) (s : State) (t : Thread) (c : Byte), s.Issues t i → t.window = [] → Spec.capFault i t = some c →
    ∃ s' t', exec i s = .next s' ∧ s'.thread? s.cur = some t' ∧ t.Faulting t' ⟨c, 0, .none, 7⟩ s.cycle ∧
      (∀ a, s'.byteAt a = s.byteAt a) ∧ (∀ n, n ≠ s.cur → s'.thread? n = s.thread? n)

/-- `trap imm` faults precisely with cause 0x3F and its own immediate as the faulting address (04 R131, R117). -/
def Sys2Proof.Rules.TrapFaults : Prop :=
  ∀ (imm : BitVec 16) (s : State) (t : Thread), s.Issues t (.trap imm) →
    ∃ s' t', exec (.trap imm) s = .next s' ∧ s'.thread? s.cur = some t' ∧
      t.Faulting t' ⟨0x3F, imm.setWidth 64, .none, 7⟩ s.cycle ∧
      (∀ a, s'.byteAt a = s.byteAt a) ∧ (∀ n, n ≠ s.cur → s'.thread? n = s.thread? n)

namespace Sys2Proof.Spec
open Sys2Proof.Machine

/-! ## Scalar floating point (04 R125 to R127; 03 R86 to R96) -/

/-- What a floating-point instruction comes to: the register it writes, the bits and flags, and whether it takes a draw. -/
structure FpOut where
  dest : RegNo
  value : Reg
  flags : FlagSet
  draws : Bool

/-- The rounding mode the thread's `k.fpcsr` selects, bits [10:8] (03 R86). -/
def modeOf (w : Word) : RMode := RMode.ofCode (w.extractLsb' 8 3).toNat

/-- The draw of the thread in slot `slot` (03 R94 to R96): its counter is the draws field, bits [63:16]. -/
def drawFor (t : Thread) (slot : Nat) : Nat := drawOf t.seed t.lcore (srCounter slot (t.fpcsr.toNat / 2 ^ 16))

/-- The `k.fpcsr` after an instruction: flags are sticky, and a draw adds one to the field above bit 16 (03 R92, R96). -/
def statusAfter (old : Word) (f : FlagSet) (draw : Bool) : Word := (old ||| f.setWidth 64) + if draw then 0x10000 else 0

/-- The low bits of a register that a format names (04 R125). -/
def fpBits (f : FFmt) (r : Reg) : Nat := r.lo.toNat % 2 ^ (match f with | .f64 => 64 | .f32 => 32 | .bf16 => 16 | .f16 => 16)

/-- Sign of an operand's bits, and the bits with a sign given. -/
def fpNeg (f : FFmt) (x : Nat) : Bool := x.testBit (match f with | .f64 => 63 | .f32 => 31 | .bf16 => 15 | .f16 => 15)
def withSign (f : FFmt) (x : Nat) (neg : Bool) : Nat :=
  let top := 2 ^ (match f with | .f64 => 63 | .f32 => 31 | .bf16 => 15 | .f16 => 15)
  x % top + if neg then top else 0

/-- What a scalar floating-point instruction comes to, for the thread in slot `slot` (04 R125 to R127). -/
def fpResult (i : Instr) (t : Thread) (slot : Nat) : Option FpOut :=
  let m := modeOf t.fpcsr
  let u := drawFor t slot
  let val (f : FFmt) (r : RegNo) : FVal := fpRead (FFmt.layout f) (fpBits f (t.reg r))
  let rounded (d : RegNo) (r : FRes) : Option FpOut := some ⟨d, Reg.ofNat r.bits, r.flags, m == .sr⟩
  let plain (d : RegNo) (r : FRes) : Option FpOut := some ⟨d, Reg.ofNat r.bits, r.flags, false⟩
  let truth (d : RegNo) (r : Bool × FlagSet) : Option FpOut := plain d ⟨if r.1 then 1 else 0, r.2⟩
  match i with
  | .fadd d f a b => rounded d (fpAdd (FFmt.layout f) m u (val f a) (val f b))
  | .fsub d f a b => rounded d (fpAdd (FFmt.layout f) m u (val f a) (val f b).neg)
  | .fmul d f a b => rounded d (fpMul (FFmt.layout f) m u (val f a) (val f b))
  | .fdiv d f a b => rounded d (fpDiv (FFmt.layout f) m u (val f a) (val f b))
  | .fsqrt d f a => rounded d (fpSqrt (FFmt.layout f) m u (val f a))
  | .fmin d f a b => plain d (fpMinMax (FFmt.layout f) false (fpBits f (t.reg a)) (fpBits f (t.reg b)))
  | .fmax d f a b => plain d (fpMinMax (FFmt.layout f) true (fpBits f (t.reg a)) (fpBits f (t.reg b)))
  | .fsgnj d f a b => plain d ⟨withSign f (fpBits f (t.reg a)) (fpNeg f (fpBits f (t.reg b))), 0⟩
  | .fsgnjn d f a b => plain d ⟨withSign f (fpBits f (t.reg a)) (!fpNeg f (fpBits f (t.reg b))), 0⟩
  | .fsgnjx d f a b => plain d ⟨withSign f (fpBits f (t.reg a)) (fpNeg f (fpBits f (t.reg a)) != fpNeg f (fpBits f (t.reg b))), 0⟩
  | .feq d f a b => truth d (fpEq (val f a) (val f b))
  | .flt d f a b => truth d (fpLt (val f a) (val f b))
  | .fle d f a b => truth d (fpLe (val f a) (val f b))
  | .fclass d f a => plain d ⟨fpClass (FFmt.layout f) (fpBits f (t.reg a)), 0⟩
  | .fma d f a b c => rounded d (fpFma (FFmt.layout f) m u (val f a) (val f b) (val f c))
  | .fms d f a b c => rounded d (fpFma (FFmt.layout f) m u (val f a) (val f b) (val f c).neg)
  | .fnma d f a b c => rounded d (fpFma (FFmt.layout f) m u (val f a).neg (val f b) (val f c))
  | .fnms d f a b c => rounded d (fpFma (FFmt.layout f) m u (val f a).neg (val f b) (val f c).neg)
  | .fcvt d toF fr rnd a =>
    let m := match rnd with
      | .thread => m | .rne => .rne | .rna => .rna | .rtz => .rtz | .rup => .rup | .rdn => .rdn | .sr => .sr
    let r := fmtConvert presetE4M3 toF fr m u ((t.reg a).lo.toNat % 2 ^ Fmt.bits fr)
    some ⟨d, if toF = .i32 then Reg.ofWord ((BitVec.ofNat 32 r.bits).signExtend 64) else Reg.ofNat r.bits, r.flags, m == .sr⟩
  | _ => none

end Sys2Proof.Spec

/-- Every scalar floating-point instruction retires with the rounded result in its destination, its flags added to the sticky
flags of `k.fpcsr` and one draw taken where it rounds stochastically; nothing else changes (04 R125 to R127, 03 R92, R96). -/
def Obligations.FloatResult : Prop :=
  ∀ (i : Instr) (s : State) (t : Thread) (o : Spec.FpOut), s.Issues t i → Spec.fpResult i t (s.cur % 256) = some o →
    ∃ s', exec i s = .next s' ∧ s.Wrote s' t o.dest o.value (Spec.statusAfter t.fpcsr o.flags o.draws)

namespace Sys2Proof.Spec
open Sys2Proof.Machine

/-! ## Control registers (04 R111 to R114) -/

/-- The value a control register reads as, from the fields of R112. -/
def controlValue (s : State) (t : Thread) (k : KReg) : Word :=
  match k with
  | .tid => BitVec.ofNat 64 (s.cur % 2 ^ 28)
  | .lcore => t.lcore.setWidth 64
  | .seed => t.seed
  | .hyp => BitVec.ofNat 64 (t.depth % 2 ^ 4 * 2 ^ 12 + t.hid % 2 ^ 12)
  | .fpcsr => t.fpcsr
  | .faultrec => t.faultrec
  | .ctx => t.ctx
  | .auth => t.authGen ++ BitVec.ofNat 32 ((t.auth.filter (fun e => decide (e.extractLsb' 8 4 ≠ 0))).length)
  | .prio => BitVec.ofNat 64 (t.ceil * 2 ^ 8 + t.cls)
  | .wake => BitVec.ofNat 64 ((if t.pend then 2 ^ 8 else 0) + t.fired.toNat)
  | .carve => (s.core (coreOf s.cur)).carve
  | .cycle => BitVec.ofNat 64 s.cycle

end Sys2Proof.Spec

/-- `kget` writes the control register's value at issue, zero-extended and untagged, and changes nothing else (04 R113). -/
def Sys2Proof.Rules.ControlRead : Prop :=
  ∀ (d : RegNo) (k : KReg) (s : State) (t : Thread), s.Issues t (.kget d k) →
    ∃ s', exec (.kget d k) s = .next s' ∧ s.Wrote s' t d (Reg.ofWord (Spec.controlValue s t k)) t.fpcsr

/-- The issuing thread has retired an instruction that changes it to `u` and leaves every register, and nothing else has
changed. -/
def Sys2Proof.Machine.State.Became (s s' : State) (t u : Thread) : Prop :=
  s.Keeps s' ∧ ∃ t', s'.thread? s.cur = some t' ∧ u.Retired t' t.reg u.fpcsr

/-- `kput` of `k.fpcsr`, `k.faultrec`, `k.prio` and `k.wake`: where its checks pass it writes the fields that can be written and
nothing else (04 R113): rm, draws and flags; the line of the capability's cursor; a class not above the ceiling; the fired bits
named are cleared. -/
def Sys2Proof.Rules.ControlWrite : Prop :=
  ∀ (a : RegNo) (s : State) (t : Thread),
    (s.Issues t (.kputFpcsr a) → ((t.reg a).lo.extractLsb' 8 3).toNat < 6 →
      ∃ s', exec (.kputFpcsr a) s = .next s' ∧ s.Became s' t { t with fpcsr := (t.reg a).lo &&& 0xFFFFFFFFFFFF071F }) ∧
    (s.Issues t (.kputFaultrec a) → (t.reg a).tag = true → (t.reg a).sealed_ = false → (t.reg a).has permST = true →
      (boundsOf (t.reg a)).1 ≤ (t.reg a).lo.toNat → ((t.reg a).lo.toNat + 64 : Int) ≤ (boundsOf (t.reg a)).2 → (t.reg a).lo.toNat % 64 = 0 →
      ∃ s', exec (.kputFaultrec a) s = .next s' ∧ s.Became s' t { t with faultrec := (t.reg a).lo }) ∧
    (s.Issues t (.kputPrio a) → (t.reg a).lo.toNat % 4 ≤ t.ceil →
      ∃ s', exec (.kputPrio a) s = .next s' ∧ s.Became s' t { t with cls := (t.reg a).lo.toNat % 4 }) ∧
    (s.Issues t (.kputWake a) →
      ∃ s', exec (.kputWake a) s = .next s' ∧ s.Became s' t { t with fired := t.fired &&& ~~~((t.reg a).lo.extractLsb' 0 8) })

/-- `kput` faults precisely and leaves the register as it was: a reserved rounding mode with 0x02, a class above the ceiling with
0x28, a fault-record line that is not 64-byte aligned with 0x09 (04 R113). -/
def Sys2Proof.Rules.ControlWriteFaults : Prop :=
  ∀ (a : RegNo) (s : State) (t : Thread),
    (s.Issues t (.kputFpcsr a) → 6 ≤ ((t.reg a).lo.extractLsb' 8 3).toNat →
      ∃ s' t', exec (.kputFpcsr a) s = .next s' ∧ s'.thread? s.cur = some t' ∧ t.Faulting t' ⟨0x02, 0, .none, 7⟩ s.cycle) ∧
    (s.Issues t (.kputPrio a) → t.ceil < (t.reg a).lo.toNat % 4 →
      ∃ s' t', exec (.kputPrio a) s = .next s' ∧ s'.thread? s.cur = some t' ∧ t.Faulting t' ⟨0x28, 0, .none, 7⟩ s.cycle ∧ t'.cls = t.cls) ∧
    (s.Issues t (.kputFaultrec a) → (t.reg a).tag = true → (t.reg a).sealed_ = false → (t.reg a).has permST = true →
      (boundsOf (t.reg a)).1 ≤ (t.reg a).lo.toNat → ((t.reg a).lo.toNat + 64 : Int) ≤ (boundsOf (t.reg a)).2 → (t.reg a).lo.toNat % 64 ≠ 0 →
      ∃ s' t', exec (.kputFaultrec a) s = .next s' ∧ s'.thread? s.cur = some t' ∧
        t.Faulting t' ⟨0x09, (t.reg a).lo, .none, 7⟩ s.cycle ∧ t'.faultrec = t.faultrec)

/-- What retiring does, whatever the instruction did before to reach `s1`: its thread stands at the following instruction with
the registers, flags and fields `s1` gave it, and memory, the other threads and everything else are as in `s1` (04 R116). -/
def Obligations.Retirement : Prop :=
  ∀ (i : Instr) (s s1 : State) (t t1 : Thread), s1.cur = s.cur → s1.thread? s.cur = some t1 →
    s1.Keeps (s.finish i t (.retire s1)) ∧
      ∃ t', (s.finish i t (.retire s1)).thread? s.cur = some t' ∧ t1.Retired t' t1.reg t1.fpcsr

/-- Instructions that have nothing to wait for retire and change nothing but their thread's place: `nop`, whose head is 0x0000, always, a `fence`
without earlier unsettled stores or that orders only loads, `fence.rs` with no window store unacknowledged, `drain` with no store
unsettled, `wdis` of a slot that is not armed (04 R128; 07 R198, R204, R205, R209). -/
def Sys2Proof.Rules.NothingToWaitFor : Prop :=
  (encode .nop = some ⟨0x00, 0, 0, .none⟩ ∧ (encode .nop).map Fields.head = some 0x0000) ∧
  ∀ (s : State) (t : Thread),
    (s.Issues t .nop → ∃ s', exec .nop s = .next s' ∧ s.Became s' t t) ∧
    (∀ kinds sc, s.Issues t (.fence kinds sc) → (t.stores = [] ∨ (kinds.getLsbD 2 = false ∧ kinds.getLsbD 3 = false)) →
      ∃ s', exec (.fence kinds sc) s = .next s' ∧ s.Became s' t t) ∧
    (s.Issues t .fenceRs → (s.core (coreOf s.cur)).unack = 0 → ∃ s', exec .fenceRs s = .next s' ∧ s.Became s' t t) ∧
    (s.Issues t .drain → t.stores = [] → ∃ s', exec .drain s = .next s' ∧ s.Became s' t t) ∧
    (∀ i : BitVec 3, s.Issues t (.wdis i) → (t.watch.getD i.toNat ⟨false, 0, 0⟩).armed = false →
      ∃ s', exec (.wdis i) s = .next s' ∧ s.Became s' t t)

/-- The issuing thread has issued an instruction that waits, with the wait `w`: it stays at it, its registers and memory as they
were. -/
def Sys2Proof.Machine.State.WaitsAs (s s' : State) (t : Thread) (w : Wait) : Prop :=
  s.Keeps s' ∧ ∃ t', s'.thread? s.cur = some t' ∧ t'.wait = w ∧ t'.pcc = t.pcc ∧ t'.regs = t.regs ∧ t'.fpcsr = t.fpcsr ∧
    t'.line = t.line ∧ t'.watch = t.watch ∧ t'.hid = t.hid

/-- `exit` waits; `drain` and `fence.rs` wait while stores are outstanding; `wdis` of an armed slot waits for its holder; `sleep`
without a pending wake puts its thread to sleep, and its reservation is lost; `sleep` with one takes it and retires (04 R130;
07 R198, R205, R209, R210, R201). -/
def Sys2Proof.Rules.WaitingInstructions : Prop :=
  ∀ (s : State) (t : Thread),
    (s.Issues t .exit → ∃ s', exec .exit s = .next s' ∧ s.WaitsAs s' t .exit) ∧
    (s.Issues t .drain → t.stores ≠ [] → ∃ s', exec .drain s = .next s' ∧ s.WaitsAs s' t .drain) ∧
    (s.Issues t .fenceRs → (s.core (coreOf s.cur)).unack ≠ 0 → ∃ s', exec .fenceRs s = .next s' ∧ s.WaitsAs s' t .fenceRs) ∧
    (∀ i : BitVec 3, s.Issues t (.wdis i) → (t.watch.getD i.toNat ⟨false, 0, 0⟩).armed = true →
      ∃ s', exec (.wdis i) s = .next s' ∧ ({ s with nextReq := s.nextReq + 1 } : State).WaitsAs s' t (.wdis i.toNat s.nextReq)) ∧
    (s.Issues t .sleep → t.pend = false → ∃ s' t', exec .sleep s = .next s' ∧ s.WaitsAs s' t .sleep ∧
      s'.thread? s.cur = some t' ∧ t'.state = .sleeping ∧ t'.resv = none) ∧
    (s.Issues t .sleep → t.pend = true → ∃ s', exec .sleep s = .next s' ∧ s.Became s' t { t with pend := false })

/-- What such an instruction waits for has come: it retires (EXIT_COMPLETE apart). `drain` when every store is acknowledged,
`fence.rs` when the core's count is zero, `sleep` when pend is set, which it takes (07 R198, R205, R210). A waiting thread that was
moved out of the resident tier while it slept becomes ready again (05 R137). -/
def Sys2Proof.Rules.WaitsEnd : Prop :=
  ∀ (s : State) (n : Nat) (t : Thread), s.thread? n = some t → t.fault = none →
    (t.wait = .drain → t.stores = [] → ∃ s' t', exec (.drainComplete n) s = .next s' ∧ s'.thread? n = some t' ∧
      t'.wait = .none ∧ t'.pcc = t.pcc.withCursor t.following ∧ t'.regs = t.regs ∧ ∀ a, s'.byteAt a = s.byteAt a) ∧
    (t.wait = .fenceRs → (s.core (coreOf n)).unack = 0 → ∃ s' t', exec (.fenceRsComplete n) s = .next s' ∧ s'.thread? n = some t' ∧
      t'.wait = .none ∧ t'.pcc = t.pcc.withCursor t.following ∧ t'.regs = t.regs ∧ ∀ a, s'.byteAt a = s.byteAt a) ∧
    (t.wait = .sleep → t.pend = true → t.held = false → ∃ s' t', exec (.sleepWake n) s = .next s' ∧ s'.thread? n = some t' ∧
      t'.wait = .none ∧ t'.pend = false ∧ t'.pcc = t.pcc.withCursor t.following ∧ t'.regs = t.regs ∧ t'.state ≠ .sleeping ∧
      ∀ a, s'.byteAt a = s.byteAt a)

/-- `yield` retires with no effect on architected state: the thread is no candidate in the next cycle, and leaves its place
only where a ready context of its class or above waits for one (04 R129, 05 R138). -/
def Sys2Proof.Rules.YieldStandsAside : Prop :=
  ∀ (s : State) (t : Thread), s.Issues t .yield →
    ∃ s' t', exec .yield s = .next s' ∧ s'.thread? s.cur = some t' ∧ t'.pcc = t.pcc.withCursor t.following ∧
      t'.regs = t.regs ∧ t'.fpcsr = t.fpcsr ∧
      ({ s' with cycle := s.cycle + 1 } : State).candidate t' = false ∧
      (t'.leaving = true → t.leaving = false → ∃ r, (s.core (coreOf s.cur)).pickReady = some r ∧ t.cls ≤ r.2.cls) ∧
      (∀ a, s'.byteAt a = s.byteAt a) ∧ (∀ n, n ≠ s.cur → s'.thread? n = s.thread? n)

/-- `kput k.carve` with a legal division, the REWRITE right over the core and room for the parked contexts retires with the new
carve-out, applied to the core as one event (08 R251). -/
def Sys2Proof.Rules.CarveWrite : Prop :=
  ∀ (a : RegNo) (s : State) (t : Thread) (v : Word), s.Issues t (.kputCarve a) → v = (t.reg a).lo → v.toNat < 2 ^ 17 →
    v.toNat % 16 + v.toNat / 16 % 16 + v.toNat / 256 % 16 = 12 → v.toNat % 16 ≠ 0 → v.toNat / 256 % 16 ≠ 0 →
    v.toNat / 4096 % 16 ≤ 12 → v.toNat / 4096 % 16 ≤ 8 * (v.toNat % 16) →
    t.mayOverCore s.bridge.chip (coreOf s.cur) rREWRITE = true →
    ((s.core (coreOf s.cur)).warm.filter Option.isSome).length ≤ s.parkFree (clusterOf (coreOf s.cur)) →
    exec (.kputCarve a) s = .next (s.finish (.kputCarve a) t (.retire (s.carve (coreOf s.cur) v))) ∧
      ((s.carve (coreOf s.cur) v).core (coreOf s.cur)).carve = v

namespace Sys2Proof.Spec
open Sys2Proof.Machine

/-- The condition of a conditional branch with its target field (04 R120). -/
def branchOf (i : Instr) (t : Thread) : Option (Bool × BitVec 17) :=
  let lo (r : RegNo) : Word := (t.reg r).lo
  match i with
  | .beq a b f => some (decide (lo a = lo b), f)
  | .bne a b f => some (decide (lo a ≠ lo b), f)
  | .blt a b f => some (decide ((lo a).toInt < (lo b).toInt), f)
  | .bge a b f => some (decide ((lo b).toInt ≤ (lo a).toInt), f)
  | .bltu a b f => some (decide ((lo a).toNat < (lo b).toNat), f)
  | .bgeu a b f => some (decide ((lo b).toNat ≤ (lo a).toNat), f)
  | .btag a f => some ((t.reg a).tag, f)
  | .bntag a f => some (!(t.reg a).tag, f)
  | _ => none

/-- A target field of `w` bits: [4:0] the instruction index, the rest a signed count of lines from the pc's own (02 R58). -/
def target (pc : Word) (w : Nat) (f : BitVec w) : Word :=
  BitVec.ofInt 64 ((pc.toNat / 64 * 64 : Nat) + 64 * (f.toInt / 32) + 2 * (f.toNat % 32 : Nat))

/-- The transfer an instruction makes: its target, the capability that is to be entered, and the register that takes the link
(04 R120, R121). -/
def transferOf (i : Instr) (t : Thread) : Option (Word × Reg × Option RegNo) :=
  let near (w : Nat) (f : BitVec w) (d : Option RegNo) : Option (Word × Reg × Option RegNo) := some (target t.pcc.lo w f, t.pcc, d)
  match i with
  | .beq _ _ f | .bne _ _ f | .blt _ _ f | .bge _ _ f | .bltu _ _ f | .bgeu _ _ f | .btag _ f | .bntag _ f => near 17 f none
  | .jmp f => near 54 f none
  | .call d f => near 54 f (some d)
  | .jr a => some ((t.reg a).lo, t.reg a, none)
  | .callr d a => some ((t.reg a).lo, t.reg a, some d)
  | _ => none

/-- The instruction makes its transfer: a branch when its condition holds, `jr` and `callr` where the capability is tagged, not
sealed and executable (04 R121). -/
def transfers (i : Instr) (t : Thread) : Prop :=
  match i with
  | .jr a | .callr _ a => (t.reg a).tag = true ∧ (t.reg a).sealed_ = false ∧ (t.reg a).has permEX = true
  | .jmp _ | .call _ _ => True
  | i => (branchOf i t).map Prod.fst = some true

end Sys2Proof.Spec

/-- A conditional branch that is not taken retires at the following instruction and changes nothing else (04 R120). -/
def Sys2Proof.Rules.BranchNotTaken : Prop :=
  ∀ (i : Instr) (s : State) (t : Thread) (f : BitVec 17), s.Issues t i → Spec.branchOf i t = some (false, f) →
    ∃ s', exec i s = .next s' ∧ s.Became s' t t

/-- A branch that is taken, a jump or a call whose target line can be entered: the thread holds the target's line, pcc is the
capability entered with its cursor at the target, a call's link register holds a tagged pcc of the following instruction (c0 keeps
reading zero), and every other register and flag is as it was; memory is what fetching the line left (04 R120, R121; 02 R49). -/
def Sys2Proof.Rules.TransferTaken : Prop :=
  ∀ (i : Instr) (s s1 : State) (t : Thread) (tgt : Word) (cap : Reg) (link : Option RegNo) (l : LineCopy),
    s.Issues t i → Spec.transferOf i t = some (tgt, cap, link) → Spec.transfers i t → tgt.getLsbD 0 = false →
    s.enterLine s.cur t cap tgt = (s1, .ok l) →
    ∃ s' t', exec i s = .next s' ∧ s'.thread? s.cur = some t' ∧ t'.pcc = cap.withCursor tgt ∧ t'.line = some l ∧
      (∀ r, t'.reg r = match link with
        | some d => t.with d ⟨t.pcc.hi ++ t.following, true⟩ r
        | none => t.reg r) ∧
      t'.fpcsr = t.fpcsr ∧ t'.hid = t.hid ∧ t'.watch = t.watch ∧ t'.auth = t.auth ∧ (∀ a, s'.byteAt a = s1.byteAt a) ∧
      (∀ n, n ≠ s.cur → s'.thread? n = s1.thread? n)

/-- A transfer whose target line cannot be entered is charged to the transferring instruction: its thread keeps its pcc and
registers, and the pending fault has the cause and the target as the faulting address (02 R49, 04 R117). That the record's head is
the transferring instruction's own is the model's reading (log 9, DEDUCED). -/
def Sys2Proof.Rules.TransferFaults : Prop :=
  ∀ (i : Instr) (s s1 : State) (t : Thread) (tgt : Word) (cap : Reg) (link : Option RegNo) (c : Byte) (h : BitVec 16),
    s.Issues t i → t.window = [] → Spec.transferOf i t = some (tgt, cap, link) → Spec.transfers i t → tgt.getLsbD 0 = false →
    s.enterLine s.cur t cap tgt = (s1, .fault c h) →
    ∃ s' t', exec i s = .next s' ∧ s'.thread? s.cur = some t' ∧ t.Faulting t' ⟨c, tgt, .fetch, 5⟩ s.cycle

/-- `jr` and `callr` check their capability in this order: tag (0x05), seal (0x06), EX (0x08), and the target's bit 0 (0x04)
(04 R121). -/
def Sys2Proof.Rules.JumpRegisterFaults : Prop :=
  ∀ (i : Instr) (a : RegNo) (s : State) (t : Thread), (i = .jr a ∨ ∃ d, i = .callr d a) → s.Issues t i → t.window = [] →
    ((t.reg a).tag = false ∨ (t.reg a).sealed_ = true ∨ (t.reg a).has permEX = false ∨ (t.reg a).lo.getLsbD 0 = true) →
    ∃ s' t', exec i s = .next s' ∧ s'.thread? s.cur = some t' ∧
      t.Faulting t' ⟨if (t.reg a).tag = false then 0x05 else if (t.reg a).sealed_ then 0x06
        else if (t.reg a).has permEX = false then 0x08 else 0x04, (t.reg a).lo, .fetch, 5⟩ s.cycle

namespace Sys2Proof.Spec
open Sys2Proof.Machine

/-! ## Accesses to memory (07 R192 to R203) -/

/-- The capability authorises an access of `n` bytes at the unbounded address `x` with the permissions `p` (04 R109). -/
abbrev authorises (c : Reg) (p : BitVec 14) (x : Int) (n : Nat) : Prop :=
  c.tag = true ∧ c.sealed_ = false ∧ c.has p = true ∧ (boundsOf c).1 ≤ x ∧ x + n ≤ (boundsOf c).2

/-- The place is the issuing core's own TCM window or its own cluster's scratchpad. -/
abbrev ownPlace (s : State) : Place → Prop
  | .core c _ => c = coreOf s.cur
  | .clu k _ => k = clusterOf (coreOf s.cur)
  | _ => False

/-- The flat addresses of `n` bytes of a window, where its core or cores have them: the TCM below the warm-context area, and the
scratchpad's words spread over the cluster's 64 cores (01 R18, R22). -/
def localBytes (s : State) (p : Place) (n : Nat) : Option (List Nat) :=
  match p with
  | .core c off =>
    if (s.core c).quarantined = false ∧ off + n ≤ (s.core c).tcmPlain then some ((List.range n).map (fun j => flatTcm c off + j)) else none
  | .clu k off =>
    let owner (j : Nat) : Nat := k * 64 + (off + j) / 4 % 64
    let row (j : Nat) : Nat := (off + j) / 4 / 64 * 4 + (off + j) % 4
    if (List.range n).all (fun j => decide (row j < (s.core (owner j)).shareBytes ∧ (s.core (owner j)).quarantined = false)) then
      some ((List.range n).map (fun j => flatScratch (owner j) (row j))) else none
  | _ => none

/-- The tag of a quad of local memory: the TCM has tags, the scratchpad none (07 R191). -/
def localTag (s : State) (p : Place) (fs : List Nat) : Bool :=
  match p, fs with
  | .core _ _, a :: _ => s.tagAt a
  | _, _ => false

/-- What a load's words say. -/
structure LoadForm where
  bytes : Nat
  signed : Bool
  d : RegNo
  a : RegNo
  off : BitVec 17
  acq : Option Scope
  hint : Hint

/-- The five loads (07 R192). -/
def loadForm (i : Instr) : Option LoadForm :=
  match i with
  | .ldB d a off z acq h => some ⟨1, !z, d, a, off, acq, h⟩
  | .ldH d a off z acq h => some ⟨2, !z, d, a, off, acq, h⟩
  | .ldW d a off z acq h => some ⟨4, !z, d, a, off, acq, h⟩
  | .ldD d a off acq h => some ⟨8, false, d, a, off, acq, h⟩
  | .ldQ d a off acq h => some ⟨16, false, d, a, off, acq, h⟩
  | _ => none

/-- What a load writes: little-endian bytes, extended; a quad with its tag where the capability carries LDC. -/
def loadValue (n : Nat) (signed : Bool) (c : Reg) (bs : List Byte) (tag : Bool) : Reg :=
  if n = 16 then ⟨BitVec.ofNat 128 (leNat bs), tag && c.has permLDC⟩
  else Reg.ofWord (if signed then BitVec.ofInt 64 (sx (8 * n) (leNat bs)) else BitVec.ofNat 64 (leNat bs))

/-- A load passes its checks and has nothing of its own thread to wait for (07 R192, R220). -/
abbrev loadPasses (s : State) (t : Thread) (f : LoadForm) (x : Int) : Prop :=
  x = (t.reg f.a).lo.toNat + f.off.toInt ∧ authorises (t.reg f.a) permLD x f.bytes ∧ (BitVec.ofInt 64 x).toNat % f.bytes = 0 ∧
    canonical (BitVec.ofInt 64 x) = true ∧ s.acquirePending t = false ∧
    (f.acq.isSome = true → s.releasePending t = false) ∧ s.ownStoreOver s.cur t (BitVec.ofInt 64 x) f.bytes = false

/-- What a store's words say. -/
structure StoreForm where
  bytes : Nat
  d : RegNo
  a : RegNo
  off : BitVec 17
  rel : Option Scope
  hint : Hint

/-- The five stores (07 R193). -/
def storeForm (i : Instr) : Option StoreForm :=
  match i with
  | .stB d a off rel h => some ⟨1, d, a, off, rel, h⟩
  | .stH d a off rel h => some ⟨2, d, a, off, rel, h⟩
  | .stW d a off rel h => some ⟨4, d, a, off, rel, h⟩
  | .stD d a off rel h => some ⟨8, d, a, off, rel, h⟩
  | .stQ d a off rel h => some ⟨16, d, a, off, rel, h⟩
  | _ => none

/-- A tagged value may be stored with its tag: STC, and GLOBAL unless it goes to the own core's TCM; never to a scratchpad of
any module, and never to agent registers (07 R191). -/
def mayTag (s : State) (c v : Reg) (a : Word) : Bool :=
  match placeOf s.bridge.chip (coreOf s.cur) a with
  | .clu _ _ => false
  | .core k _ => !touchesAgent a 16 && c.has permSTC && (v.has permGLOBAL || k == coreOf s.cur)
  | .far _ => !touchesAgent a 16 && !a.getLsbD 62 && c.has permSTC && v.has permGLOBAL
  | .glob _ => c.has permSTC && v.has permGLOBAL

/-- A store passes its checks (07 R193). -/
abbrev storePasses (s : State) (t : Thread) (f : StoreForm) (x : Int) : Prop :=
  x = (t.reg f.a).lo.toNat + f.off.toInt ∧ authorises (t.reg f.a) permST x f.bytes ∧ (BitVec.ofInt 64 x).toNat % f.bytes = 0 ∧
    canonical (BitVec.ofInt 64 x) = true ∧ (f.bytes = 16 → (t.reg f.d).tag = true → mayTag s (t.reg f.a) (t.reg f.d) (BitVec.ofInt 64 x) = true) ∧
    (t.hid = 0 ∨ (BitVec.ofInt 64 x).getLsbD 63 = false ∨ (t.reg f.a).unv = true)

/-- A store may issue: fewer than 16 unsettled, and with `.rel` none (07 R195). -/
abbrev storeFree (t : Thread) (f : StoreForm) : Prop := t.stores.length < 16 ∧ (f.rel.isSome = true → t.stores = [])

/-- The low bytes of a register. -/
def lowBytes (n : Nat) (v : Reg) : List Byte := (List.range n).map (fun j => v.bits.extractLsb' (8 * j) 8)

/-- The request a store makes of its point of coherence. -/
def storeReq (s : State) (t : Thread) (f : StoreForm) (x : Int) : Req :=
  { s.reqOf t .store (t.reg f.a) (BitVec.ofInt 64 x) f.bytes with
    data := BitVec.ofNat 128 ((t.reg f.d).bits.toNat % 2 ^ (8 * f.bytes)), tag := decide (f.bytes = 16) && (t.reg f.d).tag
    hint := f.hint, scope := f.rel.getD .mod, rel := f.rel.isSome }

/-- The request a load makes. -/
def loadReq (s : State) (t : Thread) (f : LoadForm) (x : Int) : Req :=
  { s.reqOf t .load (t.reg f.a) (BitVec.ofInt 64 x) f.bytes with
    signed := f.signed, hint := f.hint, scope := f.acq.getD .mod, acq := f.acq.isSome }

end Sys2Proof.Spec

/-- The issuing thread stands at the following instruction, its registers and `k.fpcsr` as they were, and every byte and tag of
memory and every other thread is as it was. -/
structure Sys2Proof.Machine.State.GoesOn (s s' : State) (t t' : Thread) : Prop where
  thread : s'.thread? s.cur = some t'
  pcc : t'.pcc = t.pcc.withCursor t.following
  regs : t'.regs = t.regs
  fpcsr : t'.fpcsr = t.fpcsr
  hid : t'.hid = t.hid
  bytes : ∀ a, s'.byteAt a = s.byteAt a
  tags : ∀ a, s'.tagAt a = s.tagAt a
  threads : ∀ n, n ≠ s.cur → s'.thread? n = s.thread? n

/-- The thread has gone on past a load or atomic that left its core as the request `r`: register `d` waits for it (04 R116). -/
def Sys2Proof.Machine.State.Sends (s s' : State) (t : Thread) (d : RegNo) (r : Req) : Prop :=
  s'.reqs = s.reqs ++ [(s.nextReq, r)] ∧ s'.nextReq = s.nextReq + 1 ∧
    ∃ t', s.GoesOn s' t t' ∧ t'.window = t.window ++ [⟨s.nextReq, d, t.order, false, none, t.checkpoint⟩]

/-- The thread has gone on past a store that left its core as the request `r`: it counts until it settles (07 R195). -/
def Sys2Proof.Machine.State.Posts (s s' : State) (t : Thread) (r : Req) : Prop :=
  s'.reqs = s.reqs ++ [(s.nextReq, r)] ∧ s'.nextReq = s.nextReq + 1 ∧
    ∃ t', s.GoesOn s' t t' ∧ t'.stores.map StoreOut.req = t.stores.map StoreOut.req ++ [s.nextReq]

/-- A load from the own core's TCM or the own cluster's scratchpad, where no byte is marked poisoned, retires with the bytes there,
extended, in its destination, and changes nothing else (07 R192; 01 R18, R22; 05 R163). -/
def Sys2Proof.Rules.LoadLocal : Prop :=
  ∀ (i : Instr) (f : Spec.LoadForm) (s : State) (t : Thread) (x : Int) (fs : List Nat), Spec.loadForm i = some f → s.Issues t i →
    s.cur < 2 ^ 28 → Spec.loadPasses s t f x →
    let p := placeOf s.bridge.chip (coreOf s.cur) (BitVec.ofInt 64 x)
    Spec.ownPlace s p → Spec.localBytes s p f.bytes = some fs → s.poisonedAt fs = false →
    ∃ s', exec i s = .next s' ∧
      s.Wrote s' t f.d (Spec.loadValue f.bytes f.signed (t.reg f.a) (fs.map s.byteAt) (Spec.localTag s p fs)) t.fpcsr

/-- A load that no cache of its own core answers, and a load from another core's window or another cluster's scratchpad of this
module, leaves as a request to the home slice, the core or the cluster, and its thread goes on (07 R192, 04 R116). -/
def Sys2Proof.Rules.LoadSent : Prop :=
  ∀ (i : Instr) (f : Spec.LoadForm) (s : State) (t : Thread) (x : Int), Spec.loadForm i = some f → s.Issues t i → Spec.loadPasses s t f x →
    match placeOf s.bridge.chip (coreOf s.cur) (BitVec.ofInt 64 x) with
    | .glob va =>
      (s.core (coreOf s.cur)).copy? t.part (va / 64) t.hid = none → s.poolHit (coreOf s.cur) t.part (va / 64) t.hid f.hint = none →
        ∃ s', exec i s = .next s' ∧ s.Sends s' t f.d { Spec.loadReq s t f x with target := s.homeFor t.part va }
    | .core c off =>
      c ≠ coreOf s.cur → touchesAgent (BitVec.ofInt 64 x) f.bytes = false →
        ∃ s', exec i s = .next s' ∧ s.Sends s' t f.d { Spec.loadReq s t f x with target := .core c }
    | .clu k _ =>
      k ≠ clusterOf (coreOf s.cur) → ∃ s', exec i s = .next s' ∧ s.Sends s' t f.d { Spec.loadReq s t f x with target := .scratch k }
    | .far chip =>
      s.reachable chip = true → touchesAgent (BitVec.ofInt 64 x) f.bytes = false →
        ∃ s', exec i s = .next s' ∧ s.Sends s' t f.d { Spec.loadReq s t f x with target := .peer chip, phase := .atHost }

/-- A load whose checks fail faults precisely, by the first that fails: capability, alignment, form of the address (07 R192). -/
def Sys2Proof.Rules.LoadFaults : Prop :=
  ∀ (i : Instr) (f : Spec.LoadForm) (s : State) (t : Thread) (x : Int), Spec.loadForm i = some f → s.Issues t i → t.window = [] →
    x = (t.reg f.a).lo.toNat + f.off.toInt →
    let c := t.reg f.a
    let cause : Option Byte :=
      if c.tag = false then some 0x05 else if c.sealed_ then some 0x06 else if c.has permLD = false then some 0x08
      else if x < (boundsOf c).1 ∨ (boundsOf c).2 < x + f.bytes then some 0x07
      else if (BitVec.ofInt 64 x).toNat % f.bytes ≠ 0 then some 0x09
      else if canonical (BitVec.ofInt 64 x) = false then some 0x16 else none
    ∀ b, cause = some b → ∃ s' t', exec i s = .next s' ∧ s'.thread? s.cur = some t' ∧
      t.Faulting t' ⟨b, BitVec.ofInt 64 x, .load, Nat.log2 f.bytes⟩ s.cycle ∧ (∀ a, s'.byteAt a = s.byteAt a)

/-- A store to the own core's TCM or the own cluster's scratchpad is performed at once: its bytes stand there, a tag only in the
TCM for a tagged quad, no other byte has changed, its thread has gone on, and of other threads only reservations may be
lost (07 R193, R191, R201). -/
def Sys2Proof.Rules.StoreLocal : Prop :=
  ∀ (i : Instr) (f : Spec.StoreForm) (s : State) (t : Thread) (x : Int) (fs : List Nat), Spec.storeForm i = some f → s.Issues t i →
    s.cur < 2 ^ 28 → s.Canonical → Spec.storeFree t f → Spec.storePasses s t f x →
    let p := placeOf s.bridge.chip (coreOf s.cur) (BitVec.ofInt 64 x)
    Spec.ownPlace s p → Spec.localBytes s p f.bytes = some fs → s.localHeld s.cur fs = false →
    ∃ s' t', exec i s = .next s' ∧ s'.thread? s.cur = some t' ∧ t'.pcc = t.pcc.withCursor t.following ∧ t'.regs = t.regs ∧
      t'.fpcsr = t.fpcsr ∧ t'.stores.map StoreOut.req = t.stores.map StoreOut.req ∧
      (∀ j a, fs[j]? = some a → tget s.dirty (a / 64) = none → s'.byteAt a = (Spec.lowBytes f.bytes (t.reg f.d)).getD j 0) ∧
      (∀ a, a ∉ fs → s'.byteAt a = s.byteAt a) ∧
      (∀ c off a, p = .core c off → a ∈ fs → tget s.dirty (a / 64) = none →
        s'.tagAt a = (decide (f.bytes = 16) && (t.reg f.d).tag)) ∧
      (∀ n u, n ≠ s.cur → s.thread? n = some u → ∃ v, s'.thread? n = some { u with resv := v })

/-- A store to global memory that its core does not own, or to another core's window or another cluster's scratchpad, leaves as a
request and its thread goes on; a window store counts in the core until it is acknowledged (07 R193, R195; 01 R20). -/
def Sys2Proof.Rules.StoreSent : Prop :=
  ∀ (i : Instr) (f : Spec.StoreForm) (s : State) (t : Thread) (x : Int), Spec.storeForm i = some f → s.Issues t i →
    Spec.storeFree t f → Spec.storePasses s t f x →
    match placeOf s.bridge.chip (coreOf s.cur) (BitVec.ofInt 64 x) with
    | .glob va =>
      (s.core (coreOf s.cur)).copy? t.part (va / 64) 0 = none →
        ∃ s', exec i s = .next s' ∧ s.Posts s' t { Spec.storeReq s t f x with target := s.homeFor t.part va }
    | .core c _ =>
      c ≠ coreOf s.cur → (s.core (coreOf s.cur)).unack < 1024 →
        ∃ s', exec i s = .next s' ∧ s.Posts s' t { Spec.storeReq s t f x with target := .core c, counted := true } ∧
          (s'.core (coreOf s.cur)).unack = (s.core (coreOf s.cur)).unack + 1
    | .clu k _ =>
      k ≠ clusterOf (coreOf s.cur) → (s.core (coreOf s.cur)).unack < 1024 →
        ∃ s', exec i s = .next s' ∧ s.Posts s' t { Spec.storeReq s t f x with target := .scratch k, counted := true } ∧
          (s'.core (coreOf s.cur)).unack = (s.core (coreOf s.cur)).unack + 1
    | .far chip =>
      s.reachable chip = true → (s.core (coreOf s.cur)).unack < 1024 →
        ∃ s', exec i s = .next s' ∧ s.Posts s' t { Spec.storeReq s t f x with target := .peer chip, counted := true, phase := .atHost }

/-- A store that fails a check does not stop its thread: the thread goes on, no byte changes, and the fault is on its way to the
thread's queue with the cause of the first check that fails (07 R193, R196). -/
def Obligations.StoreFaultQueued : Prop :=
  ∀ (i : Instr) (f : Spec.StoreForm) (s : State) (t : Thread) (x : Int), Spec.storeForm i = some f → s.Issues t i →
    Spec.storeFree t f → x = (t.reg f.a).lo.toNat + f.off.toInt →
    let c := t.reg f.a
    let cause : Option Byte :=
      if c.tag = false then some 0x05 else if c.sealed_ then some 0x06 else if c.has permST = false then some 0x08
      else if x < (boundsOf c).1 ∨ (boundsOf c).2 < x + f.bytes then some 0x07
      else if (BitVec.ofInt 64 x).toNat % f.bytes ≠ 0 then some 0x09
      else if canonical (BitVec.ofInt 64 x) = false then some 0x16
      else if f.bytes = 16 ∧ (t.reg f.d).tag = true ∧ Spec.mayTag s c (t.reg f.d) (BitVec.ofInt 64 x) = false then some 0x08
      else if t.hid ≠ 0 ∧ (BitVec.ofInt 64 x).getLsbD 63 = true ∧ c.unv = false then some 0x20 else none
    ∀ b, cause = some b → ∃ s', exec i s = .next s' ∧ s.Posts s' t { Spec.storeReq s t f x with phase := .fault b }

/-- A load of the agent registers is an 8-byte load (else 0x09); in the own core's window it reads the word the agent shows, or
faults where the issuer has no right to it (0x28); in another core's window it leaves as a request that is no acquire
(05 R166). -/
def Obligations.AgentRegisterLoad : Prop :=
  ∀ (i : Instr) (f : Spec.LoadForm) (s : State) (t : Thread) (x : Int) (c off : Nat), Spec.loadForm i = some f → s.Issues t i →
    t.window = [] → Spec.loadPasses s t f x → placeOf s.bridge.chip (coreOf s.cur) (BitVec.ofInt 64 x) = .core c off →
    touchesAgent (BitVec.ofInt 64 x) f.bytes = true →
    (f.bytes ≠ 8 → ∃ s' t', exec i s = .next s' ∧ s'.thread? s.cur = some t' ∧
      t.Faulting t' ⟨0x09, BitVec.ofInt 64 x, .load, Nat.log2 f.bytes⟩ s.cycle) ∧
    (f.bytes = 8 → c = coreOf s.cur → ∀ v, s.agentWord s.cur c (off - 2 ^ 32) = .ok v →
      ∃ s', exec i s = .next s' ∧ s.Wrote s' t f.d (Reg.ofWord v) t.fpcsr) ∧
    (f.bytes = 8 → c = coreOf s.cur → ∀ e, s.agentWord s.cur c (off - 2 ^ 32) = .error e →
      ∃ s' t', exec i s = .next s' ∧ s'.thread? s.cur = some t' ∧ t.Faulting t' ⟨e, BitVec.ofInt 64 x, .load, 3⟩ s.cycle) ∧
    (f.bytes = 8 → c ≠ coreOf s.cur → ∃ s', exec i s = .next s' ∧
      s.Sends s' t f.d { Spec.loadReq s t f x with target := .core c, acq := false })

namespace Sys2Proof.Spec
open Sys2Proof.Machine

/-- What an atomic's words and its thread's registers say: its kind, what it computes, width in bytes, destination, capability,
value and order. -/
structure AtomicForm where
  kind : ReqKind
  bytes : Nat
  d : RegNo
  a : RegNo
  value : Reg
  perms : BitVec 14
  order : Ord3

/-- Bytes of an atomic's width (02 R62). -/
def bytesOf : AWidth → Nat
  | .w => 4 | .d => 8 | .q => 16

/-- The atomics (07 R199 to R201). Only `swap`, `cas` and `scond` can write a tag. -/
def atomicForm (i : Instr) (t : Thread) : Option AtomicForm :=
  let amo (k : Nat) (w : AWidth) (d a b : RegNo) (o : Ord3) : Option AtomicForm :=
    some ⟨.amo k, bytesOf w, d, a, ⟨(t.reg b).bits, (t.reg b).tag && k == 8⟩, permLD ||| permST ||| permAMO, o⟩
  match i with
  | .amoAdd w d a b o => amo 0 w d a b o
  | .amoAnd w d a b o => amo 1 w d a b o
  | .amoOr w d a b o => amo 2 w d a b o
  | .amoXor w d a b o => amo 3 w d a b o
  | .amoSmin w d a b o => amo 4 w d a b o
  | .amoSmax w d a b o => amo 5 w d a b o
  | .amoUmin w d a b o => amo 6 w d a b o
  | .amoUmax w d a b o => amo 7 w d a b o
  | .amoSwap w d a b o => amo 8 w d a b o
  | .amoFadd d a b o => amo 9 .w d a b o
  | .cas w d a b o => some ⟨.cas (t.reg d).bits (t.reg d).tag, bytesOf w, d, a, t.reg b, permLD ||| permST ||| permAMO, o⟩
  | .lres w d a sc acq => some ⟨.lres, bytesOf w, d, a, Reg.zero, permLD ||| permAMO, ⟨sc, acq, false⟩⟩
  | .scond w d a b sc rel => some ⟨.scond, bytesOf w, d, a, t.reg b, permST ||| permAMO, ⟨sc, false, rel⟩⟩
  | _ => none

/-- An atomic passes its checks and has nothing of its own thread to wait for (07 R199, R203, R195, R220). -/
abbrev atomicPasses (s : State) (t : Thread) (f : AtomicForm) : Prop :=
  let c := t.reg f.a
  authorises c f.perms c.lo.toNat f.bytes ∧ c.lo.toNat % f.bytes = 0 ∧ canonical c.lo = true ∧ touchesAgent c.lo f.bytes = false ∧
    (c.lo.getLsbD 63 = true → c.lo.getLsbD 62 = true → f.bytes = 4) ∧
    (f.bytes = 16 → f.value.tag = true → mayTag s c f.value c.lo = true) ∧
    (t.hid = 0 ∨ c.lo.getLsbD 63 = false ∨ c.unv = true) ∧
    s.acquirePending t = false ∧ (f.order.rel = true → t.stores = []) ∧ (f.order.acq = true → s.releasePending t = false) ∧
    s.ownStoreOver s.cur t c.lo f.bytes = false

/-- The request an atomic makes. -/
def atomicReq (s : State) (t : Thread) (f : AtomicForm) : Req :=
  { s.reqOf t f.kind (t.reg f.a) (t.reg f.a).lo f.bytes with
    data := BitVec.ofNat 128 (f.value.bits.toNat % 2 ^ (8 * f.bytes)), tag := decide (f.bytes = 16) && f.value.tag
    scope := f.order.scope, acq := f.order.acq, rel := f.order.rel }

/-- The new value of an `amo` and the flags it raises (07 R199). -/
def amoValue (k n old b : Nat) : Nat × FlagSet :=
  match k with
  | 0 => (add (8 * n) old b, 0)
  | 1 => (and (8 * n) old b, 0)
  | 2 => (or (8 * n) old b, 0)
  | 3 => (xor (8 * n) old b, 0)
  | 4 => (min (8 * n) old b, 0)
  | 5 => (max (8 * n) old b, 0)
  | 6 => (minu (8 * n) old b, 0)
  | 7 => (maxu (8 * n) old b, 0)
  | 8 => (b, 0)
  | _ =>
    let r := fpAdd layF32 .rne 0 (fpRead layF32 old) (fpRead layF32 b)
    (r.bits, r.flags)

/-- What an atomic does with the value `old` it finds: the bytes it writes, if any, and the tag; what it returns; the flags. -/
structure AtomicEffect where
  write : Option (Nat × Bool)
  result : Reg
  flags : FlagSet

/-- The register that takes an old value: a quad with its tag where the capability carries LDC (07 R199). -/
def oldValue (n : Nat) (c : Reg) (old : Nat) (tag : Bool) : Reg := ⟨BitVec.ofNat 128 old, tag && decide (n = 16) && c.has permLDC⟩

/-- The effect of an atomic; `resv`: its thread holds a reservation of this address and width (07 R199 to R201). -/
def atomicEffect (t : Thread) (f : AtomicForm) (resv : Bool) (old : Nat) (tag : Bool) : AtomicEffect :=
  let b := f.value.bits.toNat % 2 ^ (8 * f.bytes)
  let back := oldValue f.bytes (t.reg f.a) old tag
  match f.kind with
  | .amo k => ⟨some ((amoValue k f.bytes old b).1, f.value.tag && decide (f.bytes = 16)), back, (amoValue k f.bytes old b).2⟩
  | .cas e et =>
    if old = e.toNat % 2 ^ (8 * f.bytes) ∧ (f.bytes = 16 → tag = et) then ⟨some (b, f.value.tag && decide (f.bytes = 16)), back, 0⟩
    else ⟨none, back, 0⟩
  | .scond => if resv then ⟨some (b, f.value.tag && decide (f.bytes = 16)), ⟨1, false⟩, 0⟩ else ⟨none, ⟨0, false⟩, 0⟩
  | _ => ⟨none, back, 0⟩

/-- The thread's reservation names this address and width (07 R201). -/
def reserved (t : Thread) (a : Word) (n : Nat) : Bool :=
  match t.resv with
  | some r => decide (r.addr = a ∧ r.width = n)
  | none => false

end Sys2Proof.Spec

/-- An atomic on bytes of the own core's TCM or the own cluster's scratchpad that are not marked poisoned is performed at once, whole: its destination takes the old
value (`scond`: 1 or 0), the bytes are written where the atomic writes, and no other byte changes; `amo.fadd` raises its flags;
`lres` takes a reservation, a successful `scond` ends it (07 R199 to R201). -/
def Sys2Proof.Rules.AtomicLocal : Prop :=
  ∀ (i : Instr) (f : Spec.AtomicForm) (s : State) (t : Thread) (fs : List Nat), s.Issues t i → Spec.atomicForm i t = some f →
    s.cur < 2 ^ 28 → s.Canonical → Spec.atomicPasses s t f →
    let p := placeOf s.bridge.chip (coreOf s.cur) (t.reg f.a).lo
    Spec.ownPlace s p → Spec.localBytes s p f.bytes = some fs → s.localHeld s.cur fs = false →
    s.poisonedAt fs = false →
    let e := Spec.atomicEffect t f (Spec.reserved t (t.reg f.a).lo f.bytes) (leNat (fs.map s.byteAt)) (Spec.localTag s p fs)
    ∃ s' t', exec i s = .next s' ∧ s'.thread? s.cur = some t' ∧ t'.pcc = t.pcc.withCursor t.following ∧
      (∀ r, t'.reg r = t.with f.d e.result r) ∧ t'.fpcsr = t.fpcsr ||| e.flags.setWidth 64 ∧
      (∀ v tg, e.write = some (v, tg) → ∀ j a, fs[j]? = some a → tget s.dirty (a / 64) = none →
        s'.byteAt a = BitVec.ofNat 8 (v / 256 ^ j)) ∧
      (∀ a, a ∉ fs ∨ e.write = none → s'.byteAt a = s.byteAt a) ∧
      (f.kind = .lres → ∃ r, t'.resv = some r ∧ r.addr = (t.reg f.a).lo ∧ r.width = f.bytes ∧ r.holdEnd = s.cycle + 128) ∧
      (f.kind = .scond → Spec.reserved t (t.reg f.a).lo f.bytes = true → t'.resv = none)

/-- An atomic on global memory, or on another core's window or another cluster's scratchpad, leaves as a request to its point of
coherence and its thread goes on (07 R199, 04 R116). -/
def Sys2Proof.Rules.AtomicSent : Prop :=
  ∀ (i : Instr) (f : Spec.AtomicForm) (s : State) (t : Thread), s.Issues t i → Spec.atomicForm i t = some f → Spec.atomicPasses s t f →
    let target : Option (Target × Phase) :=
      match placeOf s.bridge.chip (coreOf s.cur) (t.reg f.a).lo with
      | .glob va => some (s.homeFor t.part va, .sent)
      | .core c _ => if c = coreOf s.cur then none else some (.core c, .sent)
      | .clu k _ => if k = clusterOf (coreOf s.cur) then none else some (.scratch k, .sent)
      | .far chip => if s.reachable chip then some (.peer chip, .atHost) else none
    ∀ g ph, target = some (g, ph) →
      ∃ s', exec i s = .next s' ∧ s.Sends s' t f.d { Spec.atomicReq s t f with target := g, phase := ph }

/-- An atomic whose checks fail faults precisely, by the first that fails: capability, alignment, form of the address, the agent
registers, a scratchpad access that is not of a word, a tagged value, UNV (07 R199, R203). -/
def Sys2Proof.Rules.AtomicFaults : Prop :=
  ∀ (i : Instr) (f : Spec.AtomicForm) (s : State) (t : Thread), s.Issues t i → Spec.atomicForm i t = some f → t.window = [] →
    t.stores = [] →
    let c := t.reg f.a
    let cause : Option Byte :=
      if c.tag = false then some 0x05 else if c.sealed_ then some 0x06 else if c.has f.perms = false then some 0x08
      else if (c.lo.toNat : Int) < (boundsOf c).1 ∨ (boundsOf c).2 < c.lo.toNat + f.bytes then some 0x07
      else if c.lo.toNat % f.bytes ≠ 0 then some 0x09
      else if canonical c.lo = false then some 0x16
      else if touchesAgent c.lo f.bytes then some 0x28
      else if c.lo.getLsbD 63 ∧ c.lo.getLsbD 62 ∧ f.bytes ≠ 4 then some 0x09
      else if f.bytes = 16 ∧ f.value.tag = true ∧ Spec.mayTag s c f.value c.lo = false then some 0x08
      else if t.hid ≠ 0 ∧ c.lo.getLsbD 63 ∧ c.unv = false then some 0x20 else none
    ∀ b, cause = some b → ∃ s' t', exec i s = .next s' ∧ s'.thread? s.cur = some t' ∧
      t.Faulting t' ⟨b, c.lo, .atomic, Nat.log2 f.bytes⟩ s.cycle ∧ (∀ a, s'.byteAt a = s.byteAt a)

/-- A load's or atomic's data reaches its core (LOAD_REPLY): the only unretired access of its thread retires with the value in its
destination, and an `amo.fadd`'s flags are raised (04 R116; 07 R192, R199). A fault that reaches it is taken precisely: the thread
stands at the boundary before the access, with the registers of that boundary (04 R117). Replies from one core to another keep the order of what they answer (11 R311). -/
def Sys2Proof.Rules.LoadReply : Prop :=
  ∀ (s : State) (n : Nat) (r : Req) (t : Thread) (u : Unretired) (ext : ExtReply), tget s.reqs n = some r → r.kind.returns = true →
    s.thread? r.tid = some t → t.window = [u] → u.req = n → u.arrived = false → u.fault = none →
    t.wait = .none → s.Canonical → s.replyBehind n r = false →
    (∀ bits tag fl, r.phase = .done bits tag fl → ∃ s' t', exec (.loadReply n ext) s = .next s' ∧ s'.thread? r.tid = some t' ∧
      t'.window = [] ∧ (∀ x, t'.reg x = t.with u.d (r.result bits tag) x) ∧ t'.fpcsr = t.fpcsr ||| fl.setWidth 64 ∧ t'.pcc = t.pcc ∧
      (r.fill = none ∨ s.NoStale → ∀ a, s'.byteAt a = s.byteAt a)) ∧
    (∀ c, r.phase = .fault c → ∃ s' t', exec (.loadReply n ext) s = .next s' ∧ s'.thread? r.tid = some t' ∧ t'.window = [] ∧
      t'.regs = u.before.regs ∧ t'.pcc = u.before.pcc ∧ t'.fpcsr = u.before.fpcsr ∧
      t'.fault = some ⟨c, r.addr, r.kind.akind, widthCode r.len, (t.restore u.before).headAt, u.before.pcc.lo, s.cycle, .faulted⟩ ∧
      (r.fill = none ∨ s.NoStale → ∀ a, s'.byteAt a = s.byteAt a))

/-- A store is acknowledged (STORE_ACK): it leaves its thread's count and, if a window store, the core's; memory and registers are
as they were (07 R188, R195). -/
def Sys2Proof.Rules.StoreAcknowledged : Prop :=
  ∀ (s : State) (n : Nat) (r : Req) (t : Thread) (bits : Quad) (tag : Bool) (fl : FlagSet), tget s.reqs n = some r → r.kind = .store →
    r.phase = .done bits tag fl → s.thread? r.tid = some t → s.replyBehind n r = false →
    ∃ s' t', exec (.storeAck n) s = .next s' ∧ s'.thread? r.tid = some t' ∧ t'.stores = t.stores.filter (fun x => x.req ≠ n) ∧
      t'.regs = t.regs ∧ t'.pcc = t.pcc ∧ t'.sfq = t.sfq ∧ s'.reqs = tdel s.reqs n ∧
      (s'.core (coreOf r.tid)).unack = (s.core (coreOf r.tid)).unack - (if r.counted then 1 else 0) ∧ ∀ a, s'.byteAt a = s.byteAt a

/-- A store's fault reaches its thread (STORE_FAULT_ARRIVAL): it stands in the store-fault queue in program order, the youngest of
five dropped and counted, and a thread that runs stops with cause 0x18 at the boundary before its oldest unretired instruction;
one that has faulted or stopped already is not stopped again (07 R196, R197; 05 R134, R151). -/
def Sys2Proof.Rules.StoreFaultArrives : Prop :=
  ∀ (s : State) (n : Nat) (r : Req) (t : Thread) (c : Byte) (ext : ExtReply), tget s.reqs n = some r → r.kind = .store →
    r.phase = .fault c → s.thread? r.tid = some t → t.fault = none → s.replyBehind n r = false → t.stores.any (fun x => x.req = n) = true →
    let e : SfEntry := ⟨r.order, r.addr, r.data, r.tag, widthCode r.len, c, r.hid, r.depth⟩
    let q := sfInsert t.sfq e
    ∃ s' t', exec (.storeFaultArrival n ext) s = .next s' ∧ s'.thread? r.tid = some t' ∧ t'.sfq = q.take 4 ∧
      t'.ovf = t.ovf + (if q.length ≤ 4 then 0 else 1) ∧ (∀ a, s'.byteAt a = s.byteAt a) ∧
      (t.state = .running → t.window = [] → t.wait = .none → ∃ p, t'.fault = some p ∧ p.cause = 0x18 ∧ p.kind = .store ∧ p.pc = t.pcc.lo ∧
        some p.addr = (q.head?).map SfEntry.addr ∧ t'.regs = t.regs) ∧
      (t.state = .faulted → t'.fault = none ∧ t'.state = .faulted)

/-- A request for a core's TCM window of this module that stands first in its line, for bytes not marked poisoned, is served at its target core with what a load, store or
atomic of its own finds there (WINDOW_LOAD_SERVE, WINDOW_STORE_APPLY: 01 R20, 11 R312). -/
def Obligations.WindowServed : Prop :=
  ∀ (s : State) (n : Nat) (r : Req) (c off : Nat) (fs : List Nat), tget s.reqs n = some r → r.phase = .sent →
    s.windowBehind n r = false → r.target = .core c → placeOf s.bridge.chip (coreOf r.tid) r.addr = .core c off →
    0 < r.len → r.pos = 0 → r.got = 0 → touchesAgent r.addr r.len = false → Spec.localBytes s (.core c off) r.len = some fs → c < 2 ^ 20 →
    s.Canonical → s.poisonedAt fs = false →
    (r.kind = .load → exec (.windowLoadServe (.mine n)) s =
      .next (s.setReq n { r with phase := .done (BitVec.ofNat 128 (leNat (fs.map s.byteAt))) (Spec.localTag s (.core c off) fs) 0 })) ∧
    (r.kind = .store → s.localHeld r.tid fs = false → ∃ s', exec (.windowStoreApply (.mine n)) s = .next s' ∧
      tget s'.reqs n = some { r with phase := .done 0 false 0 } ∧
      (∀ j a, fs[j]? = some a → tget s.dirty (a / 64) = none → s'.byteAt a = BitVec.ofNat 8 (r.data.toNat / 256 ^ j)) ∧
      (∀ a, a ∉ fs → s'.byteAt a = s.byteAt a)) ∧
    (∀ k, r.kind = .amo k → s.localHeld r.tid fs = false → ∃ s' tag fl, exec (.windowStoreApply (.mine n)) s = .next s' ∧
      tget s'.reqs n = some { r with phase := .done (BitVec.ofNat 128 (leNat (fs.map s.byteAt))) tag fl } ∧
      (∀ j a, fs[j]? = some a → tget s.dirty (a / 64) = none → s'.byteAt a = BitVec.ofNat 8
        ((Spec.amoValue k r.len (leNat (fs.map s.byteAt)) (r.data.toNat % 2 ^ (8 * r.len))).1 / 256 ^ j)) ∧
      (∀ a, a ∉ fs → s'.byteAt a = s.byteAt a))

namespace Sys2Proof.Spec
open Sys2Proof.Machine

/-- A watch instruction passes its checks on the capability: LD and WATCH over `n` bytes at the cursor, the address in form, aligned,
not among the agent registers (07 R207, R211). -/
abbrev watchPasses (c : Reg) (n : Nat) : Prop :=
  authorises c (permLD ||| permWATCH) c.lo.toNat n ∧ c.lo.toNat % n = 0 ∧ canonical c.lo = true ∧ touchesAgent c.lo n = false

/-- The request of an arming: for a slot of one byte's unit, or the hidden watch on a word with the value waited for. -/
def watchReq (s : State) (t : Thread) (slot : Nat) (hidden : Bool) (a : RegNo) (n : Nat) : Req :=
  s.reqOf t (.watch slot hidden) (t.reg a) (t.reg a).lo n

end Sys2Proof.Spec

/-- `warm` on the own core's TCM arms its slot at once: the destination takes the unit's sequence, the slot names the line and that
sequence, and memory is as it was. On global memory or another core's window the arming leaves as a request and the thread waits
for its holder (07 R206, R207). -/
def Sys2Proof.Rules.WatchArms : Prop :=
  ∀ (d a : RegNo) (i : BitVec 3) (s : State) (t : Thread), s.Issues t (.warm d a i) → Spec.watchPasses (t.reg a) 1 →
    (t.watch.getD i.toNat ⟨false, 0, 0⟩).armed = false → (∀ f ∈ s.firings, f.tid ≠ s.cur) →
    match placeOf s.bridge.chip (coreOf s.cur) (t.reg a).lo with
    | .core c off =>
      if c = coreOf s.cur then
        off < (s.core c).tcmPlain → (s.core c).quarantined = false → s.poisonedAt [flatTcm c off] = false →
          let unit := (s.core c).watches.find? (fun w => w.unit = flatTcm c (off / 64 * 64))
          let seq := (unit.map WatchUnit.seq).getD 0
          ∃ s' t', exec (.warm d a i) s = .next s' ∧ s'.thread? s.cur = some t' ∧ t'.pcc = t.pcc.withCursor t.following ∧
            (∀ r, t'.reg r = t.with d (Reg.ofNat seq) r) ∧
            t'.watch = lput ⟨false, 0, 0⟩ t.watch i.toNat ⟨true, (t.reg a).lo.toNat / 64, BitVec.ofNat 64 seq⟩ ∧ ∀ x, s'.byteAt x = s.byteAt x
      else
        ∃ s' t', exec (.warm d a i) s = .next s' ∧ s'.thread? s.cur = some t' ∧ t'.wait = .warm s.nextReq d i.toNat ∧ t'.pcc = t.pcc ∧
          t'.regs = t.regs ∧ s'.reqs = s.reqs ++ [(s.nextReq, { Spec.watchReq s t i.toNat false a 1 with target := .core c })]
    | .glob va =>
      ∃ s' t', exec (.warm d a i) s = .next s' ∧ s'.thread? s.cur = some t' ∧ t'.wait = .warm s.nextReq d i.toNat ∧ t'.pcc = t.pcc ∧
        t'.regs = t.regs ∧ s'.reqs = s.reqs ++ [(s.nextReq, { Spec.watchReq s t i.toNat false a 1 with target := s.homeFor t.part va })]
    | _ => True

/-- `waitge` on a word of the own core's TCM whose unsigned value has reached b's retires; otherwise it sleeps, its hidden watch
placed on the word (07 R211). On global memory its arming leaves as a request that keeps the value waited for. -/
def Sys2Proof.Rules.WaitForValue : Prop :=
  ∀ (a b : RegNo) (sc : Scope) (s : State) (t : Thread), s.Issues t (.waitge a b sc) → Spec.watchPasses (t.reg a) 8 →
    s.ownStoreOver s.cur t (t.reg a).lo 8 = false → s.releasePending t = false → tget s.reqs s.nextReq = none →
    match placeOf s.bridge.chip (coreOf s.cur) (t.reg a).lo with
    | .core c off =>
      c = coreOf s.cur → off + 8 ≤ (s.core c).tcmPlain → (s.core c).quarantined = false →
        s.poisonedAt ((List.range 8).map (fun j => flatTcm c off + j)) = false →
        ∃ s' t', exec (.waitge a b sc) s = .next s' ∧ s'.thread? s.cur = some t' ∧ t'.regs = t.regs ∧ t'.fpcsr = t.fpcsr ∧
          (∀ x, s'.byteAt x = s.byteAt x) ∧
          (if (t.reg b).lo.toNat ≤ leNat ((List.range 8).map (fun j => s.byteAt (flatTcm c off + j))) then
            t'.wait = .none ∧ t'.pcc = t.pcc.withCursor t.following ∧ t'.hidden = none
          else t'.wait = .waitge s.nextReq true ∧ t'.pcc = t.pcc ∧ t'.state = .sleeping ∧ t'.hidden = some (t.reg a).lo)
    | .glob va =>
      ∃ s' t', exec (.waitge a b sc) s = .next s' ∧ s'.thread? s.cur = some t' ∧ t'.wait = .waitge s.nextReq false ∧ t'.pcc = t.pcc ∧
        t'.regs = t.regs ∧ t'.hidden = some (t.reg a).lo ∧ tget s'.reqs s.nextReq = some
          { Spec.watchReq s t 0 true a 8 with data := (t.reg b).lo.setWidth 128, scope := sc, acq := true, target := s.homeFor t.part va }
    | _ => True

/-- `warm` and `waitge` check their capability, its alignment, form and place in order, and fault precisely (07 R207, R211). -/
def Sys2Proof.Rules.WatchFaults : Prop :=
  ∀ (a b d : RegNo) (k : BitVec 3) (sc : Scope) (s : State) (t : Thread) (i : Instr) (n : Nat), s.Issues t i →
    (i = .warm d a k ∧ n = 1 ∨ i = .waitge a b sc ∧ n = 8) →
    let c := t.reg a
    let cause : Option Byte :=
      if c.tag = false then some 0x05 else if c.sealed_ then some 0x06 else if c.has (permLD ||| permWATCH) = false then some 0x08
      else if (c.lo.toNat : Int) < (boundsOf c).1 ∨ (boundsOf c).2 < c.lo.toNat + n then some 0x07
      else if c.lo.toNat % n ≠ 0 then some 0x09
      else if canonical c.lo = false then some 0x16
      else if touchesAgent c.lo n then some 0x08 else none
    ∀ e, cause = some e → ∃ s' t', exec i s = .next s' ∧ s'.thread? s.cur = some t' ∧
      t.Faulting t' ⟨e, c.lo, .watch, Nat.log2 n⟩ s.cycle ∧ (∀ x, s'.byteAt x = s.byteAt x)

/-- What reaches a thread about its watches (07 R207 to R211): a firing disarms its slot, sets its fired bit and pend, and wakes a
`sleep`; a firing of the hidden watch wakes its `waitge`; the holder's reply to a `warm` arms the slot, writes the sequence and lets
it retire; the reply to a `waitge` compares; the reply to a `wdis` disarms the slot and lets it retire; a `waitge` whose hidden
watch has fired looks again; an `lres` hold that is over ends. A record of this module is named by its slot when its holder places it;
one that a peer holds is named with the reply. -/
def Obligations.WatchEvents : Prop :=
  ∀ (s : State) (n : Nat) (t : Thread), s.thread? n = some t → t.fault = none →
    (∀ i f w, s.firings[i]? = some f → f.tid = n → f.hidden = false → t.watch[f.slot]? = some w → w.armed = true →
      ∃ s' t', exec (.watchFire (.mine i)) s = .next s' ∧ s'.thread? n = some t' ∧ t'.pend = true ∧
        t'.watch[f.slot]? = some { w with armed := false } ∧ t'.fired = t.fired ||| BitVec.ofNat 8 (2 ^ f.slot) ∧ t'.regs = t.regs ∧
        (t.wait = .sleep → t.state = .sleeping → t'.state = .running ∨ t'.state = .ready)) ∧
    (∀ (slot : BitVec 3) w, t.watch[slot.toNat]? = some w → w.armed = true →
        s.hasRecord (fun x => x.isOf s.bridge.chip n slot.toNat false) = false →
      ∃ s' t', exec (.watchFire (.peer n slot false)) s = .next s' ∧ s'.thread? n = some t' ∧ t'.pend = true ∧
        t'.watch[slot.toNat]? = some { w with armed := false } ∧ t'.fired = t.fired ||| BitVec.ofNat 8 (2 ^ slot.toNat) ∧ t'.regs = t.regs) ∧
    (∀ i f id, s.firings[i]? = some f → f.tid = n → f.hidden = true → t.wait = .waitge id true → t.state = .sleeping →
      ∃ s' t', exec (.watchFire (.mine i)) s = .next s' ∧ s'.thread? n = some t' ∧ t'.hiddenFired = true ∧ t'.regs = t.regs ∧
        (t'.state = .running ∨ t'.state = .ready)) ∧
    (∀ id d slot r bits tag fl ext, t.wait = .warm id d slot → tget s.reqs id = some r → r.phase = .done bits tag fl →
        s.replyBehind id r = false →
      ∃ s' t', exec (.watchArmReply n ext) s = .next s' ∧ s'.thread? n = some t' ∧ t'.wait = .none ∧
        t'.pcc = t.pcc.withCursor t.following ∧ (∀ x, t'.reg x = t.with d (Reg.ofNat bits.toNat) x) ∧ t'.watch = t.watch) ∧
    (∀ id d slot r v tag, t.wait = .warm id d slot → tget s.reqs id = some r → r.phase = .atHost →
        s.replyBehind id r = false → s.sentToHost id = false →
        (t.watch.getD slot ⟨false, 0, 0⟩).armed = false → (∀ f ∈ s.firings, f.tid ≠ n) →
      ∃ s' t', exec (.watchArmReply n (.data v tag)) s = .next s' ∧ s'.thread? n = some t' ∧ t'.wait = .none ∧
        t'.pcc = t.pcc.withCursor t.following ∧ (∀ x, t'.reg x = t.with d (Reg.ofNat v.toNat) x) ∧
        t'.watch = lput ⟨false, 0, 0⟩ t.watch slot ⟨true, r.addr.toNat / 64, BitVec.ofNat 64 v.toNat⟩) ∧
    (∀ id r bits tag fl ext, t.wait = .waitge id false → tget s.reqs id = some r → r.phase = .done bits tag fl →
        s.replyBehind id r = false →
      ∃ s' t', exec (.watchArmReply n ext) s = .next s' ∧ s'.thread? n = some t' ∧ t'.regs = t.regs ∧
        (if r.data.toNat ≤ bits.toNat % 2 ^ 64 then t'.wait = .none ∧ t'.pcc = t.pcc.withCursor t.following
        else t'.wait = .waitge id true ∧ t'.pcc = t.pcc)) ∧
    (∀ slot m w, t.wait = .wdis slot m → s.sentBefore (coreOf n) m (s.watchCores n t slot) = false →
        (∀ f ∈ s.firings, f.tid ≠ n) → t.watch[slot]? = some w → w.armed = true →
        s.hasRecord (fun x => x.isOf s.bridge.chip n slot false) = true →
      ∃ s' t', exec (.wdisReply n) s = .next s' ∧ s'.thread? n = some t' ∧ t'.wait = .none ∧ t'.pcc = t.pcc.withCursor t.following ∧
        t'.watch = lput ⟨false, 0, 0⟩ t.watch slot { w with armed := false } ∧ t'.regs = t.regs) ∧
    (∀ id r va ext, t.wait = .waitge id true → t.hiddenFired = true → t.state = .running → tget s.reqs id = some r →
        (∀ chip, r.target ≠ .peer chip) → placeOf s.bridge.chip (coreOf n) r.addr = .glob va →
      ∃ s' t', exec (.waitgeRecheck n ext) s = .next s' ∧ s'.thread? n = some t' ∧ t'.wait = .waitge id false ∧ t'.pcc = t.pcc ∧
        t'.hidden = some r.addr ∧ tget s'.reqs id = some { r with target := s.homeFor r.part va, phase := .sent }) ∧
    (∀ r, t.resv = some r → ∃ s' t', exec (.lresHoldExpiry n) s = .next s' ∧ s'.thread? n = some t' ∧
      t'.resv = some (if r.holdEnd ≤ s.cycle then { r with holdEnd := 0 } else r) ∧ t'.regs = t.regs)

/-- At its home slice, which finds it at `l` (09 R268), a load of sound data takes the bytes its view sees there, little-endian, with
the tag of their quad; where the line may be cached and nothing stands in the way, the fill's state is the directory's answer. Of a host
page only 8 bytes are read at once: the lower half of a quad first (07 R190). No byte of memory changes (08 R228, R229; 15 R406). -/
def Sys2Proof.Rules.HomeRead : Prop :=
  ∀ (s : State) (n cl : Nat) (r : Req), tget s.reqs n = some r → r.target = .home cl → r.kind = .load → s.homeReady n r = true →
    (∀ (s1 : State) (l : Loc), s.homeFind n r cl false = (s1, some (l, false)) →
    (l.cached = false → r.firstHalf l = false → r.pos = 0 → r.got = 0 → s1.viewPoisoned l r.hid r.len = false →
      let v := s1.viewRead l r.hid r.len
      ∃ s', exec (.homeReadRequest n) s = .next s' ∧
        tget s'.reqs n = some { r with phase := .done (BitVec.ofNat 128 (leNat v.1)) v.2 0 } ∧ ∀ a, s'.byteAt a = s1.byteAt a) ∧
    (l.cached = false → r.firstHalf l = true → s1.viewPoisoned l r.hid 8 = false → ∃ s', exec (.homeReadRequest n) s = .next s' ∧
      tget s'.reqs n = some { r with pos := 8, got := r.got ||| BitVec.ofNat 128 (leNat (s1.viewRead l r.hid 8).1), phase := .sent } ∧
      ∀ a, s'.byteAt a = s1.byteAt a) ∧
    (l.cached = false → r.firstHalf l = false → r.pos = 0 → s1.viewPoisoned l r.hid r.len = true →
      ∃ s', exec (.homeReadRequest n) s = .next s' ∧ tget s'.reqs n = some { r with fill := none, phase := .fault 0x38 }) ∧
    (∀ s2, l.cached = true → r.hint ≠ .b → r.firstHalf l = false → s1.poison = [] →
      (s1.seeUnit cl l.part l.line true).makesRoom n r l (s1.needsEntry l (coreOf r.tid) (s1.noE l r.hid)) = (s2, true) →
      s2.ownerInWay l (coreOf r.tid) (s1.noE l r.hid) = none →
      ∃ s' bits tag fill, exec (.homeReadRequest n) s = .next s' ∧
        tget s'.reqs n = some { r with fill := fill, phase := .done bits tag 0 })) ∧
    (∀ p t, s.Mapped r.part r.addr.toNat .read r.host p t → p.homeOf r.addr.toNat = cl → s.refuted r.part r.hid = false → r.pos = 0 → r.got = 0 →
      let l := p.found t r.part r.addr.toNat
      l.cached = false → r.firstHalf l = false → s.viewPoisoned l r.hid r.len = false →
      let v := s.viewRead l r.hid r.len
      ∃ s', exec (.homeReadRequest n) s = .next s' ∧ tget s'.reqs n = some { r with phase := .done (BitVec.ofNat 128 (leNat v.1)) v.2 0 } ∧
        ∀ a, s'.byteAt a = s.byteAt a)

/-- A watch on a global line is placed at its home slice, once an owner has given the line up and the slot's old record is gone:
the slot names the line, and the arming's answer is the line's sequence (07 R207, 08 R245). -/
def Sys2Proof.Rules.HomeWatch : Prop :=
  ∀ (s : State) (n cl slot : Nat) (r : Req), tget s.reqs n = some r → r.target = .home cl → r.kind = .watch slot false → s.homeReady n r = true →
    (∀ (s1 s2 s3 s4 : State) (l : Loc) (seq : Nat), s.homeFind n r cl false = (s1, some (l, false)) →
      (s1.seeUnit cl l.part l.line true).givenUp n r l = (s2, true) → s2.disarm r.tid slot = some s3 →
      s3.placeGlobal cl l.part l.line (r.watchRec s.bridge.chip slot false) = some (s4, seq) →
      exec (.homeReadRequest n) s = .next ((s4.modThread r.tid (fun t => t.armEntry slot r.addr seq)).setReq n
        { r with phase := .done (BitVec.ofNat 128 seq) false 0 })) ∧
    (∀ p e t, s.Mapped r.part r.addr.toNat .watch r.host p e → p.homeOf r.addr.toNat = cl → s.refuted r.part r.hid = false →
      s.thread? r.tid = some t → (t.watch.getD slot ⟨false, 0, 0⟩).armed = false → (∀ f ∈ s.firings, f.tid ≠ r.tid) →
      let l := p.found e r.part r.addr.toNat
      (s.cluster cl).unit? l.part l.line = none → (s.cluster cl).recordCount < 65536 →
      ∃ s' seq, exec (.homeReadRequest n) s = .next s' ∧ tget s'.reqs n = some { r with phase := .done (BitVec.ofNat 128 seq) false 0 } ∧
        s'.thread? r.tid = some (t.armEntry slot r.addr seq) ∧
        ∃ w ∈ (s'.cluster cl).watches, w.part = l.part ∧ w.unit = l.line ∧ r.watchRec s.bridge.chip slot false ∈ w.recs)

/-- A store at its home slice to a line that no cache may hold: its bytes stand at the line's flat address, and no other byte
changes; of 16 bytes to a host page the lower 8 stand first, and the upper 8 are an access of their own (08 R229; 15 R404; 07 R190). -/
def Sys2Proof.Rules.HomeStore : Prop :=
  ∀ (s : State) (n cl : Nat) (r : Req), tget s.reqs n = some r → r.target = .home cl → r.kind = .store → s.homeReady n r = true → r.pos = 0 →
    (∀ p t, s.Mapped r.part r.addr.toNat .write r.host p t → p.homeOf r.addr.toNat = cl → r.hid = 0 → s.refuted r.part 0 = false → s.Canonical →
      let l := p.found t r.part r.addr.toNat
      l.cached = false → r.firstHalf l = false → s.heldByOther (some r.tid) (s.resvOnLine l.part l.line l.flat) = false → s.ovfFull l = false →
      ∃ s', exec (.homeStoreRequest n) s = .next s' ∧ tget s'.reqs n = some { r with phase := .done 0 false 0 } ∧
        (∀ j, j < r.len → tget s.dirty ((l.flat + j) / 64) = none → s'.byteAt (l.flat + j) = BitVec.ofNat 8 (r.data.toNat / 256 ^ j)) ∧
        (∀ a, (a < l.flat ∨ l.flat + r.len ≤ a) → s'.byteAt a = s.byteAt a)) ∧
    ∀ (s1 : State) (l : Loc) (z : Bool), s.homeFind n r cl true = (s1, some (l, z)) → l.cached = false → s1.Canonical →
    s1.heldByOther (some r.tid) (s1.resvOnLine l.part l.line l.flat) = false → s1.ovfFull l = false →
    let m := if r.firstHalf l then 8 else r.len
    ∃ s', exec (.homeStoreRequest n) s = .next s' ∧
      tget s'.reqs n = some (if r.firstHalf l then { r with pos := 8, phase := .sent } else { r with phase := .done 0 false 0 }) ∧
      (∀ j, j < m → tget s1.dirty ((l.flat + j) / 64) = none → s'.byteAt (l.flat + j) = BitVec.ofNat 8 (r.data.toNat / 256 ^ j)) ∧
      (∀ a, (a < l.flat ∨ l.flat + m ≤ a) → s'.byteAt a = s1.byteAt a)

/-- A cached store: with no unit tracked for its line it is performed, whole, in the slice (08 R229). -/
def Sys2Proof.Rules.HomeCachedStore : Prop :=
  ∀ (s s1 : State) (n cl : Nat) (r : Req) (l : Loc) (z : Bool), tget s.reqs n = some r → r.target = .home cl → r.kind = .store →
    s.homeReady n r = true → s.homeFind n r cl true = (s1, some (l, z)) → l.cached = true → l.cl = cl → s1.Canonical →
    (s1.cluster cl).unit? l.part l.line = none → s1.effective r.part r.hid = 0 → l.flat % 64 + r.len ≤ 64 → s1.NoStale → r.pos = 0 → r.firstHalf l = false →
    s1.heldByOther (some r.tid) (s1.resvOnLine l.part l.line l.flat) = false → s1.ovfFull l = false →
    ∃ s', exec (.homeStoreRequest n) s = .next s' ∧ tget s'.reqs n = some { r with phase := .done 0 false 0 } ∧
      (∀ j, j < r.len → s'.byteAt (l.flat + j) = BitVec.ofNat 8 (r.data.toNat / 256 ^ j)) ∧
      (∀ a, (a < l.flat ∨ l.flat + r.len ≤ a) → s'.byteAt a = s1.byteAt a)

/-- An atomic at its home slice, on sound data, is one step: the answer is the old value its view sees (`scond`: whether it wrote), and where it
writes, its new value stands there (07 R199 to R201, R217). -/
def Obligations.HomeAtomic : Prop :=
  ∀ (s : State) (n cl k : Nat) (r : Req), tget s.reqs n = some r → r.target = .home cl → r.kind = .amo k → s.homeReady n r = true →
    (∀ p t, s.Mapped r.part r.addr.toNat .amo r.host p t → p.homeOf r.addr.toNat = cl → r.hid = 0 → s.refuted r.part 0 = false → s.Canonical →
      let l := p.found t r.part r.addr.toNat
      l.cached = false → s.heldByOther (some r.tid) (s.resvOnLine l.part l.line l.flat) = false → s.ovfFull l = false →
      s.viewPoisoned l 0 r.len = false →
      let v := s.viewRead l 0 r.len
      let e := Spec.amoValue k r.len (leNat v.1) (r.data.toNat % 2 ^ (8 * r.len))
      ∃ s', exec (.homeAtomic n) s = .next s' ∧ tget s'.reqs n = some { r with phase := .done (BitVec.ofNat 128 (leNat v.1)) v.2 e.2 } ∧
        (∀ j, j < r.len → tget s.dirty ((l.flat + j) / 64) = none → s'.byteAt (l.flat + j) = BitVec.ofNat 8 (e.1 / 256 ^ j)) ∧
        (∀ a, (a < l.flat ∨ l.flat + r.len ≤ a) → s'.byteAt a = s.byteAt a)) ∧
    ∀ (s1 : State) (l : Loc), s.homeFind n r cl true = (s1, some (l, false)) → l.cached = false → s1.Canonical →
    s1.heldByOther (some r.tid) (s1.resvOnLine l.part l.line l.flat) = false → s1.ovfFull l = false →
    s1.viewPoisoned l r.hid r.len = false →
    let v := s1.viewRead l r.hid r.len
    let e := Spec.amoValue k r.len (leNat v.1) (r.data.toNat % 2 ^ (8 * r.len))
    ∃ s', exec (.homeAtomic n) s = .next s' ∧
      tget s'.reqs n = some { r with phase := .done (BitVec.ofNat 128 (leNat v.1)) v.2 e.2 } ∧
      (∀ j, j < r.len → tget s1.dirty ((l.flat + j) / 64) = none → s'.byteAt (l.flat + j) = BitVec.ofNat 8 (e.1 / 256 ^ j)) ∧
      (∀ a, (a < l.flat ∨ l.flat + r.len ≤ a) → s'.byteAt a = s1.byteAt a)

/-- The rest of a home slice: a returned request is sent again after its 64 cycles; an access held for a page move faults with 0x13,
one held for version room with 0x21, once the partition's hold limit has passed; a recall or invalidation reaches its core and
takes its copy away (a recall of a read leaves it in S); an access held for version room is performed when its line can be had; a ticket not returned within 2^20 cycles is retired with a kind 6 record; two quiet
sibling units with one owner merge (08 R233, R236, R244, R255; 09 R272; 15 R411). -/
def Obligations.SliceEvents : Prop :=
  ∀ (s : State) (n : Nat) (r : Req), tget s.reqs n = some r →
    (∀ at_, r.phase = .retry at_ → at_ ≤ s.cycle → exec (.requestRetry n) s = .next (s.setReq n { r with phase := .sent })) ∧
    (∀ since, r.phase = .migrating since → s.holdLimit r.part ≤ s.cycle - since →
      ∃ s', exec (.migrationHoldExpiry n) s = .next s' ∧ tget s'.reqs n = some { r with phase := .fault 0x13 }) ∧
    (∀ since, r.phase = .version since → s.holdLimit r.part ≤ s.cycle - since →
      exec (.versionHoldExpiry n) s = .next (s.setReq n { r with phase := .fault 0x21 })) ∧
    (∀ i p, s.probes[i]? = some p → s.fillOnWay p.core p.part p.line = false → p.recalled = false →
      ∃ s', exec (.probeArrival i) s = .next s' ∧ s'.probes = s.probes.eraseIdx i ∧
        (∀ x ∈ (s'.core p.core).l1, ¬(x.part = p.part ∧ x.line = p.line)) ∧
        (s.Canonical → s.NoStale → ∀ a, s'.byteAt a = s.byteAt a)) ∧
    (∀ cl id (x : Ticket), (s.cluster cl).tickets.find? (fun t => t.id = id) = some x → x.since + 2 ^ 20 ≤ s.cycle →
        (s.cluster cl).ovfQ.length < 1024 → ∃ s', exec (.ticketRetire cl id) s = .next s' ∧ x ∉ (s'.cluster cl).tickets ∧
        ∃ q, (s'.cluster cl).ovfQ = q ++ [⟨6, BitVec.ofNat 64 (64 * x.base + x.k), 0, 0, 0, false, 0, 0, false, 0, x.id⟩]) ∧
    (∀ cl part c a b, a < b → b = a + 1 → a % 2 = 0 → (s.cluster cl).dir = [⟨part, a, 0, .owned c, 0, 0⟩, ⟨part, b, 0, .owned c, 0, 0⟩] →
        65536 ≤ s.cycle → ∃ s', exec (.unitMerge cl part a) s = .next s' ∧ (s'.cluster cl).dir = [⟨part, a, 1, .owned c, 0, 0⟩]) ∧
    (∀ cl, r.phase = .version s.cycle → r.kind = .store → r.target = .home cl → s.reqs = [(n, r)] →
        s.needsRoom ⟨r.part, r.addr.toNat, cl, 0, true⟩ (s.effective r.part r.hid) = false →
      exec (.versionLineGrant cl r.part) s = .next (s.homeStore n { r with phase := .sent } cl true))

namespace Sys2Proof.Spec
open Sys2Proof.Machine

/-! ## Commands (01 R31 to R41) -/

/-- A capability operand passes: it authorises `n` bytes at its cursor with the permissions `p`, its cursor is in form and the span
does not touch the agent registers (01 R23, 04 R109, 05 R166). -/
abbrev okOperand (c : Reg) (p : BitVec 14) (n : Nat) : Prop :=
  authorises c p c.lo.toNat n ∧ canonical c.lo = true ∧ touchesAgent c.lo n = false

/-- A completion cell passes: 16 bytes, 16-byte aligned, ST and AMO (01 R37). -/
abbrev okCell (c : Reg) : Prop := okOperand c (permST ||| permAMO) 16 ∧ c.lo.toNat % 16 = 0

/-- With `.rel` a command does not issue until the thread's earlier stores have settled (07 R195). -/
abbrev okRel (x : Cx) (t : Thread) : Prop := x.rel = true → t.stores = []

/-- A member of `cc` with its code and hint (08 R247). -/
def ccForm (i : Instr) : Option (CcOp × Hint × RegNo × RegNo × RegNo × Cx) :=
  match i with
  | .ccCln a b c x => some (.cln, .none, a, b, c, x)
  | .ccFls a b c x => some (.fls, .none, a, b, c, x)
  | .ccInv a b c x => some (.inv, .none, a, b, c, x)
  | .ccPf h a b c x => some (.pf, h, a, b, c, x)
  | .ccRsd h a b c x => some (.rsd, h, a, b, c, x)
  | _ => none

/-- A `cc` passes its checks: at most 2^32 bytes under the range's capability with ENG and LD (ST for `inv`), a cell, and for `inv`
under a node UNV (08 R247, R248). -/
abbrev ccPasses (t : Thread) (op : CcOp) (a b c : RegNo) : Prop :=
  let n := (t.reg b).bits.toNat
  n ≤ 2 ^ 32 ∧ okOperand (t.reg a) ((if op = .inv then permST else permLD) ||| permENG) n ∧ okCell (t.reg c) ∧
    (op = .inv → t.hid = 0 ∨ (t.reg a).unv = true)

end Sys2Proof.Spec

/-- A cache-control command whose checks pass is accepted and its thread goes on: a length of zero or a window address does nothing;
otherwise it acts on each line of the range in rising order, and completes with status 0, or with the cause and the offset of the line
where an access failed; where an access is held it stays accepted and waits (08 R247; 01 R31, R34). -/
def Obligations.CacheControl : Prop :=
  ∀ (i : Instr) (op : CcOp) (h : Hint) (a b c : RegNo) (x : Cx) (s : State) (t : Thread), Spec.ccForm i = some (op, h, a, b, c, x) →
    s.Issues t i → Spec.okRel x t → Spec.ccPasses t op a b c →
    let n := (t.reg b).bits.toNat
    let start := (t.reg a).lo.toNat
    let cmd := t.cmd s.cur x (t.reg c)
    let r := s.ccFrom op cmd.party (t.reg a).hostBit h ((start + n - 1) / 64 - start / 64 + 1) (start / 64)
    ((n = 0 ∨ (t.reg a).lo.getLsbD 63 = true) → exec i s = .next (s.finish i t (.retire (s.complete cmd 0)))) ∧
    (n ≠ 0 → (t.reg a).lo.getLsbD 63 = false →
      (∀ s1 k, r = (s1, .ok (), k) → exec i s = .next (s.finish i t (.retire (s1.complete cmd 0)))) ∧
      (∀ s1 e k, r = (s1, .fault e, k) → exec i s = .next (s.finish i t (.retire (s1.complete cmd (faultStatus e (64 * k - start)))))) ∧
      (∀ s1 k, r = (s1, .hold, k) → exec i s = .next (s.finish i t (.pend (s.keepWaiting s1) cmd))))

/-- What cache control leaves of one line once nothing is in its way: `cln` and `fls` leave every byte as it reads and memory itself
holding it; after `inv` the line reads as memory holds it, and memory is as it was where the line is not tracked; `pf` and `rsd` change
no byte; `fls` and `inv` leave no copy in any L1 (08 R248). -/
def Obligations.CacheLineEffect : Prop :=
  ∀ (s s' : State) (l : Loc) (core : Nat) (h : Hint), s.Canonical → s.NoStale →
    (s.ccLine .cln l core h = (s', .nothing) →
      (∀ a, s'.byteAt a = s.byteAt a) ∧ ∀ a, a / 64 = l.flat / 64 → memGet s'.mem a = s.byteAt a) ∧
    (s.ccLine .fls l core h = (s', .nothing) →
      (∀ a, s'.byteAt a = s.byteAt a) ∧ (∀ a, a / 64 = l.flat / 64 → memGet s'.mem a = s.byteAt a) ∧
      ∀ c k, (c, k) ∈ s'.cores → ∀ y ∈ k.l1, ¬(y.part = l.part ∧ y.line = l.line)) ∧
    (s.ccLine .inv l core h = (s', .nothing) →
      (∀ a, s'.byteAt a = if a / 64 = l.flat / 64 then memGet s'.mem a else s.byteAt a) ∧
      ((s.cluster l.cl).unit? l.part l.line = none → s'.mem = s.mem) ∧
      ∀ c k, (c, k) ∈ s'.cores → ∀ y ∈ k.l1, ¬(y.part = l.part ∧ y.line = l.line)) ∧
    (∀ a, (s.ccLine .pf l core h).1.byteAt a = s.byteAt a) ∧
    (∀ a, (s.ccLine .rsd l core h).1.byteAt a = s.byteAt a)

/-- The darner's commands (08 R240 to R242). A thread that is not the slice's darner is told 0x82. `dx.next` makes its thread the
darner where there is none and waits for records; `dx.done` returns a ticket, or is told 0x80; `dx.inv` invalidates the lines of a
unit in the sharer it names, or wakes a watch. -/
def Obligations.DarnerCommands : Prop :=
  ∀ (a b c : RegNo) (x : Cx) (s : State) (t : Thread), Spec.okRel x t → Spec.okCell (t.reg c) → (t.reg c).has permDIRH = true →
    (t.hid = 0 ∨ (t.reg c).unv = true) →
    let cl := clusterOf (coreOf s.cur)
    let k := s.cluster cl
    let cmd := t.cmd s.cur x (t.reg c)
    let qa := (t.reg a).bits
    let qb := (t.reg b).bits
    let stated (i : Instr) (s1 : State) (st : Word) : Prop := exec i s = .next (s.finish i t (.retire (s1.complete cmd st)))
    (s.Issues t (.dxNext a b c x) → 1 ≤ qb.toNat → qb.toNat ≤ 1024 → Spec.okOperand (t.reg a) (permST ||| permENG) (32 * qb.toNat) →
        (t.reg a).lo.toNat % 32 = 0 →
      (∀ n, k.darner = some n → n ≠ s.cur → stated (.dxNext a b c x) s 0x82) ∧
      ((k.darner = none ∨ k.darner = some s.cur) → k.dxWait.isSome = true → stated (.dxNext a b c x) s 0x81) ∧
      ((k.darner = none ∨ k.darner = some s.cur) → k.dxWait = none →
        exec (.dxNext a b c x) s = .next (s.finish (.dxNext a b c x) t (.retire
          ((s.setCluster cl { k with darner := some s.cur, dxWait := some (cmd, qb.toNat, t.reg a) }).dxServe cl))))) ∧
    (s.Issues t (.dxDone a b c x) → qa.toNat < 2 ^ 16 → qb = 0 →
      (k.darner ≠ some s.cur → stated (.dxDone a b c x) s 0x82) ∧
      (∀ u, k.darner = some s.cur → k.tickets.find? (fun u => u.id = qa.toNat) = some u →
        stated (.dxDone a b c x) (s.ticketReturned cl u) 0) ∧
      (k.darner = some s.cur → (∀ u ∈ k.tickets, u.id ≠ qa.toNat) → stated (.dxDone a b c x) s 0x80)) ∧
    (∀ i, i = .dxInvInvalidate a b c x ∨ i = .dxInvWake a b c x → s.Issues t i → s.dxInvBad qa qb = false →
      (k.darner ≠ some s.cur → stated i s 0x82) ∧
      (k.darner = some s.cur → dxOp qa = 0 → stated i (s.dxInvalidate t.part qa qb) 0) ∧
      (k.darner = some s.cur → dxOp qa = 1 → stated i (s.dxWake cmd qa qb).1 (s.dxWake cmd qa qb).2))

namespace Sys2Proof.Spec
open Sys2Proof.Machine

/-- A range operand passes: XLAT over its `len` bytes, global and in form (09 R279). -/
abbrev okRange (c : Reg) (len : Nat) : Prop :=
  0 < len ∧ len ≤ 2 ^ 48 ∧ okOperand c permXLAT len ∧ c.lo.getLsbD 63 = false

/-- A range of whole pages (09 R279). -/
abbrev okPages (c : Reg) (len : Nat) : Prop := okRange c len ∧ c.lo.toNat % 4096 = 0 ∧ len % 4096 = 0

/-- Nothing of a span is on its way, and none of its lines must be invalidated by the darner (08 R237; 09 R282, R283). -/
abbrev quiet (s : State) (r : Span) : Prop := (∀ x ∈ s.reqs, r.has x.2.part x.2.addr.toNat = false) ∧ s.ticketIn r = none

end Sys2Proof.Spec

/-- `xinv` drops the translations of its span, of the whole partition where its length is zero, and has what was held translated
again; it completes with 0 where no access translated before is still on its way, and else stays accepted and waits (09 R280). `xprobe`
writes what it finds as 32 bytes, and completes with 0 (R281). -/
def Sys2Proof.Rules.TranslationCommands : Prop :=
  ∀ (a b c : RegNo) (x : Cx) (s : State) (t : Thread), Spec.okRel x t → Spec.okCell (t.reg c) →
    (t.hid = 0 ∨ (t.reg c).unv = true) →
    let cmd := t.cmd s.cur x (t.reg c)
    let q := (t.reg b).bits
    let lo := (t.reg a).lo.toNat
    (∀ r : Span, s.Issues t (.xinv a b c x) →
        ((q = 0 ∧ Spec.authorises (t.reg a) permXLAT 0 (2 ^ 57) ∧ canonical (t.reg a).lo = true ∧ (t.reg a).lo.getLsbD 63 = false ∧ r = ⟨t.part, 0, 2 ^ 57⟩) ∨
         (Spec.okRange (t.reg a) q.toNat ∧ r = ⟨t.part, lo, lo + q.toNat⟩)) →
      let s1 := (s.dropSpan r).releaseHeld r
      let n := s1.nextReq + 1
      exec (.xinv a b c x) s = .next (s.finish (.xinv a b c x) t
        (if s1.unperformed r n then .pend s1 { cmd with pos := n } else .retire (s1.complete cmd 0))) ∧
      ((∀ y ∈ s.reqs, r.has y.2.part y.2.addr.toNat = false) →
        exec (.xinv a b c x) s = .next (s.finish (.xinv a b c x) t (.retire (s1.complete cmd 0))))) ∧
    (∀ p, s.Issues t (.xprobe a b c x) → Spec.okOperand (t.reg a) permXLAT 1 → (t.reg a).lo.getLsbD 63 = false →
        Spec.okOperand (t.reg b) (permST ||| permENG) 32 → (t.reg b).lo.toNat % 32 = 0 → tget s.parts t.part = some p →
      let found := s.probe p t.part lo
      (∀ s1, found.1.engWrite cmd.party (t.reg b).lo found.2 (t.reg b).hostBit (t.reg b).unv false = (s1, .ok ()) →
        exec (.xprobe a b c x) s = .next (s.finish (.xprobe a b c x) t (.retire (s1.complete cmd 0)))) ∧
      ∀ fs, s.Here (coreOf s.cur) (t.reg b).lo 32 fs → (t.hid = 0 ∨ (t.reg b).unv = true) →
        exec (.xprobe a b c x) s = .next (s.finish (.xprobe a b c x) t
          (.retire ((found.1.put (coreOf s.cur) (t.reg b).lo fs found.2).complete cmd 0))))

/-- `pgdisc` and `pgmig` over the leaves of their range, at the first of them (09 R282, R283): a byte that no leaf holds, or a leaf
not whole in the range, ends them with the cause 0x10 or 0x30 and its offset. Where nothing of the leaf is on its way and the range
ends with it, `pgdisc` leaves it discarded and completes with 0, and `pgmig` between two placements in this module's memory leaves
it copied and placed and completes with 0. Where an access to the leaf is on its way the leaf is marked and the command waits. -/
def Sys2Proof.Rules.PageCommands : Prop :=
  ∀ (a b c : RegNo) (x : Cx) (s : State) (t : Thread), Spec.okRel x t → Spec.okCell (t.reg c) →
    (t.hid = 0 ∨ (t.reg c).unv = true) →
    let cmd := t.cmd s.cur x (t.reg c)
    let lo := (t.reg a).lo.toNat
    ∀ (i : Instr) (len : Nat), s.Issues t i → Spec.okPages (t.reg a) len →
      (i = .pgdisc a b c x ∧ (t.reg b).bits.toNat = len) ∨ (i = .pgmig a b c x ∧ (t.reg b).bits.toNat / 2 ^ 64 = len ∧ (t.reg b).bits.toNat % 2 ^ 9 = 0) →
      (∀ cause off, s.leafIn t.part lo len 0 = .inr (cause, off) →
        (cause = 0x10 ∨ cause = 0x30) ∧ exec i s = .next (s.finish i t (.retire (s.complete cmd (faultStatus cause off))))) ∧
      (∀ f, s.leafIn t.part lo len 0 = .inl f →
        let r := f.span t.part lo
        let gone := (s.markLeaf f r 0x100#64).releaseHeld r
        let moving := s.markLeaf f r 0x80#64
        let ppn := ptePpn (t.reg b).lo
        (i = .pgdisc a b c x → gone.unperformed r gone.nextReq = true → exec i s = .next (s.finish i t (.pend gone cmd))) ∧
        (i = .pgdisc a b c x → Spec.quiet s r → f.next = len →
          exec i s = .next (s.finish i t (.retire ((gone.forgetLeaf f r).complete cmd 0)))) ∧
        (i = .pgmig a b c x → ppnOk (pteTgt (t.reg b).lo) ppn f.lg = false →
          exec i s = .next (s.finish i t (.retire (s.complete cmd (faultStatus 0x30 0))))) ∧
        (i = .pgmig a b c x → ppnOk (pteTgt (t.reg b).lo) ppn f.lg = true → moving.unperformed r moving.nextReq = true →
          exec i s = .next (s.finish i t (.pend moving cmd))) ∧
        (i = .pgmig a b c x → ppnOk (pteTgt (t.reg b).lo) ppn f.lg = true → Spec.quiet s r → f.next = len →
            pteTgt (t.reg b).lo = 0 → pteTgt f.e = 0 → s.poison = [] →
          ∃ s1 va, (moving.flushLeaf f r).copyPage { cmd.party with hid := 0 } 0 0 (2 ^ f.lg / 64) lo (f.target lo) (ppn * 4096) = (s1, .ok (), va) ∧
            exec i s = .next (s.finish i t (.retire ((s1.placeLeaf f r (t.reg b).lo ppn).complete cmd 0)))))

/-- A discarded leaf has its dsc bit (bit 8) set in memory in every entry of it, and none of its lines is left in an L1 or a slice,
and no version of them (09 R282). -/
def Sys2Proof.Rules.DiscardedLeaf : Prop :=
  ∀ (s : State) (f : Leaf) (r : Span), s.Canonical →
    (∀ a ∈ f.entries, (memWord (s.markLeaf f r 0x100#64).mem a).getLsbD 8 = true) ∧
    (∀ c k, (c, k) ∈ (s.forgetLeaf f r).clusters →
      (∀ v ∈ k.versions, r.has v.part (64 * v.line) = false) ∧ ∀ y ∈ k.data, r.has y.part (64 * y.line) = false) ∧
    (∀ c k, (c, k) ∈ (s.forgetLeaf f r).cores → ∀ y ∈ k.l1, r.has y.part (64 * y.line) = false)

namespace Sys2Proof.Spec
open Sys2Proof.Machine

/-- An agent command with its member, its operands and order (05 R145). -/
def agentForm (i : Instr) : Option (AgentOp × RegNo × RegNo × RegNo × Cx) :=
  match i with
  | .spawn a b c x => some (.spawn, a, b, c, x)
  | .tstop a b c x | .tstopRetire a b c x => some (.tstop, a, b, c, x)
  | .tstart a b c x => some (.tstart, a, b, c, x)
  | .tread a b c x => some (.tread, a, b, c, x)
  | .twrite a b c x => some (.twrite, a, b, c, x)
  | .tstat a b c x | .tstatCluster a b c x => some (.tstat, a, b, c, x)
  | .agrant a b c x => some (.agrant, a, b, c, x)
  | .arevoke a b c x => some (.arevoke, a, b, c, x)
  | .sfreplay a b c x => some (.sfreplay, a, b, c, x)
  | _ => none

/-- The right a member needs over its target (05 R140, R145). -/
def agentRight (op : AgentOp) : Byte :=
  match op with
  | .tstop => 1 | .tstart => 2 | .tread | .tstat => 4 | .twrite | .sfreplay => 8 | .agrant | .arevoke => 16 | .spawn => 64

/-- An agent command passes its checks: its reference and data hold no reserved value, its cell and its image operand pass, a member
that changes a thread has a UNV cell under a node, and the issuer has authority or entries for the target's agent to decide
(05 R147, R142, R155). -/
abbrev agentPasses (s : State) (t : Thread) (op : AgentOp) (a b c : RegNo) : Prop :=
  let ra := t.reg a
  let rb := t.reg b
  okCell (t.reg c) ∧
  (op = .spawn → rb.bits.toNat < 2 ^ 21 ∧ okOperand ra (permLD ||| permST ||| permENG) 2048 ∧ ra.lo.toNat % 2048 = 0) ∧
  (op ≠ .spawn → refBad op ra.bits = false ∧ dataBad op rb.bits = false ∧ (refChip ra.bits ≤ 287 ∨ refChip ra.bits = 0x1FF)) ∧
  (op = .tread → okOperand rb (permST ||| permENG) 2048 ∧ rb.lo.toNat % 64 = 0) ∧
  (op = .twrite → okOperand rb (permLD ||| permENG) 2048 ∧ rb.lo.toNat % 64 = 0) ∧
  (op = .tstat → okOperand rb (permST ||| permENG) 64 ∧ rb.lo.toNat % 64 = 0) ∧
  (op ≠ .tread → op ≠ .tstat → t.hid = 0 ∨ (t.reg c).unv = true) ∧
  s.agentAuthority t op ra.bits rb.bits = none

/-- The target of an agent command: a thread, a cluster for the second kind of reference, the core of a spawn (05 R146, R155). -/
def agentTarget (s : State) (op : AgentOp) (a b : Reg) : Nat :=
  match op with
  | .spawn => if b.bits.toNat % 2 ^ 20 = 0xFFFFF then coreOf s.cur else b.bits.toNat % 2 ^ 20
  | _ => if a.bits.getLsbD 63 then a.bits.toNat % 2 ^ 28 / 2 ^ 14 else a.bits.toNat % 2 ^ 28

end Sys2Proof.Spec

/-- An agent command whose checks pass is accepted in order of arrival with its operands and its issuer's entries, and its thread goes
on; nothing else has changed (05 R147, R148). -/
def Sys2Proof.Rules.AgentCommandAccepted : Prop :=
  ∀ (i : Instr) (op : AgentOp) (a b c : RegNo) (x : Cx) (s : State) (t : Thread), Spec.agentForm i = some (op, a, b, c, x) →
    s.Issues t i → Spec.okRel x t → Spec.agentPasses s t op a b c →
    ∃ q : AgentCmd, exec i s = .next (s.finish i t (.retire { s with agentQ := s.agentQ ++ [q] })) ∧
      q.cmd = { t.cmd s.cur x (t.reg c) with lane := q.cmd.lane } ∧ AgentOp.ofCode q.member = op ∧ q.a = t.reg a ∧ q.b = t.reg b ∧
      q.target = Spec.agentTarget s op (t.reg a) (t.reg b) ∧
      q.entries = t.auth.filter (fun e => entHas (Spec.agentRight op) e && decide (entKind e = 3 ∨ entKind e = 5)) ∧ q.phase = 0 ∧ q.sent = s.nextReq ∧ q.peer = none

/-- An agent command without authority over its target faults with 0x28; with a reserved reference it faults with 0x02; with an
untagged cell it faults with 0x05: it is not accepted (05 R147). -/
def Sys2Proof.Rules.AgentCommandFaults : Prop :=
  ∀ (i : Instr) (op : AgentOp) (a b c : RegNo) (x : Cx) (s : State) (t : Thread), Spec.agentForm i = some (op, a, b, c, x) →
    s.Issues t i → Spec.okRel x t → op ≠ .spawn →
    (refBad op (t.reg a).bits = true → ∃ s' t', exec i s = .next s' ∧ s'.thread? s.cur = some t' ∧
      t.Faulting t' ⟨0x02, 0, .none, 7⟩ s.cycle ∧ s'.agentQ = s.agentQ) ∧
    (refBad op (t.reg a).bits = false → dataBad op (t.reg b).bits = false → (refChip (t.reg a).bits ≤ 287 ∨ refChip (t.reg a).bits = 0x1FF) →
      (t.reg c).tag = false → ∃ s' t', exec i s = .next s' ∧ s'.thread? s.cur = some t' ∧
      t.Faulting t' ⟨0x05, (t.reg c).lo, .cell, 6⟩ s.cycle ∧ s'.agentQ = s.agentQ) ∧
    ((op = .tstop ∨ op = .tstart ∨ op = .arevoke) → refBad op (t.reg a).bits = false → dataBad op (t.reg b).bits = false →
      (refChip (t.reg a).bits ≤ 287 ∨ refChip (t.reg a).bits = 0x1FF) → Spec.okCell (t.reg c) → (t.hid = 0 ∨ (t.reg c).unv = true) →
      s.agentAuthority t op (t.reg a).bits (t.reg b).bits ≠ none → ∃ s' t', exec i s = .next s' ∧ s'.thread? s.cur = some t' ∧
      t.Faulting t' ⟨0x28, 0, .none, 7⟩ s.cycle ∧ s'.agentQ = s.agentQ)

/-- What an agent does with a command for a thread of its module that no record is being written for, its authority settled: one not
at rest cannot be started, read or rewritten (0x29); `tstart` makes a thread at rest able to run and empties its store-fault queue;
`tstop` of a running thread with nothing in flight stops it where it stands; `agrant` fills the first free place and counts up;
`arevoke` clears the entries named; a free slot answers 0x82 (05 R150, R152, R153, R157 to R159). -/
def Obligations.AgentEffects : Prop :=
  ∀ (s : State) (q : AgentCmd), q.peer = none → q.phase = 0 → q.accepted = true → s.refuted q.cmd.part q.cmd.hid = false →
    s.chipOf (refChip q.a.bits) = s.bridge.chip → refKind q.a.bits = false → (s.core (coreOf q.target)).quarantined = false →
    let op := AgentOp.ofCode q.member
    op ≠ .spawn → q.member < 9 →
    (s.thread? q.target = none → op ≠ .tstat → s.agentApply q = (s.complete q.cmd 0x82, none)) ∧
    (∀ t, s.thread? q.target = some t → t.fault = none →
      let rest := t.state = .stopped ∨ t.state = .faulted ∨ t.state = .orphaned
      ((op = .tstart ∨ op = .tread ∨ op = .twrite ∨ op = .sfreplay) → ¬rest → s.agentApply q = (s.complete q.cmd (faultStatus 0x29 0), none)) ∧
      (op = .tstart → rest → s.refuted t.part t.hid = false → (t.sfq = [] ∨ q.b.bits.getLsbD 0 = true) →
        ∃ (s1 : State) (t1 : Thread), s.agentApply q = (s1.complete q.cmd 0, none) ∧ s1.thread? q.target = some t1 ∧ t1.sfq = [] ∧ t1.ovf = 0 ∧
          t1.regs = t.regs ∧ t1.pcc = t.pcc ∧ t1.state = (if t.tier = .resident ∧ t.held = false then .running else .ready)) ∧
      (op = .tstart → rest → s.refuted t.part t.hid = false → t.sfq ≠ [] → q.b.bits.getLsbD 0 = false →
        s.agentApply q = (s.complete q.cmd (faultStatus 0x18 0), none)) ∧
      (op = .tstop → t.state = .running → t.window = [] → t.stores = [] → t.wait = .none → q.b.bits.getLsbD 0 = false →
        ∃ (s1 : State) (t1 : Thread), s.agentApply q = (s1.complete q.cmd 0, none) ∧ s1.thread? q.target = some t1 ∧ t1.state = .stopped ∧
          t1.regs = t.regs ∧ t1.pcc = t.pcc ∧ t1.resv = none) ∧
      (op = .agrant → ∀ k, (List.range 32).find? (fun j => decide (entKind (t.auth.getD j 0) = 0)) = some k →
        ∃ (s1 : State) (t1 : Thread), s.agentApply q = (s1.complete q.cmd (statusWord 0 0 k), none) ∧ s1.thread? q.target = some t1 ∧
          t1.auth = lput 0 t.auth k (q.b.bits.setWidth 64 &&& 0x01FFFFFFFFFF0FFF#64) ∧ t1.authGen = t.authGen + 1 ∧ t1.regs = t.regs) ∧
      (op = .agrant → (∀ j, j < 32 → entKind (t.auth.getD j 0) ≠ 0) → s.agentApply q = (s.complete q.cmd 0x84, none)) ∧
      (op = .arevoke → (∃ j, j < 32 ∧ q.b.bits.getLsbD j = true ∧ entKind (t.auth.getD j 0) ≠ 0) →
        ∃ (s1 : State) (t1 : Thread), s.agentApply q = (s1.complete q.cmd 0, none) ∧ s1.thread? q.target = some t1 ∧ t1.authGen = t.authGen + 1 ∧
          (∀ j, j < 32 → t1.auth.getD j 0 = if q.b.bits.getLsbD j then (if entKind (t.auth.getD j 0) ≠ 0 then 0 else t.auth.getD j 0)
            else t.auth.getD j 0)))

/-- Taking a fault to its end (FAULT_RECORD_WRITE): once the thread's earlier stores have settled, its 64-byte record is written where
`k.faultrec` says and the thread is faulted, its last cause and the record sequence set, its registers as they were at the boundary; a
write that fails leaves the sequence and is reported to the load's basket; one that is held is made later. A record whose address
stands in local memory of this module is written there (05 R161, R162). -/
def Sys2Proof.Rules.FaultRecordWritten : Prop :=
  ∀ (s : State) (n : Nat) (t : Thread) (f : PendingFault), s.thread? n = some t → t.fault = some f → t.stores = [] →
    let r := s.engWrite (t.agentParty n) t.faultrec (s.recordOf n t f) true true true
    (∀ s1, r = (s1, .ok ()) → exec (.faultRecordWrite n) s = .next (s1.modThread n (fun u =>
      { u with state := f.target, last := f.cause, fault := none, since := s.cycle, nextSeq := u.nextSeq + 1 }))) ∧
    (∀ s1 c, r = (s1, .fault c) → exec (.faultRecordWrite n) s = .next ((s1.modThread n (fun u =>
      { u with state := f.target, last := f.cause, fault := none, since := s.cycle })).lostReport t.load c false n)) ∧
    (∀ s1, r = (s1, .hold) → exec (.faultRecordWrite n) s = .next (s.keepWaiting s1)) ∧
    (∀ fs, s.Here (coreOf n) t.faultrec 64 fs → t.faultrec.toNat % 64 = 0 →
      exec (.faultRecordWrite n) s = .next ((s.put (coreOf n) t.faultrec fs (s.recordOf n t f)).modThread n
        (fun u => { u with state := f.target, last := f.cause, fault := none, since := s.cycle, nextSeq := u.nextSeq + 1 })))

/-- The record's eight words: cause, kind, size, head, queue mask and count of lost entries; the thread and its module; pc; address;
sequence; hypothesis; load; cycle (05 R162). -/
def Sys2Proof.Rules.FaultRecordLayout : Prop :=
  ∀ (s : State) (n : Nat) (t : Thread) (f : PendingFault), f.cause ≠ 0x18 → f.size < 8 → n < 2 ^ 28 → s.bridge.chip < 2 ^ 9 → t.load < 2 ^ 32 →
    f.cycle < 2 ^ 64 → t.hid < 2 ^ 12 → t.depth < 2 ^ 4 →
    let w (k : Nat) : Nat := leNat (((s.recordOf n t f).drop (8 * k)).take 8)
    (s.recordOf n t f).length = 64 ∧
    w 0 = f.cause.toNat + f.kind.code * 2 ^ 8 + f.size * 2 ^ 12 + f.head.toNat * 2 ^ 16 + (2 ^ (min t.sfq.length 4) - 1) * 2 ^ 32
      + min t.ovf 0xFFFF * 2 ^ 48 ∧
    w 1 = n + s.bridge.chip * 2 ^ 28 ∧ w 2 = f.pc.toNat ∧ w 3 = f.addr.toNat ∧ w 4 = t.nextSeq.toNat ∧
    w 5 = t.hid + t.depth * 2 ^ 12 ∧ w 6 = t.load ∧ w 7 = f.cycle

/-- A waiting `exit` whose thread has nothing outstanding ends it: its slot is free (04 R130, 05 R137). `exit` completes: issued
by a thread with nothing outstanding it ends that thread. `sleep` completes: with pend set it takes pend and retires, without it its
thread sleeps at it, its reservation lost (07 R201, R210). -/
def Obligations.ExitEndsThread : Prop :=
  (∀ (s : State) (n : Nat) (t : Thread), s.thread? n = some t → t.wait = .exit → t.state = .running → t.fault = none → t.window = [] →
    t.stores = [] → t.sfq = [] → s.hasCommands n = false →
    exec (.exitComplete n) s = .next (s.endThread n) ∧
      (tget s.loads t.load = none → rising ((s.core (coreOf n)).threads.map Prod.fst) = true → (s.endThread n).thread? n = none)) ∧
  (∀ (s : State) (t : Thread), s.Issues t .exit → t.stores = [] → t.sfq = [] → s.hasCommands s.cur = false → tget s.loads t.load = none →
    rising ((s.core (coreOf s.cur)).threads.map Prod.fst) = true →
    ∃ s1 s2, exec .exit s = .next s1 ∧ s.WaitsAs s1 t .exit ∧ exec (.exitComplete s.cur) s1 = .next s2 ∧ s2.thread? s.cur = none) ∧
  (∀ (s : State) (t : Thread), s.Issues t .sleep → ∃ s' t', exec .sleep s = .next s' ∧ s'.thread? s.cur = some t' ∧ t'.regs = t.regs ∧
    (∀ a, s'.byteAt a = s.byteAt a) ∧ t'.pend = false ∧
    (t.pend = true → t'.pcc = t.pcc.withCursor t.following ∧ t'.wait = .none) ∧
    (t.pend = false → t'.pcc = t.pcc ∧ t'.wait = .sleep ∧ t'.state = .sleeping ∧ t'.resv = none))

/-- A member of a load as it is installed (06 R181): it is ready at the code's entry with the launch's two words in c1 and c2, the
load's index in c3, its own in c4, the data capability in c27, zero in every other register, its logical core number, seed and class,
its record line and context block, and the authority the packet gives. -/
def Obligations.InstalledMember : Prop :=
  ∀ (b : Basket) (n l m core tid cycle : Nat),
    let t := newMember b n l m core tid cycle
    let w := b.pkt.word
    let cores := (w 0).toNat / 2 ^ 10 % 64 + 1
    let tpc := (w 0).toNat / 2 ^ 6 % 16 + 1
    t.state = .ready ∧ t.part = b.part ∧ t.load = n ∧
    (t.reg 1 = Reg.ofWord (w 6) ∧ t.reg 2 = Reg.ofWord (w 7) ∧ t.reg 3 = Reg.ofNat l ∧ t.reg 4 = Reg.ofNat m ∧
      t.reg 27 = b.pkt.data.withCursor (w 4)) ∧
    (∀ r : RegNo, r ≠ 1 → r ≠ 2 → r ≠ 3 → r ≠ 4 → r ≠ 27 → t.reg r = Reg.zero) ∧
    t.pcc = b.pkt.code.withCursor (w 2 + BitVec.ofNat 64 ((w 3).toNat % 2 ^ 32)) ∧
    t.lcore = BitVec.ofNat 20 (l * cores + m / tpc) ∧ t.seed = w 1 ∧ t.hid = 0 ∧ t.depth = 0 ∧ t.fpcsr = 0 ∧
    t.ctx = w 13 + BitVec.ofNat 64 (2048 * (l * (cores * tpc) + m)) ∧ t.faultrec = w 15 + BitVec.ofNat 64 (64 * (l * (cores * tpc) + m)) ∧
    t.cls = (w 0).toNat / 2 ^ 38 % 4 ∧ t.ceil = t.cls ∧ t.window = [] ∧ t.stores = [] ∧ t.fault = none ∧ t.sfq = []

/-- Launch queues (06 R169 to R171, R174, R175): the engine arms its watch on a host queue's write index and takes an index that a host
may have published; a device queue's word is put back to the engine's count; `qpub` on a queue that has room writes the packet into its
slot, counts it and answers its number, on a full queue answers 0x81; the packet with the lowest number is accepted once it has been
read and the index in memory advanced; a waiting basket's word that has reached its value lets it go on. Each completes where the words
it needs stand in local memory of this module. -/
def Obligations.LaunchQueues : Prop :=
  ∀ (s : State) (n : Nat) (d : Queue), tget s.queues n = some d →
    (d.isDevice = false → s.steward.power = .aster → d.watch.any s.watching = false →
      let w := (s.dropWatch d.watch).fresh
      (∀ s1 bs, w.1.engWatch (rootParty d.part) 0 (d.addr + 0x20) 8 true w.2 = (s1, .ok bs) →
        exec (.launchQueueWatch n) s = .next (s1.setQueue n { d.take (leNat bs) with watch := some w.2 })) ∧
      ∀ fs, s.Here 0 (d.addr + 0x20) 8 fs → (d.addr + 0x20).toNat % 8 = 0 →
        ∃ s1 : State, exec (.launchQueueWatch n) s = .next (s1.setQueue n { d.take (leNat (s.bytesOf fs)) with watch := some w.2 }) ∧
          (d.read ≤ leNat (s.bytesOf fs) → leNat (s.bytesOf fs) ≤ d.read + 2 ^ d.lslots → (d.take (leNat (s.bytesOf fs))).seen = leNat (s.bytesOf fs))) ∧
    (d.isDevice = true →
      (∀ s1 w s2, s.descRead d 0x20 = (s1, .ok w) → w ≠ d.count → s1.descWrite d 0x20 d.count = (s2, .ok ()) →
        exec (.deviceQueueMirrorRestore n) s = .next s2) ∧
      ∀ fs, s.Here 0 (d.addr + 0x20) 8 fs → (d.addr + 0x20).toNat % 8 = 0 →
        exec (.deviceQueueMirrorRestore n) s = .next (if leNat (s.bytesOf fs) = d.count then s else s.put 0 (d.addr + 0x20) fs (leBytes 8 d.count))) ∧
    (d.head = none → d.read < d.published →
      (∀ s1 bs s2, s.engRead (rootParty d.part) (d.slotAt d.read) 128 true = (s1, .ok bs) → s1.descWrite d 0x28 (d.read + 1) = (s2, .ok ()) →
        exec (.packetAccept n) s = .next (s.acceptPacket s2 n d (packetWords bs))) ∧
      ∀ fs fs' gs, s.Here 0 (d.slotAt d.read) 64 fs → s.Here 0 (d.slotAt d.read + 64) 64 fs' → (d.slotAt d.read).toNat % 64 = 0 →
          s.Here 0 (d.addr + 0x28) 8 gs → (d.addr + 0x28).toNat % 8 = 0 →
        exec (.packetAccept n) s = .next (s.acceptPacket (s.put 0 (d.addr + 0x28) gs (leBytes 8 (d.read + 1))) n d (packetWords (s.bytesOf (fs ++ fs'))))) ∧
    (∀ (h : HeadBasket) b, d.head = some h → h.waiting = true → h.watch.any s.watching = false → tget s.baskets h.basket = some b →
      let w := (s.dropWatch h.watch).fresh
      (∀ s1 bs, w.1.engWatch (rootParty b.part) 0 (b.pkt.word 10) 8 b.pkt.data.hostBit w.2 = (s1, .ok bs) → (b.pkt.word 11).toNat ≤ leNat bs →
        exec (.basketWaitMet n) s = .next ((s1.endWatch w.2).setQueue n { d with head := some { h with waiting := false, watch := none } })) ∧
      ∀ fs, s.Here 0 (b.pkt.word 10) 8 fs → (b.pkt.word 10).toNat % 16 = 0 → (b.pkt.word 11).toNat ≤ leNat (s.bytesOf fs) →
        ∃ s1 : State, exec (.basketWaitMet n) s = .next (s1.setQueue n { d with head := some { h with waiting := false, watch := none } })) ∧
    (∀ (a b c : RegNo) (x : Cx) (t : Thread), s.Issues t (.qpub a b c x) → Spec.okRel x t → Spec.okCell (t.reg c) →
        Spec.okOperand (t.reg a) (permST ||| permENG) 64 → (t.reg a).lo.toNat % 64 = 0 →
        Spec.okOperand (t.reg b) (permLD ||| permENG) 128 → (t.reg b).lo.toNat % 64 = 0 → (t.hid = 0 ∨ (t.reg c).unv = true) →
        s.refuted t.part t.hid = false → s.queueAt t.part (t.reg a).lo = some (n, d) → d.isDevice = true →
      let cmd := (t.cmd s.cur x (t.reg c)).inQueue (t.reg a).lo
      s.laneBusy cmd.lane = false →
      (d.count - d.read = 2 ^ d.lslots → exec (.qpub a b c x) s = .next (s.finish (.qpub a b c x) t (.retire (s.complete cmd 0x81)))) ∧
      (∀ s1 img s2 s3, d.count - d.read ≠ 2 ^ d.lslots → s.engRead cmd.party (t.reg b).lo 128 (t.reg b).hostBit = (s1, .ok img) →
          (imgWord img 0).toNat / 2 ^ 38 % 4 ≤ t.ceil →
          s1.engWrite (rootParty d.part) (d.slotAt d.count) img true true true = (s2, .ok ()) →
          s2.descWrite d 0x20 (d.count + 1) = (s3, .ok ()) → s.basketOf t = none →
        exec (.qpub a b c x) s = .next (s.finish (.qpub a b c x) t (.retire
          ((s3.setQueue n { d with count := d.count + 1 }).complete cmd (statusWord 0 0 (d.count % 2 ^ 48)))))))

/-- Loads and baskets (06 R176, R179, R183, R185; 05 R137, R138): at each choice a die's engine first restores what it can and then
admits at most one load of new work, at priorities above those of loads still held; a load whose members have all stopped and
settled is saved and held, its threads stowed, which completes where its context blocks stand in local memory; a basket whose loads
have ended and whose children have completed writes its completion cell; a context that must leave its resident position leaves it; a
cell write that was held is tried again, behind those before it in its order, and one that failed is reported. -/
def Sys2Proof.Rules.LoadsAndBaskets : Prop :=
  ∀ (s : State),
    (∀ die, exec (.admissionChoice die) s = .next ((s.restoreAll die).admitBelow die
      (match (s.restoreAll die).heldList die with | (_, l) :: _ => l.prio + 1 | [] => 0) 4)) ∧
    (∀ n l b, tget s.loads n = some l → tget s.baskets l.basket = some b → l.state = .stopping → l.ring = false → l.mtx = false →
      let cores := (l.members.map coreOf).eraseDups
      let s0 := cores.foldl (fun s c => (s.preemptQueue c n).endSuspended c n) s
      let hot := l.members.filterMap (fun tid => (s0.thread? tid).map (fun t => (tid, t)))
      l.members.all s0.settledMember = true →
      (∀ s1, hot.foldl (fun ((s, r) : State × Acc Unit) ((tid, t) : Nat × Thread) =>
          match r with
          | .ok () =>
            (match s.engWrite (t.agentParty tid) t.ctx (t.hotImage tid) t.ctxHost true true with
             | (s, .ok ()) => (s, .ok ())
             | (s, .fault c) => (s.blockFailed tid c, .fault c)
             | (s, .hold) => (s, .hold))
          | r => (s, r)) (s0, .ok ()) = (s1, .ok ()) →
        exec (.loadPreempt n) s = .next ((cores.foldl (fun s c => s.setCore c ((s.core c).stow n)) s1).setLoad n
          { l with state := .held, heldAt := s0.cycle, kept := [] })) ∧
      ((∀ tid t, (tid, t) ∈ hot → t.ctx.toNat % 64 = 0 ∧ ∀ k, k < 16 → ∃ fs, s0.Here (coreOf tid) (t.ctx + BitVec.ofNat 64 (64 * k)) 64 fs) →
        ∃ s', exec (.loadPreempt n) s = .next s' ∧ tget s'.loads n = some { l with state := .held, heldAt := s0.cycle, kept := [] })) ∧
    (∀ n b, tget s.baskets n = some b → b.done = false → b.admitted = true → b.live = 0 → b.outstanding = 0 → b.parent = none →
        s.publishes n = false →
      exec (.basketComplete n) s = .next (((s.setBasket n { b with done := true }).dropBasket n).writeCell
        ⟨b.cmd (b.pkt.word 8), b.early.getD (if b.failed = 0 then 0 else statusWord 0x81 0 (b.failed % 2 ^ 32)), 1, none, 17, b.queue, []⟩)) ∧
    (∀ core pos, exec (.contextDisplace core pos) s = .next (s.setCore core ((s.core core).displace pos s.cycle))) ∧
    (∀ k w, s.cellQ[k]? = some w → w.kind ≠ 20 → w.kind ≠ 21 → w.failed = none → cellsWait (s.cellQ.take k) w.cmd.lane = false →
      let r := ({ s with cellQ := s.cellQ.eraseIdx k } : State).endCell (w.orRefuted (s.refuted w.cmd.part w.cmd.hid))
      exec (.cellWriteFailure k) s = .next (if r.2 then r.1 else { r.1 with cellQ := s.cellQ })) ∧
    (∀ k w c off, s.cellQ[k]? = some w → w.kind ≠ 20 → w.kind ≠ 21 → w.failed = some (c, off) →
      exec (.cellWriteFailure k) s = .next (({ s with cellQ := s.cellQ.eraseIdx k } : State).reportCell w c off))

/-- A context that leaves (05 R138 rule 2): it stands in a free warm place, else in the park region; running, it becomes ready; its
reservation is lost, its registers are as they were. -/
def Sys2Proof.Rules.ContextLeaves : Prop :=
  ∀ (k : Core) (slot cycle : Nat) (t : Thread), tget k.threads slot = some t →
    ∃ u, tget (k.moveOut slot cycle).threads slot = some u ∧ u.regs = t.regs ∧ u.pcc = t.pcc ∧ u.resv = none ∧ u.leaving = false ∧
      u.tier = (if (freePlace k.warm k.warmSlots).isSome then .warm else .parked) ∧
      u.state = (if t.state = .running then .ready else t.state)

/-- Quarantine (05 R165): a core that fails becomes quarantined, its watches are lost, and event records tell of it. -/
def Sys2Proof.Rules.CoreQuarantined : Prop :=
  ∀ (s : State) (core : Nat), (s.core core).quarantined = false →
    exec (.coreQuarantine core) s = .next ((0 :: ((s.core core).threads.map (fun x => x.2.part) ++ (s.partOfCore core).toList)).eraseDups.foldl
      (fun s p => s.eventRecord p 2 core) (s.quarantine core)) ∧
    ((s.core core).threads = [] → ((s.quarantine core).core core).quarantined = true ∧ ((s.quarantine core).core core).watches = [])

namespace Sys2Proof.Spec
open Sys2Proof.Machine

/-- A transfer command: its shape kind, hint and registers (10 R286). -/
def copyForm (i : Instr) : Option (CpOp × Hint × RegNo × RegNo × RegNo × RegNo × Cx) :=
  match i with
  | .cp1d h d a b c x => some (.line, h, d, a, b, c, x)
  | .cp2d h d a b c x => some (.plane, h, d, a, b, c, x)
  | .cp3d h d a b c x => some (.cube, h, d, a, b, c, x)
  | .cpGat h d a b c x => some (.gather, h, d, a, b, c, x)
  | .cpFill h d a b c x => some (.fill, h, d, a, b, c, x)
  | _ => none

/-- A transfer with nothing performed of it yet. -/
def newCopy (s : State) (t : Thread) (op : CpOp) (h : Hint) (d a b c : RegNo) (x : Cx) : CopySlot :=
  { cmd := t.cmd s.cur x (t.reg c), member := op.code, hint := h, shape := t.reg d, a := t.reg a, b := t.reg b
    total := op.total (t.reg d).bits, list := [], state := .inFlight, first := 0, started := 0
    done := [], bad := [], fault := none, stop := false }

end Sys2Proof.Spec

/-- A transfer whose checks pass (10 R285, R287, R289): of zero bytes it completes at once with status 0; otherwise it takes the
lowest free slot of its core and its thread goes on; with every slot taken its thread stands in line and issues again. No earlier copy
command of the thread is left uncompleted (10 R293). -/
def Sys2Proof.Rules.CopyAccepted : Prop :=
  ∀ (i : Instr) (op : CpOp) (h : Hint) (d a b c : RegNo) (x : Cx) (s : State) (t : Thread), Spec.copyForm i = some (op, h, d, a, b, c, x) →
    s.Issues t i → Spec.okRel x t → firstOf (copyChecks t op (t.reg d) (t.reg a) (t.reg b) (t.reg c)) = none →
    let me := coreOf s.cur
    let k := s.core me
    s.laneBusy (t.cmd s.cur x (t.reg c)).inCopies.lane = false →
    let empty := (op ≠ .gather ∧ op.total (t.reg d).bits = 0) ∨
      (op = .gather ∧ s.gatherEmpty (t.cmd s.cur x (t.reg c)).party (t.reg d) = true)
    (empty → exec i s = .next (s.finish i t (.retire (s.complete (t.cmd s.cur x (t.reg c)) 0)))) ∧
    (∀ n, ¬empty → k.waitingCopies = [] → tfree k.slots 128 0 = some n →
      exec i s = .next (s.finish i t (.retire (s.setCore me { k with slots := tput k.slots n (Spec.newCopy s t op h d a b c x) })))) ∧
    (¬empty → k.waitingCopies = [] → tfree k.slots 128 0 = none →
      exec i s = .next (s.finish i t (.queued (s.setCore me { k with waitingCopies := [s.cur] }))))

/-- The checks of a `cp.1d`: a cell, a length of at most 2^40 in the low 41 bits with zeros above, ST and ENG over the destination, LD
and ENG over the source, both ends in form and in one space, off the agent registers, and UNV where a window is written under a
node (10 R287, R289). -/
def Sys2Proof.Rules.CopyLineChecks : Prop :=
  ∀ (t : Thread) (d a b c : Reg), Spec.okCell c → d.bits.toNat ≤ 2 ^ 40 → 0 < d.bits.toNat →
    Spec.authorises a (permST ||| permENG) a.lo.toNat d.bits.toNat → Spec.authorises b (permLD ||| permENG) b.lo.toNat d.bits.toNat →
    (∀ r, r = a ∨ r = b → canonical r.lo = true ∧ canonical (r.lo + BitVec.ofNat 64 (d.bits.toNat - 1)) = true ∧
      otherSpace r.lo (r.lo + BitVec.ofNat 64 (d.bits.toNat - 1)) = false ∧ touchesAgent r.lo d.bits.toNat = false) →
    (t.hid = 0 ∨ (a.lo.getLsbD 63 = false ∨ a.unv = true) ∧ (c.lo.getLsbD 63 = false ∨ c.unv = true)) →
    firstOf (copyChecks t .line d a b c) = none

/-- A chunk in flight reads its up to 64 positions and writes each to its place, and counts as performed; where the read or the write
faults the transfer keeps the chunk and the lowest one's cause (10 R288, R290, R291). A chunk of a `cp.1d` or a `cp.fill` between runs of
local memory that do not meet completes. -/
def Sys2Proof.Rules.CopyChunk : Prop :=
  ∀ (s : State) (core slot k : Nat) (x : CopySlot), tget (s.core core).slots slot = some x → x.member ≠ 3 → x.mayDo k = true →
    (s.core core).quarantined = false →
    let y : CopySlot := { x with list := [] }
    let n := Nat.min 64 (x.total - 64 * k)
    let os := (List.range n).map (· + 64 * k)
    (∀ s1 bs s2, s.chunkRead y os = (s1, .ok bs) → s1.chunkWrite y (os.zip bs) = (s2, .ok ()) →
      exec (.copyChunkDone core slot k) s = .next (s2.setSlot core slot (if n = 0 then y else y.performed k))) ∧
    (∀ s1 e, s.chunkRead y os = (s1, .fault e) → exec (.copyChunkDone core slot k) s = .next (s1.setSlot core slot (y.faulted k e))) ∧
    (∀ s1 bs s2 e, s.chunkRead y os = (s1, .ok bs) → s1.chunkWrite y (os.zip bs) = (s2, .fault e) →
      exec (.copyChunkDone core slot k) s = .next (s2.setSlot core slot (y.faulted k e))) ∧
    (∀ gs bs, 0 < n →
      let from_ := x.b.lo + BitVec.ofNat 64 (64 * k)
      let dest := x.a.lo + BitVec.ofNat 64 (64 * k)
      dest.toNat % 64 = 0 → dest.getLsbD 63 = true → s.Here x.cmd.core dest n gs → (x.cmd.hid = 0 ∨ x.a.unv = true) →
      (x.member = 0 ∧ from_.toNat % 64 = 0 ∧ from_.getLsbD 63 = true ∧ from_ ≠ dest ∧ (∃ fs, s.Here x.cmd.core from_ n fs ∧ bs = s.bytesOf fs)) ∨
        (x.member = 4 ∧ bs = (List.range n).map (fun i => x.b.bits.extractLsb' (8 * (i % 16)) 8)) →
      exec (.copyChunkDone core slot k) s = .next ((s.put x.cmd.core dest gs bs).setSlot core slot (y.performed k)))

/-- A transfer of which every chunk is performed frees its slot and completes with status 0; one with a fault, its chunks in flight ended, is
held, and its cell gets code 1 with the cause, the slot and the offset from which it would resume; while the cell's write is held the
transfer stays in flight (10 R291). Both complete where the cell stands in local memory. -/
def Sys2Proof.Rules.CopyEnds : Prop :=
  ∀ (s : State) (core slot : Nat) (x : CopySlot), tget (s.core core).slots slot = some x → x.state = .inFlight →
    (s.core core).quarantined = false → s.refuted x.cmd.part x.cmd.hid = false → x.settled = true →
    (x.fault = none → x.allDone = true →
      let r := s.completing x.cmd 0
      exec (.copyTransferEnd core slot) s = .next (if r.2 then r.1.freeSlot core slot else r.1) ∧ (s.CellHere x.cmd → r.2 = true)) ∧
    (∀ k e, x.fault = some (k, e) →
      let r := s.completing x.cmd (BitVec.ofNat 64 (slot * 2 ^ 57 + 64 * x.gap * 2 ^ 16 + e.toNat * 2 ^ 8 + 1))
      exec (.copyTransferEnd core slot) s = .next (if r.2 then r.1.setSlot core slot { x with state := .held } else r.1) ∧
        (s.CellHere x.cmd → r.2 = true))

/-- `cp.stat` writes the masks of the issuer's transfers and of those held, and the number of slots taken; `cp.resume` sends held ones
on from where they stopped and answers how many; `cp.cancel` frees those named and answers how many (10 R294 to R296). -/
def Sys2Proof.Rules.CopyControl : Prop :=
  ∀ (a b c : RegNo) (x : Cx) (s : State) (t : Thread), Spec.okRel x t → Spec.okCell (t.reg c) →
    (t.hid = 0 ∨ (t.reg c).lo.getLsbD 63 = false ∨ (t.reg c).unv = true) →
    let me := coreOf s.cur
    let cmd := (t.cmd s.cur x (t.reg c)).inCopies
    s.laneBusy cmd.lane = false →
    let mine := (s.core me).slots.filter (fun e => e.2.cmd.tid = s.cur)
    let words := leBytes 16 (maskOf (mine.map Prod.fst)) ++ leBytes 16 (maskOf ((mine.filter (fun e => e.2.state = .held)).map Prod.fst))
      ++ leBytes 8 (s.core me).slots.length ++ zeroBytes 24
    (s.Issues t (.cpStat a c x) → Spec.okOperand (t.reg a) (permST ||| permENG) 64 → (t.reg a).lo.toNat % 64 = 0 →
      (∀ s1, s.engWrite cmd.mover (t.reg a).lo words (t.reg a).hostBit (t.reg a).unv false = (s1, .ok ()) →
        exec (.cpStat a c x) s = .next (s.finish (.cpStat a c x) t (.retire (s1.complete cmd 0)))) ∧
      ∀ fs, s.Here me (t.reg a).lo 64 fs → (t.hid = 0 ∨ (t.reg a).unv = true) →
        exec (.cpStat a c x) s = .next (s.finish (.cpStat a c x) t (.retire ((s.put me (t.reg a).lo fs words).complete cmd 0)))) ∧
    (∀ n v, s.Issues t (.cpResume b c x) → s.namedSlots (t.reg b).bits = [(n, v)] → v.state = .held → s.refuted v.cmd.part v.cmd.hid = false →
      exec (.cpResume b c x) s = .next (s.finish (.cpResume b c x) t (.retire
        ((s.setSlot me n { v with state := .inFlight, first := v.gap, started := v.gap, done := [], bad := [], fault := none, stop := false }).complete
          cmd (statusWord 0 0 1))))) ∧
    (∀ n v, s.Issues t (.cpCancel b c x) → s.namedSlots (t.reg b).bits = [(n, v)] → v.state = .held → tget (s.core me).freed s.cur = none →
        rising ((s.core me).slots.map Prod.fst) = true → (∀ e ∈ mine, e.2.stop = false) →
      ∃ s1 : State, exec (.cpCancel b c x) s = .next (s.finish (.cpCancel b c x) t (.retire (s1.complete cmd (statusWord 0 0 1)))) ∧
        tget (s1.core me).slots n = none ∧ ∀ m, m ≠ n → tget (s1.core me).slots m = tget (s.core me).slots m)

/-- The message commands (11 R301, R302, R305, R307): `rcv.bind` makes or releases the binding of its port at once and answers, 0x82
where another thread holds the port; `snd` takes a send slot of its core and its thread goes on, or stands in line where all 32 are
taken. -/
def Sys2Proof.Rules.MessageCommands : Prop :=
  ∀ (d a b c : RegNo) (x : Cx) (s : State) (t : Thread), Spec.okRel x t →
    let me := coreOf s.cur
    let k := s.core me
    let q := (t.reg d).bits
    let cmd := t.cmd s.cur x (t.reg c)
    (∀ i, i = .rcvBind d a b c x ∨ i = .rcvBindUnbind d a b c x → s.Issues t i → firstOf (s.bindChecks t me d a b c) = none →
      exec i s = .next (s.finish i t (.retire (s.applyBind cmd q (t.reg a) (t.reg b)))) ∧
      (∀ p, tget k.ports (q.toNat % 16) = some p → p.cmd.tid ≠ s.cur → s.applyBind cmd q (t.reg a) (t.reg b) = s.complete cmd 0x82) ∧
      (tget k.ports (q.toNat % 16) = none → q.toNat / 2 ^ 12 % 4 = 0 →
        s.applyBind cmd q (t.reg a) (t.reg b) = (s.dropPort me (q.toNat % 16)).complete cmd 0)) ∧
    (s.Issues t (.snd d a c x) → firstOf (sndChecks t d a c) = none →
      (k.sends.length < 32 → k.waitingSends = [] →
        exec (.snd d a c x) s = .next (s.finish (.snd d a c x) t (.retire (s.setCore me { k with
          sends := k.sends ++ [{ cmd := cmd, d := q, a := t.reg a, chip := sndChip q, core := sndTarget me q, port := sndPort q
                                 len := sndLen q, retryAt := 0, order := k.sendOrder, payload := none, ended := none }]
          sendOrder := k.sendOrder + 1 })))) ∧
      (32 ≤ k.sends.length → k.waitingSends = [] →
        exec (.snd d a c x) s = .next (s.finish (.snd d a c x) t (.queued (s.setCore me { k with waitingSends := [s.cur] })))))

/-- A message that is delivered (11 R303, R304, R308): with room in the port's ring its payload stands there
behind the record's 16-byte header, the head and count go up by the record, and the sender is answered the record's position; to a port that is not bound it is
answered 0x80, to one of another partition 0x84. A send that may go, for the first time or again, is attempted: its source is read once,
and what its delivery comes to ends it, or has it wait 256 cycles with its message. -/
def Sys2Proof.Rules.MessageDelivered : Prop :=
  (∀ (s : State) (core k : Nat) (x : Send), s.sendReady core k false = some x →
    exec (.messageDelivery (.slot core k)) s = .next (s.attemptSend core x)) ∧
  (∀ (s : State) (core k : Nat) (x : Send), s.sendReady core k true = some x → exec (.messageRetry core k) s = .next (s.attemptSend core x)) ∧
  (∀ (s : State) (core : Nat) (x : Send), s.refuted x.cmd.part x.cmd.hid = false → x.ended = none →
    (x.payload = none → ∀ fs, 0 < x.len → x.a.lo.toNat % 64 + x.len ≤ 64 → s.Here x.cmd.core x.a.lo x.len fs →
      s.attemptSend core x = s.carrySend core x (s.bytesOf fs)) ∧
    (∀ bs, x.payload = some bs → s.attemptSend core x = s.carrySend core x bs) ∧
    (∀ bs, x.chip = 0x1FF →
      let m : Message := { chip := s.bridge.chip, tid := x.cmd.tid, load := some x.cmd.load, samePart := fun p => decide (p = x.cmd.part)
                           port := x.port, word := sndWord x.d, payload := bs, eos := sndEos x.d, wait := sndWait x.d }
      (∀ s1 w, s.deliverMsg x.core m = (s1, .status w) → s.carrySend core x bs = s1.endSend core x w) ∧
      (∀ s1, s.deliverMsg x.core m = (s1, .later) →
        s.carrySend core x bs = s.setSend core { x with payload := some bs, retryAt := s.cycle + 256 }))) ∧
  (∀ (s : State) (core : Nat) (m : Message), (s.core core).quarantined = false → tget (s.core core).ports m.port = none →
    s.deliverMsg core m = (s, .status 0x80)) ∧
  (∀ (s : State) (core : Nat) (m : Message) (p : Port), (s.core core).quarantined = false → tget (s.core core).ports m.port = some p →
    m.samePart p.cmd.part = false → s.deliverMsg core m = (s, .status 0x84)) ∧
  (∀ (s : State) (core : Nat) (m : Message) (p : Port), (s.core core).quarantined = false → tget (s.core core).ports m.port = some p →
    m.samePart p.cmd.part = true → p.filter = false → p.stream = false →
    let size := 16 + (m.payload.length + 15) / 16 * 16
    let at_ := p.head % p.bytes
    at_ + size ≤ p.bytes → p.ctl + 64 + p.bytes ≤ (s.core core).tcmPlain →
    (∀ tid u v, (tid, u) ∈ s.allThreads → u.resv = some v → v.glob = true) → s.bridge.peerResv = [] → size ≤ s.ringRoom core p →
    ∃ s', s.deliverMsg core m = (s', .status (statusWord 0 0 (p.head % 2 ^ 48))) ∧
      tget (s'.core core).ports m.port = some { p with head := p.head + size, count := p.count + 1 } ∧
      (s.Canonical → ∀ j b, m.payload[j]? = some b → tget s.dirty (flatTcm core (p.ctl + 64 + at_ + 16 + j) / 64) = none →
        s'.byteAt (flatTcm core (p.ctl + 64 + at_ + 16 + j)) = b))

namespace Sys2Proof.Spec
open Sys2Proof.Machine

/-! ## The vector engine (12 R317 to R330) -/

/-- A vector instruction: its member, formats and registers; a member without source 2 has c0 (12 R317, R323 to R327). -/
def vecForm (i : Instr) : Option (VecOp × Fmt × Fmt × RegNo × RegNo × RegNo × RegNo × Cx) :=
  match i with
  | .vAdd f d a b c x => some (.add, f, f, d, a, b, c, x)
  | .vSub f d a b c x => some (.sub, f, f, d, a, b, c, x)
  | .vMul f d a b c x => some (.mul, f, f, d, a, b, c, x)
  | .vDiv f d a b c x => some (.div, f, f, d, a, b, c, x)
  | .vMin f d a b c x => some (.min, f, f, d, a, b, c, x)
  | .vMax f d a b c x => some (.max, f, f, d, a, b, c, x)
  | .vFma f d a b c x => some (.fma, f, f, d, a, b, c, x)
  | .vAbs f d a b x => some (.abs, f, f, d, a, b, 0, x)
  | .vNeg f d a b x => some (.neg, f, f, d, a, b, 0, x)
  | .vSqrt f d a b x => some (.sqrt, f, f, d, a, b, 0, x)
  | .vAnd f d a b c x => some (.and, f, f, d, a, b, c, x)
  | .vOr f d a b c x => some (.or, f, f, d, a, b, c, x)
  | .vXor f d a b c x => some (.xor, f, f, d, a, b, c, x)
  | .vShl f d a b c x => some (.shl, f, f, d, a, b, c, x)
  | .vShr f d a b c x => some (.shr, f, f, d, a, b, c, x)
  | .vCeq f d a b c x => some (.ceq, f, f, d, a, b, c, x)
  | .vClt f d a b c x => some (.clt, f, f, d, a, b, c, x)
  | .vCle f d a b c x => some (.cle, f, f, d, a, b, c, x)
  | .vSel f d a b c x => some (.sel, f, f, d, a, b, c, x)
  | .vCvt toF fr d a b x => some (.cvt, toF, fr, d, a, b, 0, x)
  | .vRsum f d a b x => some (.rsum, f, f, d, a, b, 0, x)
  | .vRmax f d a b x => some (.rmax, f, f, d, a, b, 0, x)
  | .vRmin f d a b x => some (.rmin, f, f, d, a, b, 0, x)
  | .vBcast f d a b x => some (.bcast, f, f, d, a, b, 0, x)
  | .vGat f d a b c x => some (.gat, f, f, d, a, b, c, x)
  | .vSct f d a b c x => some (.sct, f, f, d, a, b, c, x)
  | _ => none

/-- The operation a vector instruction puts into its core's queue, from the descriptor's fields (12 R318). -/
def vecJob (t : Thread) (op : VecOp) (toF fr : Fmt) (d a b c : RegNo) : VecJob :=
  let q := (t.reg d).bits.toNat
  { op := op, toF := toF, fr := fr, mode := t.modeOf (q / 2 ^ 27 % 8), seed := t.seed, lcore := t.lcore, draw0 := t.draws, n := q % 2 ^ 13
    a := t.reg a, b := t.reg b, c := t.reg c
    sb := if (t.reg d).bits.getLsbD 16 then some (q / 2 ^ 17 % 16) else none
    sc := if (t.reg d).bits.getLsbD 21 then some (q / 2 ^ 22 % 16) else none }

/-- The draws it takes: one for each element that rounds under SR, one fewer in `v.rsum` (12 R323, R325, R326). -/
def vecDraws (op : VecOp) (toF fr : Fmt) (j : VecJob) : Nat :=
  if op.rounds toF fr = true ∧ j.mode = .sr then (if op = .rsum then j.n - 1 else j.n) else 0

/-- The integer formats with their widths; the last says that the code is signed (02 R55). -/
abbrev intFmt (f : Fmt) (n : Nat) (signed : Bool) : Prop :=
  (f = .i8 ∧ n = 8 ∧ signed = true) ∨ (f = .i32 ∧ n = 32 ∧ signed = true) ∨ (f = .i64 ∧ n = 64 ∧ signed = true) ∨
    (f = .i8z ∧ n = 8 ∧ signed = false) ∨ (f = .i32z ∧ n = 32 ∧ signed = false) ∨ (f = .i64z ∧ n = 64 ∧ signed = false)

/-- The element an integer member gives from elements of sources 1 and 2 and of the destination (12 R323, R324, R326, R327). -/
def vecInteger (op : VecOp) (n : Nat) (signed : Bool) (x y z : Nat) : Option Nat :=
  let ones (b : Bool) : Nat := if b then 2 ^ n - 1 else 0
  match op with
  | .add | .rsum => some (add n x y)
  | .sub => some (sub n x y)
  | .mul => some (mul n x y)
  | .min | .rmin => some (if signed then min n x y else minu n x y)
  | .max | .rmax => some (if signed then max n x y else maxu n x y)
  | .abs => if signed then some (wrap n (sx n x).natAbs) else none
  | .neg => if signed then some (sub n 0 x) else none
  | .and => some (x &&& y)
  | .or => some (x ||| y)
  | .xor => some (x ^^^ y)
  | .shl => some (sll n x y)
  | .shr => some (if signed then sra n x y else srl n x y)
  | .ceq => some (ones (decide (x = y)))
  | .clt => some (ones (if signed then decide (sx n x < sx n y) else decide (x < y)))
  | .cle => some (ones (if signed then decide (sx n x ≤ sx n y) else decide (x ≤ y)))
  | .sel => some (if z = 0 then y else x)
  | .bcast | .gat | .sct => some x
  | .div | .fma | .sqrt | .cvt => none

end Sys2Proof.Spec

/-- A vector instruction whose checks pass (12 R315, R317, R318, R321): it enters its core's queue with the fields of its
descriptor and its thread goes on, its draws taken and its ordinal counted; with four operations queued it waits in line for a place and
its thread with it; a check that fails is a precise fault. `v.sync` with none of the thread's operations in the core writes the latched
failure into its cell, clears the latch and retires; else its thread waits for them (12 R330). -/
def Sys2Proof.Rules.VectorCommands : Prop :=
  ∀ (i : Instr) (s : State) (t : Thread), s.Issues t i →
    let me := coreOf s.cur
    let k := s.core me
    (∀ op toF fr d a b c x, Spec.vecForm i = some (op, toF, fr, d, a, b, c, x) → Spec.okRel x t →
      let j := Spec.vecJob t op toF fr d a b c
      let e : VmuEntry := VmuEntry.fresh (t.cmdBare s.cur x) (.vec j) t.latch.issued
      (firstOf (s.vecChecks t op toF fr d a b c) = none → k.vq.length < 4 →
        exec i s = .next (s.finish i t (.retire (((s.setCore me { k with vq := k.vq ++ [e] }).modThread s.cur
          (fun u => { u.takeDraws (Spec.vecDraws op toF fr j) with latch := { u.latch with issued := u.latch.issued + 1 } })).cancelQueue me)))) ∧
      (firstOf (s.vecChecks t op toF fr d a b c) = none → 4 ≤ k.vq.length →
        exec i s = .next (s.finish i t (.queued ((s.setCore me { k with waitingVmu := k.waitingVmu ++ [(s.cur, e)] }).modThread s.cur
          (fun u => { u with wait := .queue }))))) ∧
      (∀ e, firstOf (s.vecChecks t op toF fr d a b c) = some e → t.window = [] →
        ∃ s' t', exec i s = .next s' ∧ s'.thread? s.cur = some t' ∧ t.Faulting t' e s.cycle ∧ ∀ y ∈ (s'.core me).vq, y ∈ k.vq)) ∧
    (∀ c x, i = .vSync c x → Spec.okRel x t → Spec.okCell (t.reg c) → (t.hid = 0 ∨ (t.reg c).lo.getLsbD 63 = false ∨ (t.reg c).unv = true) →
      ((k.vq ++ k.started).any (fun e => decide (e.cmd.tid = s.cur)) = true →
        ∃ s' t', exec i s = .next s' ∧ s'.thread? s.cur = some t' ∧ t'.wait = .sync ∧ t'.pcc = t.pcc ∧ t'.regs = t.regs) ∧
      ((k.vq ++ k.started).any (fun e => decide (e.cmd.tid = s.cur)) = false → s.refuted t.part t.hid = false →
        let f := if t.latch.code = 0 then 0 else BitVec.ofNat 64 (t.latch.code
          + (if t.latch.code = 1 then t.latch.cause.toNat else 0) * 2 ^ 8 + t.latch.element % 2 ^ 12 * 2 ^ 16 + t.latch.ordinal % 2 ^ 16 * 2 ^ 32)
        exec i s = .next (s.finish i t (.retire ((s.complete (t.cmd s.cur x (t.reg c)) f).modThread s.cur
          (fun u => { u with latch := ⟨0, 0, 0, 0, 0⟩ }))))))

/-- An element of an integer format is what its member's row says, wrapped to the format's width, and raises no flag; `v.rsum` over an
integer format gives the sum of its elements, wrapped (12 R323, R324, R326, R327; 03 R98). -/
def Obligations.VectorIntegerElement : Prop :=
  ∀ (tab : K8Table) (op : VecOp) (f : Fmt) (n : Nat) (signed : Bool) (mode : RMode) (u : Nat), Spec.intFmt f n signed →
    (∀ x y z v, x < 2 ^ n → y < 2 ^ n → Spec.vecInteger op n signed x y z = some v → vecElement tab op f f mode u x y z = ⟨v, 0⟩) ∧
    (∀ l : List Nat, l ≠ [] → l.length ≤ 4096 → (∀ x ∈ l, x < 2 ^ n) →
      treeReduce (fun _ x y => vecElement tab .rsum f f mode u x y 0) 13 l 0 0 = (l.sum % 2 ^ n, 0))

/-- The vector pipe of a quad starts the head of an eligible queue in its arbiter's order, or resumes a suspended operation, which costs
no credit; a suspended operation may go on when its stream holds the next group's bytes; a started operation completes with every
element done, all of its bytes taken, and then writes the end cells of the streams it has used up (12 R316, R322, R328; 11 R310): with
no reservation held it always completes. -/
def Sys2Proof.Rules.VectorEvents : Prop :=
  ∀ (s : State) (quad core n : Nat),
    (∀ h cr, s.arbitrate false quad (s.quad quad).vHolder (s.quad quad).vCredit s.vecEligible = some (h, cr) →
      exec (.vectorOpStart quad false) s = .next ((s.startVec (4 * quad + h)).1.setQuad quad { s.quad quad with
        vHolder := h, vCredit := if (s.startVec (4 * quad + h)).2 then cr else cr - 1 })) ∧
    (∀ i e j, (s.core core).midVec = some (i, e, j) → e.suspended = true → s.groupReady e j = true →
      exec (.streamResume core) s = .next (s.setCore core { s.core core with
        started := lset (s.core core).started i { e with suspended := false } })) ∧
    (∀ e j, (s.core core).started[n]? = some e → e.op = .vec j → e.allStarted j = true → (s.core core).endsEarly n e j = false →
      (∀ s', (s.setCore core { s.core core with started := (s.core core).started.eraseIdx n }).vecRun e j = some s' →
        exec (.vectorOpComplete core n) s = .next (e.ends.foldl (fun s (cmd, st) => s.complete cmd st) s')) ∧
      ((∀ tid u, (tid, u) ∈ s.allThreads → u.resv = none) → s.bridge.peerResv = [] →
        ∃ s', exec (.vectorOpComplete core n) s = .next s' ∧ (s'.core core).started = (s.core core).started.eraseIdx n)) ∧
    (∀ e j x y a, j.op = .add ∨ j.op = .sub ∨ j.op = .mul → j.sb = none → j.sc = none → j.fr = j.toF → 
      let w := Fmt.bytes j.toF
      s.memElem e.cmd.core j.b n w = .ok x → s.memElem e.cmd.core j.c n w = .ok y → a = j.a.cursor + BitVec.ofNat 64 (n * w) →
      let v := vecElement (e.table.getD presetE4M3) j.op j.toF j.toF j.mode (j.draw (slotOf e.cmd.tid) n) x y 0
      ∀ s', s.vmuWrite e.cmd.core a (leBytes w v.bits) = (s', .ok ()) → s.vecOne e j n = (s', .ok v.flags))

namespace Sys2Proof.Spec
open Sys2Proof.Machine

/-! ## The matrix engine (13 R333 to R350) -/

/-- A multiply: its kind, accumulator, transpositions and registers; c0 where it has no scales (13 R340). -/
def mmaForm (i : Instr) : Option (MmaKind × Bool × Bool × Bool × RegNo × RegNo × RegNo × RegNo × Cx) :=
  match i with
  | .mmaBf16 acc ta tb d a b x => some (.bf16, acc, ta, tb, d, a, b, 0, x)
  | .mmaF16 acc ta tb d a b x => some (.f16, acc, ta, tb, d, a, b, 0, x)
  | .mmaK8 acc ta tb d a b x => some (.k8, acc, ta, tb, d, a, b, 0, x)
  | .mmaI8 acc ta tb d a b x => some (.i8, acc, ta, tb, d, a, b, 0, x)
  | .mmaK8Bs acc ta tb d a b c x => some (.k8bs, acc, ta, tb, d, a, b, c, x)
  | _ => none

/-- A tile operand passes: `n` bytes, 64-byte aligned, in the core's own TCM or its cluster's scratchpad (13 R342; 12 R320). -/
abbrev okTile (s : State) (c : Reg) (p : BitVec 14) (n : Nat) : Prop :=
  okOperand c p n ∧ c.lo.toNat % 64 = 0 ∧ s.localCause (coreOf s.cur) c.cursor n = none

/-- A cell that c0 leaves out. -/
abbrev okOptCell (t : Thread) (c : RegNo) : Prop :=
  c = 0 ∨ (okCell (t.reg c) ∧ (t.hid = 0 ∨ (t.reg c).lo.getLsbD 63 = false ∨ (t.reg c).unv = true))

/-- The command of an operation whose cell c0 leaves out. -/
def optCmd (s : State) (t : Thread) (x : Cx) (c : RegNo) : Cmd :=
  { t.cmdBare s.cur x with cell := if c = 0 then none else some (cellRef (t.reg c)) }

end Sys2Proof.Spec

/-- The operation has entered its core's queue and its thread goes on; what entering does to the thread is `after` (12 R315). -/
def Sys2Proof.Machine.State.Enters (s : State) (i : Instr) (t : Thread) (cmd : Cmd) (op : VmuOp) (after : Thread → Thread) : Prop :=
  exec i s = .next (s.finish i t (.retire (((s.setCore (coreOf s.cur) { s.core (coreOf s.cur) with
    vq := (s.core (coreOf s.cur)).vq ++ [VmuEntry.fresh cmd op 0] }).modThread s.cur after).cancelQueue (coreOf s.cur))))

/-- The matrix commands (13 R340 to R350), each with its checks passed and room in its core's queue: a multiply enters it with its
tiles, scales and control triple; `mzero`, `mld`, `mst`, `mdrain` and `dtload` with their operands, `mdrain` taking 256 draws under SR;
`mrd` enters it and its thread waits for the value. -/
def Sys2Proof.Rules.MatrixCommands : Prop :=
  ∀ (i : Instr) (s : State) (t : Thread), s.Issues t i → (s.core (coreOf s.cur)).vq.length < 4 →
    (∀ kind acc ta tb d a b c x, Spec.mmaForm i = some (kind, acc, ta, tb, d, a, b, c, x) → Spec.okRel x t →
      firstOf (s.mmaChecks t kind d a b c) = none →
      let named (r : Reg) : Option CellRef := if d = 0 ∨ (r.bits = 0 ∧ r.tag = false) then none else some (cellRef r)
      s.Enters i t { t.cmdBare s.cur x with cell := named (t.reg d) }
        (.mat (.mma kind acc ta tb (t.reg a) (t.reg b) (t.reg c).bits (t.reg (c + 1)).bits (named (t.reg (d + 1)))
          (if d = 0 then 0 else (t.reg (d + 2)).lo))) id) ∧
    (∀ acc c x, i = .mzero acc c x → Spec.okRel x t → Spec.okOptCell t c → s.Enters i t (Spec.optCmd s t x c) (.mat (.mzero acc)) id) ∧
    (∀ acc a c x, i = .mld acc a c x → Spec.okRel x t → Spec.okOptCell t c → Spec.okTile s (t.reg a) (permLD ||| permENG) 1024 →
      s.Enters i t (Spec.optCmd s t x c) (.mat (.mld acc (t.reg a))) id) ∧
    (∀ acc a c x, i = .mst acc a c x → Spec.okRel x t → Spec.okOptCell t c → Spec.okTile s (t.reg a) (permST ||| permENG) 1024 →
      (t.hid = 0 ∨ (t.reg a).unv = true) → s.Enters i t (Spec.optCmd s t x c) (.mat (.mst acc (t.reg a))) id) ∧
    (∀ acc d a x, i = .mrd acc d a x → Spec.okRel x t → (t.reg a).bits.toNat < 256 → (t.reg a).bits.toNat % 4 = 0 →
      exec i s = .next (s.finish i t (.wait ((s.setCore (coreOf s.cur) { s.core (coreOf s.cur) with vq := (s.core (coreOf s.cur)).vq
        ++ [VmuEntry.fresh (t.cmdBare s.cur x) (.mat (.mrd acc d (t.reg a).bits.toNat)) 0] }).modThread s.cur
          (fun u => { u with wait := .vmu (some d) }))))) ∧
    (∀ f acc d a b c x, i = .mdrain f acc d a b c x → Spec.okRel x t → Spec.okOptCell t c →
      drainReserved (t.reg d).bits (t.reg (d + 1)).bits f d b = false → Spec.okTile s (t.reg a) (permST ||| permENG) (256 * Fmt.bytes f) →
      (drainRes (t.reg d).bits = true → Spec.okTile s (t.reg b) (permLD ||| permENG) (256 * Fmt.bytes (resFmt (t.reg d).bits))) →
      (t.hid = 0 ∨ (t.reg a).unv = true) →
      let mode := t.modeOf ((t.reg d).bits.toNat / 2 ^ 35 % 8)
      s.Enters i t (Spec.optCmd s t x c) (.mat (.mdrain acc f mode t.draws (t.reg d).bits (t.reg (d + 1)).bits (t.reg a)
        (if (t.reg d).bits.getLsbD 34 then some (t.reg b) else none) t.seed t.lcore)) (fun u => u.takeDraws (if mode = .sr then 256 else 0))) ∧
    (∀ d a c x, i = .dtload d a c x → Spec.okRel x t → Spec.okOptCell t c →
      (((t.reg d).bits = 0 ∧ Spec.okOperand (t.reg a) (permLD ||| permENG) 528 ∧ (t.reg a).lo.toNat % 16 = 0) ∨
        (0 < (t.reg d).bits.toNat ∧ (t.reg d).bits.toNat < 4 ∧ a = 0)) →
      s.Enters i t (Spec.optCmd s t x c) (.mat (.dtload (t.reg d).bits.toNat (t.reg a))) id)

/-- `mma.i8` (03 R97): element (i, j) of the new accumulator is the old one plus the sum over k of the products of row i of A and column
j of B, as signed bytes, wrapped to 32 bits; a transposed operand is read by columns (13 R335, R340). -/
def Obligations.MatrixIntegerProduct : Prop :=
  ∀ (tab : K8Table) (ta tb : Bool) (sa sb : Quad) (old : List Nat) (a b : List Byte) (i j : Nat),
    a.length = 256 → b.length = 256 → i < 16 → j < 16 →
    let x (l : List Byte) (r c : Nat) : Int := Spec.sx 8 (l.getD (16 * r + c) 0).toNat
    (mmaTile .i8 ta tb tab sa sb old a b).1.getD (16 * i + j) 0 =
      Spec.wrap 32 (Spec.sx 32 (old.getD (16 * i + j) 0 % 2 ^ 32)
        + ((List.range 16).map (fun k => (if ta then x a k i else x a i k) * (if tb then x b j k else x b k j))).sum) ∧
    (mmaTile .i8 ta tb tab sa sb old a b).2 = 0

/-- The matrix engine's events (12 R316; 13 R337 to R339, R346, R347, R350): the matrix pipe starts in its arbiter's order; an `mma` arms its
watch and reads its wait cell: below its threshold it waits on, with the threshold and a zero status it may start, and with another
status it does not start and completes with code 0x01 and cause 0x30, its accumulator unchanged; a multiply in its
turn replaces its accumulator and completes with 0; `mzero` leaves zeros; a preset `dtload` sets the table and answers that it can
encode. -/
def Sys2Proof.Rules.MatrixEvents : Prop :=
  ∀ (s : State) (quad core n : Nat),
    (∀ h cr, s.arbitrate true quad (s.quad quad).mHolder (s.quad quad).mCredit s.matEligible = some (h, cr) →
      exec (.vectorOpStart quad true) s = .next ((s.setQuad quad { s.quad quad with mHolder := h, mCredit := cr - 1 }).startMat (4 * quad + h))) ∧
    (∀ e r kind acc ta tb a b sa sb w threshold, (s.core core).vq = e :: r →
      e.op = .mat (.mma kind acc ta tb a b sa sb (some w) threshold) → e.waitMet = false → (s.core core).quarantined = false →
      e.watch.any s.watching = false →
      let own : State × Nat := match e.watch with | some id => (s, id) | none => s.fresh
      let armed := { e with watch := some own.2 }
      let ready := { e with waitMet := true, watch := none }
      (∀ s1 bs, own.1.engWatch e.cmd.party e.cmd.depth w.addr 16 w.host own.2 = (s1, .ok bs) →
        (leNat (bs.take 8) < threshold.toNat → exec (.mmaWaitCheck core) s = .next (s1.setCore core { s1.core core with vq := armed :: r })) ∧
        (threshold.toNat ≤ leNat (bs.take 8) → leNat (bs.drop 8) % 256 = 0 →
          exec (.mmaWaitCheck core) s = .next (s1.waitOver core armed (ready :: r))) ∧
        (threshold.toNat ≤ leNat (bs.take 8) → leNat (bs.drop 8) % 256 ≠ 0 →
          exec (.mmaWaitCheck core) s = .next ((s1.waitOver core armed r).complete e.cmd (faultStatus 0x30 0)))) ∧
      (∀ fs, e.cmd.core = core → s.Here core w.addr 16 fs → w.addr.toNat % 16 = 0 → threshold.toNat ≤ leNat ((s.bytesOf fs).take 8) →
        leNat ((s.bytesOf fs).drop 8) % 256 = 0 → ∃ s', exec (.mmaWaitCheck core) s = .next s' ∧ (s'.core core).vq = ready :: r) ∧
      (∀ fs, e.cmd.core = core → s.Here core w.addr 16 fs → w.addr.toNat % 16 = 0 → threshold.toNat ≤ leNat ((s.bytesOf fs).take 8) →
        leNat ((s.bytesOf fs).drop 8) % 256 ≠ 0 → ∃ s1 : State, exec (.mmaWaitCheck core) s = .next (s1.complete e.cmd (faultStatus 0x30 0)) ∧
          (s1.core core).vq = r ∧ ∀ x, (s1.core core).acc x = (s.core core).acc x)) ∧
    (∀ e m, (s.core core).started[n]? = some e → e.op = .mat m → (s.core core).accTurn n e = true → e.failed = none → e.cmd.core = core →
      let s1 := s.setCore core { s.core core with started := (s.core core).started.eraseIdx n }
      (∀ kind acc ta tb a b sa sb w v, m = .mma kind acc ta tb a b sa sb w v →
        let r := mmaTile kind ta tb (e.table.getD presetE4M3) sa sb ((s1.core core).acc acc) e.dataB e.dataC
        exec (.matrixOpComplete core n) s = .next (((s1.setCore core ((s1.core core).setAcc acc r.1)).raiseFor e.cmd.tid r.2).complete e.cmd 0)) ∧
      (∀ acc, m = .mzero acc →
        exec (.matrixOpComplete core n) s = .next ((s1.setCore core ((s1.core core).setAcc acc (List.replicate 256 0))).complete e.cmd 0)) ∧
      (∀ acc a, m = .mld acc a → exec (.matrixOpComplete core n) s = .next ((s1.setCore core ((s1.core core).setAcc acc
        ((List.range 256).map (fun i => leNat ((e.dataB.drop (4 * i)).take 4))))).complete e.cmd 0)) ∧
      (∀ acc a s2, m = .mst acc a → s1.writeTile core a.cursor 4 ((s1.core core).acc acc) 0 = (s2, .ok none) →
        exec (.matrixOpComplete core n) s = .next (s2.complete e.cmd 0)) ∧
      (∀ a, m = .dtload 1 a → exec (.matrixOpComplete core n) s = .next
        ((s1.setCore core { s1.core core with table := presetE4M3 }).complete e.cmd (statusWord 0 0 1))))

/-- The instruction has done this, and its thread has gone on to the next. -/
def Sys2Proof.Machine.State.Does (s : State) (i : Instr) (t : Thread) (s1 : State) : Prop := exec i s = .next (s.finish i t (.retire s1))

namespace Sys2Proof.Spec
open Sys2Proof.Machine

/-- UNV where the thread is not under the root (01 R24). -/
abbrev okUnv (t : Thread) (c : Reg) : Prop := t.hid = 0 ∨ c.unv = true

/-- UNV of an operand or cell that may be a window address (01 R24). -/
abbrev okWindow (t : Thread) (c : Reg) : Prop := t.hid = 0 ∨ c.lo.getLsbD 63 = false ∨ c.unv = true

/-- Entry `i` of the image that `mg.tbl` reads (14 R375). -/
def tableWord (bs : List Byte) (i : Nat) : Word := BitVec.ofNat 64 (leNat ((bs.drop (8 * i)).take 8))

/-- An image's header is well formed for its family (14 R356, R376): the family bit, format code 2 to 5, a use count, zeros above. -/
abbrev okHeader (lower : Bool) (h : Nat) : Prop :=
  h / 2 ^ 32 = (if lower then 1 else 0) ∧ 2 ≤ h / 2 ^ 8 % 16 ∧ h / 2 ^ 8 % 16 ≤ 5 ∧ 0 < h / 2 ^ 12 % 256

/-- The sheet of an injection at position `pos`. -/
def newSheet (h pos : Nat) (tile : List Byte) : Sheet := ⟨h % 256, h / 2 ^ 8 % 16, h / 2 ^ 12 % 256, 0, pos, 0, tile⟩

end Sys2Proof.Spec

/-- The mangle commands of a thread whose load claims its group's ring (14 R372 to R380), their checks passed: `mg.cfg` makes a ring that
does not run ready and empty; `mg.tbl` writes the entries of its image; an injection whose image is well formed and whose tag is new
waits for its latch; `mg.go` starts a session, which ends at once without unfired entries; `mg.halt` asks for its end; `mg.stat` writes
the ring's line; `mg.ej` takes the sheet named out into memory, 0x82 where there is none. At a running ring `mg.tbl`, `mg.stat` and `mg.ej` wait for
its next count; at a ring that is off they, the injections and `mg.go` answer 0x80, `mg.stat` apart. No earlier command of the ring is left
uncompleted (R373). -/
def Sys2Proof.Rules.MangleCommands : Prop :=
  ∀ (a b c d : RegNo) (x : Cx) (s : State) (t : Thread), Spec.okRel x t → Spec.okCell (t.reg c) →
    let g := groupOf (coreOf s.cur)
    let r := s.ring g
    let cmd := (t.cmd s.cur x (t.reg c)).inRing
    let q := (t.reg d).bits.toNat
    s.laneBusy cmd.lane = false → s.claimsRing t g = true → s.refuted t.part t.hid = false →
    (s.Issues t (.mgCfg d a b c x) → Spec.okUnv t (t.reg c) → Spec.okCell (t.reg a) → Spec.okCell (t.reg b) →
      q < 2 ^ 48 → q / 2 ^ 24 % 256 ≠ 0 → 12 ≤ q / 2 ^ 12 % 2 ^ 12 → q / 2 % 2 ^ 11 = 0 →
      (r.state = .running → r.step6Waits = false → s.Does (.mgCfg d a b c x) t (s.complete cmd 0x81)) ∧
      (r.state ≠ .running → r.waiting = [] → s.Does (.mgCfg d a b c x) t ((s.setRing g { Ring.reset with
        state := .ready, config := BitVec.ofNat 64 q, session := cellRef (t.reg a), faultCell := cellRef (t.reg b)
        late := r.late, latePend := r.latePend }).complete cmd 0))) ∧
    (s.Issues t (.mgTbl d a c x) → Spec.okUnv t (t.reg c) → q < 2 ^ 17 → 0 < q / 2 ^ 8 → q % 2 ^ 8 + q / 2 ^ 8 ≤ 256 →
      Spec.okOperand (t.reg a) (permLD ||| permENG) (8 * (q / 2 ^ 8)) → (t.reg a).lo.toNat % 8 = 0 →
      (r.state = .off → s.Does (.mgTbl d a c x) t (s.complete cmd 0x80)) ∧
      (r.state = .running → s.Does (.mgTbl d a c x) t (s.setRing g { r with waiting := r.waiting ++ [⟨cmd, 1, (t.reg d).bits, t.reg a, 0, none⟩] })) ∧
      (r.state = .ready → ∀ s1 bs, s.engRead cmd.party (t.reg a).lo (8 * (q / 2 ^ 8)) (t.reg a).hostBit = (s1, .ok bs) →
        (∀ i, i < q / 2 ^ 8 → entryBad (Spec.tableWord bs i) = false) →
        s.Does (.mgTbl d a c x) t ((s1.setRing g { s1.ring g with table := (List.range (q / 2 ^ 8)).foldl (fun tb i =>
          if (Spec.tableWord bs i).getLsbD 0 then tput tb (q % 2 ^ 8 + i) (Spec.tableWord bs i) else tdel tb (q % 2 ^ 8 + i)) (s1.ring g).table }).complete cmd 0))) ∧
    (∀ i lower, (i = .mgInjU d a c x ∧ lower = false) ∨ (i = .mgInjL d a c x ∧ lower = true) → s.Issues t i → Spec.okUnv t (t.reg c) → q < 2 →
      Spec.okOperand (t.reg a) (permLD ||| permENG) 528 → (t.reg a).lo.toNat % 64 = 0 →
      (r.state = .off → s.Does i t (s.complete cmd 0x80)) ∧
      (r.state ≠ .off → ∀ s1 hb s2 tile, s.engRead cmd.party (t.reg a).lo 16 (t.reg a).hostBit = (s1, .ok hb) → Spec.okHeader lower (leNat hb) →
        s1.engRead cmd.party ((t.reg a).lo + 16) (if leNat hb / 2 ^ 8 % 16 < 4 then 512 else 256) (t.reg a).hostBit = (s2, .ok tile) →
        (s2.ring g).find lower (leNat hb % 256) = none → (s2.ring g).tagWaits lower (leNat hb % 256) = false →
        let s3 := s2.setRing g { s2.ring g with waiting := (s2.ring g).waiting
          ++ [⟨cmd, if lower then 3 else 2, (t.reg d).bits, t.reg a, coreOf s.cur % 16, some (Spec.newSheet (leNat hb) (coreOf s.cur % 16) tile)⟩] }
        s.Does i t (if (s2.ring g).state = .running then s3 else s3.placeInjections g (s2.ring g).next))) ∧
    (s.Issues t (.mgGo c x) → Spec.okUnv t (t.reg c) →
      let r0 : Ring := { r with goCmd := some cmd, cls := t.cls, presses := 0, misses := 0, stranded := 0, heldCycles := 0, badAdd := false
                                ending := none, haltAsk := [], pend := [], nextAt := s.cycle }
      (r.state = .off → s.Does (.mgGo c x) t (s.complete cmd 0x80)) ∧
      (r.state = .running → r.step6Waits = false → s.Does (.mgGo c x) t (s.complete cmd 0)) ∧
      (r.state = .ready → r.unfired ≠ 0 → s.Does (.mgGo c x) t ((s.setRing g { r0 with state := .running }).complete cmd 0)) ∧
      (r.state = .ready → r.unfired = 0 → ∀ s1, (s.setRing g r0).endCell (ringWrite cmd r.session 0) = (s1, true) →
        s.Does (.mgGo c x) t (s1.complete cmd 0))) ∧
    (s.Issues t (.mgHalt c x) → Spec.okUnv t (t.reg c) →
      (r.state ≠ .running → s.Does (.mgHalt c x) t (s.complete cmd 0)) ∧
      (r.state = .running → r.step6Waits = false → s.Does (.mgHalt c x) t (s.setRing g { r with
        haltAsk := r.haltAsk ++ [cmd]
        ending := if r.ending = none ∧ r.midCount = false ∧ r.encounters = [] then some 2 else r.ending }))) ∧
    (s.Issues t (.mgStat a c x) → Spec.okWindow t (t.reg a) → Spec.okOperand (t.reg a) (permST ||| permENG) 64 → (t.reg a).lo.toNat % 64 = 0 →
      (r.state = .running → s.Does (.mgStat a c x) t (s.setRing g { r with waiting := r.waiting ++ [⟨cmd, 6, 0, t.reg a, 0, none⟩] })) ∧
      (r.state ≠ .running → ∀ s1, s.engWrite cmd.party (t.reg a).lo r.statLine (t.reg a).hostBit (t.reg a).unv false = (s1, .ok ()) →
        s.Does (.mgStat a c x) t (s1.complete cmd 0))) ∧
    (s.Issues t (.mgEj d a c x) → Spec.okWindow t (t.reg a) → q < 2 ^ 9 → Spec.okOperand (t.reg a) (permST ||| permENG) 528 →
      (t.reg a).lo.toNat % 64 = 0 →
      let lower := (t.reg d).bits.getLsbD 8
      (r.state = .off → s.Does (.mgEj d a c x) t (s.complete cmd 0x80)) ∧
      (r.state = .running → s.Does (.mgEj d a c x) t (s.setRing g { r with waiting := r.waiting ++ [⟨cmd, 7, (t.reg d).bits, t.reg a, 0, none⟩] })) ∧
      (r.state = .ready → r.waiting = [] → r.find lower (q % 256) = none → s.Does (.mgEj d a c x) t (s.complete cmd 0x82)) ∧
      (r.state = .ready → ∀ p sh s1, r.find lower (q % 256) = some (p, sh) → (s1.ring g).waiting = [] →
        s.engWrite cmd.party (t.reg a).lo (sh.image lower) (t.reg a).hostBit (t.reg a).unv false = (s1, .ok ()) →
        s.Does (.mgEj d a c x) t ((s1.setRing g ((s1.ring g).setLatches lower (tdel ((s1.ring g).latches lower) p))).complete cmd (statusWord 0 0 p))))

/-- The ring's events (14 R358 to R370): upper sheets move one position up at odd counts, lower ones one down at even counts after the
first; a count with no sheet latched goes by, and a session without unfired entries ends; two sheets whose tags and format an
entry names at its home press there: the press joins that core's queue, both use counts go down, the entry has fired; a held
encounter fires while its queue has room and it has not held too long, else it is missed; an any-home press adds its product in its turn,
at once where no reservation is held; an ended session with no press open writes its session cell and the ring is ready. -/
def Sys2Proof.Rules.MangleEvents : Prop :=
  (∀ (r : Ring) (h p : Nat) (x : Sheet),
    (h % 2 = 1 → r.upper = [(p, x)] → (r.move h).upper = [((p + 1) % 16, x)] ∧ (r.move h).lower = r.lower) ∧
    (h % 2 = 0 → h ≠ 0 → r.lower = [(p, x)] → (r.move h).lower = [((p + 15) % 16, x)] ∧ (r.move h).upper = r.upper)) ∧
  ∀ (s : State) (g : Nat), let r := s.ring g
    r.state = .running →
    (r.ending = none → r.encounters = [] → r.midCount = false → r.nextAt ≤ s.cycle → s.ringStopping g = false → r.upper = [] → r.lower = [] →
      r.waiting = [] → ∃ s', exec (.halfStep g) s = .next s' ∧ s'.ring g = { r with
        nextAt := s.cycle + ringPeriod r.config, next := r.next + 1
        ending := if r.unfired = 0 then some 0 else if r.haltAsk = [] then none else some 2 } ∧ ∀ a, s'.byteAt a = s.byteAt a) ∧
    (∀ h p u l idx e, tget r.upper p = some u → tget r.lower p = some l → r.table = [(idx, e)] → e.getLsbD 0 = true → e.getLsbD 1 = false →
      (e.extractLsb' 56 8).toNat = u.tag → (e.extractLsb' 48 8).toNat = l.tag → (e.extractLsb' 44 4).toNat = u.fmt → u.fmt = l.fmt →
      e.getLsbD 41 = false → (e.extractLsb' 37 4).toNat = p → (s.core (16 * g + p)).vq.length < 4 →
      ∃ press, ((s.checkPos g h p).core (16 * g + p)).vq = (s.core (16 * g + p)).vq ++ [press] ∧
        press.op = .mat (.press g p (16 * h + p) idx r.cls e) ∧ press.dataB = u.tile ∧ press.dataC = l.tile ∧
        (s.checkPos g h p).ring g = { r with upper := tput r.upper p { u with use_ := u.use_ - 1 }
                                             lower := tput r.lower p { l with use_ := l.use_ - 1 }
                                             table := tput r.table idx (e ||| 2#64), presses := r.presses + 1, openPress := r.openPress + 1 }) ∧
    (∀ pos e, r.encounters.find? (fun e => e.pos = pos) = some e →
      ((s.core (16 * g + pos)).vq.length < 4 → s.cycle < e.since + (r.config.extractLsb' 32 16).toNat →
        exec (.heldEncounterFire g pos) s = .next ((s.firePress g r.next pos e.idx).closeEncounter g e)) ∧
      (e.since + (r.config.extractLsb' 32 16).toNat ≤ s.cycle →
        exec (.encounterHoldExpiry g pos) s = .next ((s.setRing g { r with misses := r.misses + 1 }).closeEncounter g e))) ∧
    (∀ x, r.adds = [x] → (∀ o ∈ r.pend, x.order ≤ o) → r.encounters = [] →
      (∀ s1, s.addAll g x x.prod 0 = some s1 →
        exec (.anyHomeAdd g) s = .next (s1.setRing g { s1.ring g with adds := (s1.ring g).adds.filter (· ≠ x)
                                                                      pend := (s1.ring g).pend.filter (· ≠ x.order)
                                                                      openPress := (s1.ring g).openPress - 1 })) ∧
      ((∀ tid u, (tid, u) ∈ s.allThreads → u.resv = none) → s.bridge.peerResv = [] →
        ∃ s', exec (.anyHomeAdd g) s = .next s' ∧ (s'.ring g).adds = [] ∧ (s'.ring g).openPress = r.openPress - 1)) ∧
    (∀ code cmd, r.ending = some code → r.openPress = 0 → r.midCount = false → r.waiting = [] → r.haltAsk = [] → r.goCmd = some cmd →
      let ready : Ring := { r with state := .ready, ending := none, haltAsk := [] }
      (∀ s1, s.endCell (ringWrite cmd r.session (BitVec.ofNat 64 ((if code = 0 ∧ r.badAdd = true then 0x81 else code)
          + r.presses % 2 ^ 32 * 2 ^ 16 + (if r.misses ≤ 0xFFFF then r.misses else 0xFFFF) * 2 ^ 48))) = (s1, true) →
        exec (.sessionComplete g) s = .next (s1.setRing g ready)) ∧
      (s.CellHere { cmd with cell := some r.session } → ∃ s', exec (.sessionComplete g) s = .next s' ∧ s'.ring g = ready))

namespace Sys2Proof.Spec
open Sys2Proof.Machine

/-! ## The hypothesis engine (15 R386 to R416) -/

/-- A handle of the issuer's partition with the right `p`: tagged, sealed, of otype 0x3F in bits [62:57], of one byte (15 R390, R392). -/
abbrev okHandle (t : Thread) (h : Reg) (p : BitVec 14) : Prop :=
  h.tag = true ∧ h.sealed_ = true ∧ h.has p = true ∧ h.lo.toNat / 2 ^ 57 = 0x3F ∧
    boundsOf h = ((h.lo.toNat : Int), (h.lo.toNat : Int) + 1) ∧ h.lo.toNat / 2 ^ 51 % 64 = t.part

/-- A place that keeps tags: the handle can be written there (15 R396). -/
def keepsTags (s : State) (part core : Nat) (b : Reg) : Bool :=
  match placeOf s.bridge.chip core b.lo with
  | .clu _ _ => false
  | .far _ => !b.lo.getLsbD 62
  | .core _ _ => true
  | .glob va => (match s.peekTrans part va .write b.hostBit with | .ok _ l => pteTgt l == 0 | _ => true)

end Sys2Proof.Spec

/-- The hypothesis instructions of a thread whose own node is not refuted, their checks passed (15 R396 to R401, R414): `hnew` makes a live
node below the issuer's, writes its handle and answers its ID, 0x80 with no ID free, 0x81 at depth 15; `henter` moves its thread to a
node at or below its own, faulting 0x22 on a retired handle and 0x28 on a node elsewhere; `hleave` moves it to the parent, and does
nothing in the root; the resolves confirm or refute a live node and write its notices before their cell, and answer 0x83 for a retired
handle and 0x82 for a resolved node; `hstat` writes the node's line. No earlier command of the keeper is left uncompleted (R395). -/
def Obligations.HypothesisCommands : Prop :=
  ∀ (a b c : RegNo) (x : Cx) (s : State) (t : Thread), Spec.okRel x t → s.refuted t.part t.hid = false →
    let cmd := (t.cmd s.cur x (t.reg c)).inKeeper
    s.laneBusy cmd.lane = false →
    let mine := s.effective t.part t.hid
    (∀ p, s.Issues t (.hnew a b c x) → Spec.okOperand (t.reg a) (permST ||| permAMO) 64 → (t.reg a).lo.toNat % 64 = 0 →
      Spec.okOperand (t.reg b) (permST ||| permSTC ||| permENG) 16 → (t.reg b).lo.toNat % 16 = 0 → Spec.okCell (t.reg c) →
      Spec.okUnv t (t.reg a) → Spec.okUnv t (t.reg b) → Spec.okUnv t (t.reg c) → tget s.parts t.part = some p →
      (4095 ≤ p.nodes.length → s.Does (.hnew a b c x) t (s.completeAs cmd 0x80 1 true)) ∧
      (∀ id, p.nodes.length < 4095 → tfree p.nodes 4095 1 = some id → s.depthOf t.part mine = 15 →
        s.Does (.hnew a b c x) t (s.completeAs cmd 0x81 1 true)) ∧
      (∀ id, p.nodes.length < 4095 → tfree p.nodes 4095 1 = some id → s.depthOf t.part mine ≠ 15 →
        let gen := ((tget p.gens id).getD 0 + 1) % 2 ^ 32
        let counted := s.setPart t.part { p with gens := tput p.gens id gen }
        let handle := quadBytes (handleOf t.part gen id).bits
        let made (s1 : State) : State := (s1.setNodes t.part (fun ns => tput ns id
          ⟨.live, gen, mine, s.depthOf t.part mine + 1, cellRef (t.reg a)⟩)).completeAs cmd (statusWord 0 0 id) 1 true
        (∀ s1, counted.engWrite1 cmd.party (t.reg b).lo handle true (t.reg b).hostBit (t.reg b).unv true = (s1, .ok ()) →
          Spec.keepsTags s1 t.part (coreOf s.cur) (t.reg b) = true → s.Does (.hnew a b c x) t (made s1)) ∧
        (∀ k off fs, placeOf s.bridge.chip (coreOf s.cur) (t.reg b).lo = .core k off → s.Here (coreOf s.cur) (t.reg b).lo 16 fs →
          s.Does (.hnew a b c x) t (made (counted.writeLocal (.core k off) fs handle true))))) ∧
    (s.Issues t (.henter a x) → Spec.okHandle t (t.reg a) permLD →
      (∀ id n, s.handleNode (t.reg a) = some (id, n) → s.refuted t.part (s.effective t.part id) = false →
        let toF := s.effective t.part id
        (toF = mine → s.Does (.henter a x) t s) ∧
        (toF ≠ mine → s.under t.part mine toF = true → s.Does (.henter a x) t (s.modThread s.cur (fun u =>
          { u with hid := toF, depth := s.depthOf t.part toF, resv := none }))) ∧
        (toF ≠ mine → s.under t.part mine toF = false → t.window = [] → ∃ s' t', exec (.henter a x) s = .next s' ∧
          s'.thread? s.cur = some t' ∧ t.Faulting t' ⟨0x28, (t.reg a).lo, .command, 6⟩ s.cycle)) ∧
      (s.handleNode (t.reg a) = none → t.window = [] → ∃ s' t', exec (.henter a x) s = .next s' ∧ s'.thread? s.cur = some t' ∧
        t.Faulting t' ⟨0x22, (t.reg a).lo, .command, 6⟩ s.cycle)) ∧
    (s.Issues t (.hleave x) →
      (t.hid = 0 → s.Does (.hleave x) t s) ∧
      (t.hid ≠ 0 → let up := s.parentOf t.part t.hid
        s.Does (.hleave x) t (s.modThread s.cur (fun u => { u with hid := up, depth := s.depthOf t.part up, resv := none })))) ∧
    (∀ i, i = .hconfirm a c x ∨ i = .hconfirmX a c x ∨ i = .hrefute a c x → s.Issues t i → Spec.okHandle t (t.reg a) permAMO →
      Spec.okCell (t.reg c) → Spec.okUnv t (t.reg c) →
      (s.handleNode (t.reg a) = none → s.Does i t (s.completeAs cmd 0x83 1 true)) ∧
      (∀ id n, s.handleNode (t.reg a) = some (id, n) → n.state ≠ .live → s.Does i t (s.completeAs cmd 0x82 1 true)) ∧
      (∀ id n, s.handleNode (t.reg a) = some (id, n) → n.state = .live →
        let sibs := ((s.nodes t.part).filter (fun (j, m) => decide (m.state = .live ∧ m.parent = n.parent ∧ j ≠ id))).map Prod.fst
        let ends (s1 : State) (xs : List Notice) (orphans : Nat) : State := (s1.writeNotices cmd xs).completeAs cmd
          (statusWord 0 0 ((if (xs.filter (fun y => decide (y.code ≠ 0))).length ≤ 0xFFFF then (xs.filter (fun y => decide (y.code ≠ 0))).length else 0xFFFF)
            * 2 ^ 32 + orphans % 2 ^ 32)) 1 true
        (∀ s1, i = .hconfirm a c x ∨ (i = .hconfirmX a c x ∧ sibs = []) → s.confirm t.part id n = (s1, .ok ()) →
          s.Does i t (ends s1 [⟨id, n, 0, []⟩] 0)) ∧
        ((∀ k v, (k, v) ∈ s.clusters → ∀ y ∈ v.versions, ¬(y.part = t.part ∧ y.hid = id)) → (s.confirm t.part id n).2 = .ok ()) ∧
        (∀ s1, i = .hconfirmX a c x → sibs ≠ [] → (s.refute cmd sibs).1.confirm t.part id n = (s1, .ok ()) →
          s.Does i t (ends s1 (⟨id, n, 0, []⟩ :: (s.refute cmd sibs).2.1) (s.refute cmd sibs).2.2)) ∧
        (i = .hrefute a c x → s.Does i t (ends (s.refute cmd [id]).1 (s.refute cmd [id]).2.1 (s.refute cmd [id]).2.2)))) ∧
    (s.Issues t (.hstat a b c x) → (a = 0 ∨ Spec.okHandle t (t.reg a) permLD) → Spec.okOperand (t.reg b) (permST ||| permENG) 64 →
      (t.reg b).lo.toNat % 64 = 0 → Spec.okCell (t.reg c) → Spec.okWindow t (t.reg b) →
      let id := if a = 0 then some t.hid else (s.handleNode (t.reg a)).map Prod.fst
      ∀ s1, s.engWrite cmd.party (t.reg b).lo (s.hstatLine t.part t.hid id) (t.reg b).hostBit (t.reg b).unv false = (s1, .ok ()) →
        s.Does (.hstat a b c x) t (s1.complete cmd 0))

/-- A handle names its node while the node keeps its generation, and its holder may use it in its own partition (15 R390, R392); no
other thread's partition may. Merging a version line into the root puts its masked bytes into the line's bytes and leaves every
other byte of memory (15 R415). -/
def Obligations.HandlesAndMerges : Prop :=
  (∀ (part gen id : Nat), part < 64 → gen < 2 ^ 32 → id < 4096 →
    (∀ t : Thread, t.part = part → Spec.okHandle t (handleOf part gen id) permLD ∧ Spec.okHandle t (handleOf part gen id) permAMO) ∧
    (∀ t : Thread, t.part ≠ part → ¬Spec.okHandle t (handleOf part gen id) permLD) ∧
    (∀ (s : State) (n : HypNode), tget (s.nodes part) id = some n →
      s.handleNode (handleOf part gen id) = if n.gen = gen then some (id, n) else none)) ∧
  (∀ (s : State) (l : Loc) (v : VersionLine), s.Canonical →
    (∀ j, j < 64 → (l.cached = true ∨ tget s.dirty (l.flat / 64) = none) → (s.mergeRoot l v).byteAt (l.flat / 64 * 64 + j) =
      (v.bytes.getD j none).getD (s.byteAt (l.flat / 64 * 64 + j))) ∧
    (∀ a, a / 64 ≠ l.flat / 64 → (s.mergeRoot l v).byteAt a = s.byteAt a))

namespace Sys2Proof.Spec
open Sys2Proof.Machine

/-- The optional cell of a combining command passes (16 R422): under a hypothesis it must be there, with UNV. -/
abbrev okCombCell (t : Thread) (c : RegNo) : Prop := (c = 0 ∨ okCell (t.reg c)) ∧ okUnv t (t.reg c)

/-- The state in which a command finds barrier `n`: as it is while fewer have arrived than are expected, else with the phase completed
first and its word in the scratchpad (16 R426). -/
def barrierFound (s : State) (cl n : Nat) (s0 : State) : Prop :=
  (s0 = s ∧ ∀ y, tget (s.cluster cl).bars n = some y → y.e = 0 ∨ y.a < y.e) ∨
  ∃ y fs, tget (s.cluster cl).bars n = some y ∧ 0 < y.e ∧ y.e ≤ y.a ∧ s.localFlat (.clu cl y.off) 8 = .ok fs ∧
    s.heldByOther none (fun r => fs.any (fun a => resvOnFlat a 1 r)) = false ∧
    s0 = (s.setBar cl n { y with phase := (y.phase + 1) % 2 ^ 64, a := y.a - y.e, e := 0, scope := .clu }).writeLocal
      (.clu cl y.off) fs (leBytes 8 ((y.phase + 1) % 2 ^ 64)) false

end Sys2Proof.Spec

/-- The combining commands, their checks passed (16 R421, R422, R425, R430, R431, R435), complete: `bar.exp` binds a free barrier to its load
and adds to its expectations, `bar.arr` adds to its arrivals: each answers the phase it counts into; `free` releases the barrier; a
barrier of another load answers 0x82, an arrival at a free one 0x80. `red.cfg` makes the tree its image describes, or releases it.
`red.send` gives its chunk to a round that lacks it, and waits at its leaf behind one given already; without the tree it answers 0x80.
`red.stat` writes what a tree or barrier of its load shows, zeros for a free one. No earlier command of the barrier or tree is left
uncompleted (R423). -/
def Sys2Proof.Rules.CombiningCommands : Prop :=
  ∀ (a b c d : RegNo) (x : Cx) (s : State) (t : Thread), Spec.okRel x t → Spec.okCombCell t c →
    let me := coreOf s.cur
    let cl := clusterOf me
    let q := (t.reg d).bits.toNat
    let cmdB := (Spec.optCmd s t x c).inComb false (q % 16)
    let cmdT := (Spec.optCmd s t x c).inComb true (q % 8)
    let tree := tget (s.cluster cl).trees (q % 8)
    let wide (y : Scope) : Scope := if y.code.toNat < x.scope.code.toNat then x.scope else y
    (∀ i, i = .barExp d c x ∨ i = .barExpFree d c x → s.Issues t i → s.laneBusy cmdB.lane = false →
      q / 2 ^ 103 = 0 → q / 2 ^ 64 % 8 = 0 → q / 2 ^ 6 % 2 ^ 26 = 0 → q / 2 ^ 4 % 2 = 0 →
      ∀ s0, Spec.barrierFound s cl (q % 16) s0 →
      let bar := tget (s0.cluster cl).bars (q % 16)
      (q / 2 ^ 5 % 2 = 0 → bar = none → s.Does i t ((s0.setBar cl (q % 16)
        ⟨t.load, q / 2 ^ 64 % 2 ^ 39, 0, q / 2 ^ 32 % 2 ^ 32, 0, wide .clu⟩).completeAs cmdB (statusWord 0 0 1) 1 true)) ∧
      (q / 2 ^ 5 % 2 = 0 → ∀ y, bar = some y → y.owner = t.load → y.off = q / 2 ^ 64 % 2 ^ 39 → y.e + q / 2 ^ 32 % 2 ^ 32 < 2 ^ 32 →
        s.Does i t ((s0.setBar cl (q % 16) { y with e := y.e + q / 2 ^ 32 % 2 ^ 32, scope := wide y.scope }).completeAs cmdB
          (statusWord 0 0 ((y.phase + 1) % 2 ^ 48)) 1 true)) ∧
      (∀ y, bar = some y → y.owner ≠ t.load → (q / 2 ^ 5 % 2 = 1 → q / 2 ^ 32 = 0) → s.Does i t (s0.completeAs cmdB (statusWord 0x82 0 0) 1 true)) ∧
      (q / 2 ^ 5 % 2 = 1 → q / 2 ^ 32 = 0 → bar = none → s.Does i t (s0.completeAs cmdB (statusWord 0 0 0) 1 true)) ∧
      (q / 2 ^ 5 % 2 = 1 → q / 2 ^ 32 = 0 → ∀ y, bar = some y → y.owner = t.load →
        s.Does i t ((s0.setCluster cl { s0.cluster cl with bars := tdel (s0.cluster cl).bars (q % 16) }).completeAs cmdB (statusWord 0 0 0) 1 true))) ∧
    (s.Issues t (.barArr d c x) → s.laneBusy cmdB.lane = false → q / 2 ^ 64 = 0 → q / 2 ^ 4 % 2 ^ 28 = 0 → 0 < q / 2 ^ 32 →
      ∀ s0, Spec.barrierFound s cl (q % 16) s0 →
      let bar := tget (s0.cluster cl).bars (q % 16)
      (bar = none → s.Does (.barArr d c x) t (s0.completeAs cmdB (statusWord 0x80 0 0) 1 true)) ∧
      (∀ y, bar = some y → y.owner = t.load → y.a + q / 2 ^ 32 < 2 ^ 32 → s.Does (.barArr d c x) t ((s0.setBar cl (q % 16)
        { y with a := y.a + q / 2 ^ 32, scope := wide y.scope }).completeAs cmdB (statusWord 0 0 ((y.phase + 1) % 2 ^ 48)) 1 true))) ∧
    (∀ i, i = .redCfg d a b c x ∨ i = .redCfgFree d a b c x → s.Issues t i → s.laneBusy cmdT.lane = false →
      (q < 8 → Spec.okOperand (t.reg a) (permLD ||| permENG) 128 → (t.reg a).lo.toNat % 64 = 0 → Spec.okCell (t.reg b) → Spec.okUnv t (t.reg b) →
        let made (s1 : State) (img : List Byte) : State := (s1.setTree cl q
          { owner := t.load, closed := false, ctl := imgWord img 0, result := (imgWord img 8).toNat
            perm := ((img.drop 0x20).take 64).map BitVec.toNat, cmd := { cmdT with cell := some (cellRef (t.reg b)) }
            round := 0, given := [], ran := 0, since := none, holds := [] }).completeAs cmdT (statusWord 0 0 0) 1 true
        tree = none →
        (∀ s1 img, s.engRead cmdT.party (t.reg a).lo 128 (t.reg a).hostBit = (s1, .ok img) → s1.imageBad cl t.load img = none →
          tget (s1.cluster cl).trees q = none → s.Does i t (made s1 img)) ∧
        (∀ fs fs', s.Here me (t.reg a).lo 64 fs → s.Here me ((t.reg a).lo + 64) 64 fs' → s.imageBad cl t.load (s.bytesOf (fs ++ fs')) = none →
          s.Does i t (made s (s.bytesOf (fs ++ fs'))))) ∧
      (q / 2 ^ 8 = 1 → q % 2 ^ 8 < 8 → a = 0 → b = 0 →
        (tree = none → s.Does i t (s.completeAs cmdT (statusWord 0 0 0) 1 true)) ∧
        (∀ y, tree = some y → y.owner = t.load → y.holds = [] →
          s.Does i t ((s.setCluster cl { s.cluster cl with trees := tdel (s.cluster cl).trees (q % 8) }).completeAs cmdT (statusWord 0 0 0) 1 true))) ∧
      (q < 8 → Spec.okOperand (t.reg a) (permLD ||| permENG) 128 → (t.reg a).lo.toNat % 64 = 0 → Spec.okCell (t.reg b) → Spec.okUnv t (t.reg b) →
        ∀ y, tree = some y → y.owner ≠ t.load → s.Does i t (s.completeAs cmdT (statusWord 0x82 0 0) 1 true))) ∧
    (s.Issues t (.redSend d a c x) → s.laneBusy cmdT.lane = false →
      q / 2 ^ 24 = 0 → q / 2 ^ 12 % 16 = 0 → q / 2 ^ 3 % 32 = 0 → 4 ≤ q / 2 ^ 16 → q / 2 ^ 16 ≤ 64 →
      Spec.okOperand (t.reg a) (permLD ||| permENG) (q / 2 ^ 16) → (t.reg a).lo.toNat % 8 = 0 → s.refuted t.part t.hid = false →
      let chunk := q / 2 ^ 8 % 16
      let leaf := me % 64
      (tree = none → s.Does (.redSend d a c x) t (s.completeAs cmdT (statusWord 0x80 0 0) 1 true)) ∧
      (∀ y, tree = some y → y.owner = t.load → y.closed = false → y.leaves.contains leaf = true → chunk ≤ treeChunks y.ctl →
        q / 2 ^ 16 = treeBytes y.ctl →
        let gave (s1 : State) (bs : List Byte) : State := (s1.setTree cl (q % 8) { y with
          given := y.given ++ [(leaf, chunk, bs)], since := if y.given = [] then some s.cycle else y.since }).completeAs cmdT
            (statusWord 0 0 (y.round % 2 ^ 48)) 1 true
        (y.gave leaf chunk = false → (∀ h ∈ y.holds, ¬(h.leaf = leaf ∧ h.chunk = chunk)) →
          (∀ s1 bs, s.engRead cmdT.party (t.reg a).lo (q / 2 ^ 16) (t.reg a).hostBit = (s1, .ok bs) → s.Does (.redSend d a c x) t (gave s1 bs)) ∧
          (∀ fs, s.Here me (t.reg a).lo (q / 2 ^ 16) fs → (t.reg a).lo.toNat % 64 + q / 2 ^ 16 ≤ 64 →
            s.Does (.redSend d a c x) t (gave s (s.bytesOf fs)))) ∧
        (y.gave leaf chunk = true → y.holds = [] →
          s.Does (.redSend d a c x) t (s.setTree cl (q % 8) { y with holds := [⟨cmdT, leaf, chunk, q / 2 ^ 16, t.reg a⟩] })))) ∧
    (s.Issues t (.redStat d a c x) → q < 32 → (q < 16 ∨ q < 24) → Spec.okOperand (t.reg a) (permST ||| permENG) 64 →
      (t.reg a).lo.toNat % 64 = 0 → Spec.okWindow t (t.reg a) →
      let cmd := (Spec.optCmd s t x c).inComb (decide (16 ≤ q)) (q % 16)
      s.laneBusy cmd.lane = false →
      let line (s2 : State) : List Byte :=
        if q < 16 then ((tget (s2.cluster cl).bars q).map Barrier.line).getD (zeroBytes 64)
        else ((tget (s2.cluster cl).trees (q % 16)).map (fun y => y.line s2.cycle)).getD (zeroBytes 64)
      ∀ s0, (q < 16 → Spec.barrierFound s cl q s0) → (16 ≤ q → s0 = s) →
      (∀ y, q < 16 → tget (s0.cluster cl).bars q = some y → y.owner = t.load) → (∀ y, 16 ≤ q → tree = some y → y.owner = t.load) →
      (∀ s1, s0.engWrite cmd.party (t.reg a).lo (line s0) (t.reg a).hostBit (t.reg a).unv false = (s1, .ok ()) →
        s.Does (.redStat d a c x) t (s1.completeAs cmd (statusWord 0 0 0) 1 true)) ∧
      (∀ fs, s0.Here me (t.reg a).lo 64 fs → Spec.okUnv t (t.reg a) →
        s.Does (.redStat d a c x) t ((s0.put me (t.reg a).lo fs (line s0)).completeAs cmd (statusWord 0 0 0) 1 true)))

/-- Barriers and rounds (16 R426, R432 to R434): where arrivals have reached expectations the phase goes up by one, the expectations are
zero, what arrived beyond them stays, and the phase word stands in the scratchpad; a round whose leaves have all given every chunk writes its
results and a zero report word, answers its round, and opens the next; one whose time has run out reports the leaves that are
missing, answers code 3 and closes its tree. -/
def Sys2Proof.Rules.CombiningEvents : Prop :=
  ∀ (s : State) (cl n : Nat),
    (∀ y fs, tget (s.cluster cl).bars n = some y → 0 < y.e → y.e ≤ y.a → s.localFlat (.clu cl y.off) 8 = .ok fs →
      s.heldByOther none (fun r => fs.any (fun a => resvOnFlat a 1 r)) = false →
      ∃ s', exec (.barrierPhaseComplete cl n) s = .next s' ∧ tget (s'.cluster cl).bars n =
        some { y with phase := (y.phase + 1) % 2 ^ 64, a := y.a - y.e, e := 0, scope := .clu }) ∧
    (∀ y, tget (s.cluster cl).trees n = some y → y.closed = false → s.resultHeld y cl = false → s.resultFits y cl = true → y.holds = [] →
      let next : Tree := { y with round := y.round + 1, given := [], ran := 0, since := none }
      ((∀ leaf ∈ y.perm, leaf ≠ 0xFF → y.gaveAll leaf = true) →
        let rs := (List.range (treeChunks y.ctl + 1)).map y.chunkResult
        let s1 := (((List.range (treeChunks y.ctl + 1)).zip rs).foldl (fun s (k, r) => s.tcmWrite (64 * cl + treeRoot y.ctl) (y.result + 64 * k) r.1)
          (s.raiseUnion cl (rs.foldl (fun g r => g ||| r.2) 0))).tcmWrite (64 * cl + treeRoot y.ctl) (y.result + 64 * (treeChunks y.ctl + 1)) (zeroBytes 8)
        ∀ s2 written, s1.endCell ⟨y.cmd, statusWord 0 0 (y.round % 2 ^ 48), 1, none, 18, y.owner, []⟩ = (s2, written) →
          exec (.roundEnd cl n) s = .next (if written then s2.setTree cl n next else s.keepWaiting s2)) ∧
      (∀ since, y.since = some since → (∃ leaf ∈ y.perm, leaf ≠ 0xFF ∧ y.gaveAll leaf = false) → y.ctl.toNat / 2 ^ 32 ≠ 0 →
          y.ctl.toNat / 2 ^ 32 * 256 ≤ y.ran + (s.cycle - since) →
        ∀ s2 written, (s.tcmWrite (64 * cl + treeRoot y.ctl) (y.result + 64 * (treeChunks y.ctl + 1))
          (leBytes 8 (maskOf ((y.perm.filter (fun l => decide (l ≠ 0xFF))).filter (fun l => !y.gaveAll l))))).endCell
            ⟨y.cmd, statusWord 3 0 (y.round % 2 ^ 48), 1, none, 18, y.owner, []⟩ = (s2, written) →
          exec (.roundTimeout cl n) s = .next (if written then s2.setTree cl n { next with closed := true } else s.keepWaiting s2)))

/-- The keeper of a partition's page requests (09 R274 to R277): a record is the request's fields in 64 bytes; the next request goes to
the fault queue while it has room, and its message goes out at most once in 4,096 cycles; the response line gives the queue's read
index and, in range, the number of responses; each response answers the request it names: its accesses are translated again, or
fault with 0x14; a request past its limit is denied. The record's addresses are translated by the bridge where the host has ATS
enabled for the function (log 89, DEDUCED). -/
def Obligations.PageRequests : Prop :=
  (∀ (q : PageReq) (index cl chip cycle : Nat), (q.record index cl chip cycle).length = 64 ∧
    (index + 1 < 2 ^ 64 → leNat ((q.record index cl chip cycle).take 8) = index + 1) ∧
    (q.page < 2 ^ 52 → leNat (((q.record index cl chip cycle).drop 8).take 8) =
      4096 * q.page + Spec.ofBool q.write + 2 * Spec.ofBool q.fetch + 4 * Spec.ofBool q.watch) ∧
    leNat (((q.record index cl chip cycle).drop 32).take 8) = q.entry.toNat) ∧
  ∀ (s : State) (part cl id : Nat) (p : Partition), tget s.parts part = some p →
    (∀ c q, s.nextPageReq part = some (c, q) → p.fqIndex - p.fqRead < p.fqSlots → s.bridge.hostUp = true →
      let written (s0 : State) (ring index : Nat) : State :=
        let s1 := (s0.flatWrite ring (q.record p.fqIndex c s0.bridge.chip s0.cycle)).flatWord index (p.fqIndex + 1)
        let s2 := s1.setCluster c { s1.cluster c with pageReqs := (s1.cluster c).pageReqs.map (fun r => if r = q then { q with written := true } else r) }
        (s2.setPart part { p with fqIndex := p.fqIndex + 1 }).fqMessage part
      (s.bridge.atsOn.getLsbD part = false → exec (.faultQueueRecord part) s =
        .next (written s (flatHost (p.word 3 + 64 * (p.fqIndex % p.fqSlots))) (flatHost (p.word 4)))) ∧
      (∀ s1 s2 ring index, s.recordAt part (p.word 3 + 64 * (p.fqIndex % p.fqSlots)) = (s1, .ok ring) → s1.recordAt part (p.word 4) = (s2, .ok index) →
        s2.bridge.chip = s.bridge.chip → s2.cycle = s.cycle → exec (.faultQueueRecord part) s = .next (written s2 ring index)) ∧
      (∀ s1, s.recordAt part (p.word 3 + 64 * (p.fqIndex % p.fqSlots)) = (s1, .hold) → exec (.faultQueueRecord part) s = .next (s.keepWaiting s1))) ∧
    (p.msiPending = true → (∀ c, p.lastMsi = some c → c + 4096 ≤ s.cycle) → s.vectorMasked part p.fqVector = false → p.fqVector < 64 →
      exec (.msiXIntervalExpiry part) s = .next ((s.setPart part { p with lastMsi := some s.cycle, msiPending := false }).emit (.msix part p.fqVector))) ∧
    (p.hasFaultQueue = true →
      let w := leNat (s.bytesAt (p.word 6 + 8) 8)
      exec (.pageResponseRead part) s = .next (s.setPart part { p with
        fqRead := leNat (s.bytesAt (p.word 6) 8), respIndex := if p.respIndex ≤ w ∧ w ≤ p.respIndex + p.fqSlots then w else p.respIndex })) ∧
    (p.respRead < p.respIndex →
      let e := leNat (s.bytesAt (p.word 6 + 64 + 16 * (p.respRead % p.fqSlots)) 8)
      let s1 := s.setPart part { p with respRead := p.respRead + 1 }
      let named := (s1.cluster (e / 2 ^ 16 % 2 ^ 14)).pageReqs.find? (fun q => q.part = part ∧ q.id = e % 2 ^ 16)
      (named = none → exec (.pageRequestAnswer part) s = .next s1) ∧
      (∀ q, named = some q → exec (.pageRequestAnswer part) s = .next (s1.answerPage (e / 2 ^ 16 % 2 ^ 14) q (decide (e / 2 ^ 32 % 256 ≠ 0))))) ∧
    (∀ q n, (s.cluster cl).pageReqs.find? (fun q => q.id = id) = some q → q.part = part → p.reqLimit = some n →
      q.since + n ≤ s.cycle → exec (.pageRequestLimit cl id) s = .next (s.answerPage cl q true)) ∧
    (∀ q deny n r, tget s.reqs n = some r → r.phase = .paging q.page → r.part = q.part → r.target = .home cl →
      tget ((s.answerPage cl q deny).reqs) n = some { r with phase := if deny then .fault 0x14 else .sent }) ∧
    (∀ q deny n r page, tget s.reqs n = some r → r.phase = .paging page → r.target = .home cl → (r.part = q.part → page ≠ q.page) →
      (∀ x ∈ (s.cluster cl).pageReqs, x.part = r.part → x.page ≠ page) → tget ((s.answerPage cl q deny).reqs) n = some { r with phase := .sent }) ∧
    (∀ q, ∀ h ∈ (s.cluster cl).engHolds, h.why = .page → h.who.part = q.part → h.line / 64 = q.page →
      { h with ended := some 0x14 } ∈ ((s.answerPage cl q true).cluster cl).engHolds)

/-- ATS and PRI at the bridge (17 R440 to R443): a translation that grants it sends the waiting accesses on, none denies them; a
marked request is sent again; no answer in 2^24 cycles denies; a page request group that succeeds lets its accesses look again, an invalid one
denies them, a failure denies them and every later one; a group past the limit counts as invalid; an invalidation drops the cached
pages and marks requests on their way; the data of a host read, or its error, reaches its access: 0x14, or 0x38 when poisoned. -/
def Obligations.AddressTranslationServices : Prop :=
  ∀ (s : State) (part page pages n : Nat) (a : AtsReq),
    (s.bridge.ats.find? (fun a => a.part = part ∧ a.page = page ∧ a.pri = false) = some a →
      (∀ h rd wr ex lg, a.marked = false → exec (.atsTranslationCompletion part page (.ok h rd wr ex lg)) s = .next (s.atsSuccess a h rd wr ex lg)) ∧
      (a.marked = false → exec (.atsTranslationCompletion part page .none) s = .next (s.atsDeny a)) ∧
      (∀ res, a.marked = true → exec (.atsTranslationCompletion part page res) s =
        .next (s.setAts (fun l => l.map (fun x => if x = a then { a with marked := false, since := s.cycle } else x)))) ∧
      (a.since + 2 ^ 24 ≤ s.cycle → exec (.atsCompletionTimeout part page) s = .next (s.atsDeny a))) ∧
    (s.bridge.ats.find? (fun a => a.part = part ∧ a.page = page ∧ a.pri = true) = some a →
      exec (.priResponse part page .success) s = .next (((s.setAts (fun l => l.filter (· ≠ a))).atsAgain a).priFreed a.part) ∧
      exec (.priResponse part page .invalid) s = .next ((s.atsDeny a).priFreed a.part) ∧
      (∀ p, tget s.parts a.part = some p →
        exec (.priResponse part page .failure) s = .next (((s.setPart a.part { p with priFailed := true }).atsDeny a).priFreed a.part)) ∧
      (∀ p k, tget s.parts part = some p → p.reqLimit = some k → a.since + k ≤ s.cycle →
        exec (.priGroupTimeout part page) s = .next ((s.atsDeny a).priFreed a.part))) ∧
    (∀ r, tget s.reqs n = some r → a.asks r = true → tget (s.atsDeny a).reqs n = some { r with phase := .fault 0x14 }) ∧
    (∃ s', exec (.atsInvalidateRequest part page pages) s = .next s' ∧
      s'.bridge.atc = s.bridge.atc.filter (fun e => !decide (e.part = part ∧ page ≤ e.page ∧ e.page < page + pages)) ∧
      (∀ x ∈ s'.bridge.ats, x.part = part → page ≤ x.page → x.page < page + pages → x.pri = false → x.marked = true) ∧
      ∀ b, s'.byteAt b = s.byteAt b) ∧
    (∀ r, tget s.reqs n = some r → r.phase = .atHost → s.sentToHost n = true →
      (∀ v, exec (.pcieReadCompletion n (.data v)) s =
        .next ((s.setReq n { r with phase := .done (BitVec.ofNat 128 (v.toNat % 2 ^ (8 * r.len))) false 0 }).finishInvs)) ∧
      exec (.pcieReadCompletion n .poisoned) s = .next ((s.setReq n { r with phase := .fault 0x38 }).finishInvs) ∧
      (∀ res, res = .unsupported ∨ res = .abort ∨ res = .timeout →
        exec (.pcieReadCompletion n res) s = .next ((s.setReq n { r with phase := .fault 0x14 }).finishInvs)))

/-- What the host does to the module (17 R438, R445 to R448, R453, R454): a snoop for a read brings the line's newest bytes to memory and changes
none; a snoop for a write leaves the host's bytes in the line and no other byte changed; an access to an HDM range reads what the root
view shows there, or performs its write, an owner having given the line up, and one that does not translate is counted and answered poisoned; a warm restart takes the
host's link down, a function reset does the same to one partition and lets its page requests be raised again; a link up is seen; the
host's writes to the MSI-X table and to mailbox arguments stand there. -/
def Obligations.HostEvents : Prop :=
  ∀ (s : State), s.steward.power = .aster → s.Canonical → s.NoStale →
    (∀ hpa, ∃ s', exec (.hostSnoop hpa none) s = .next s' ∧ (∀ a, s'.byteAt a = s.byteAt a) ∧
      ∀ a, a / 64 = flatHost hpa / 64 → memGet s'.mem a = s.byteAt a) ∧
    (∀ hpa v, s.flatHeld (flatHost hpa / 64) = false → ∃ s', exec (.hostSnoop hpa (some v)) s = .next s' ∧
      (∀ j, j < 64 → s'.byteAt (64 * (flatHost hpa / 64) + j) = BitVec.ofNat 8 (v / 256 ^ j)) ∧
      ∀ a, a / 64 ≠ flatHost hpa / 64 → s'.byteAt a = s.byteAt a) ∧
    (∀ part hpa n p hb vb size s1 s2 pa e, tget s.parts part = some p → p.hdm = some (hb, vb, size) → hb ≤ hpa → hpa + n ≤ hb + size → hpa % 64 + n ≤ 64 →
      let va := vb + (hpa - hb)
      s.powerUp.admitted (p.homeOf va) part 3 (va / 64) = some s1 →
      let l : Loc := ⟨part, va, p.homeOf va, pa, cacheable e⟩
      (∀ s3, s1.translate part va .read true false = (s2, .ok pa e) → pteTgt e = 0 → s2.recallOwner l.cl part l.line = (s3, .nothing) →
        exec (.cxlMemHostAccess part hpa n none) s = .next (if s3.viewPoisoned l 0 n then (s3.hostFault part).emit (.hostData part hpa (zeroBytes n) true)
          else s3.emit (.hostData part hpa (s3.viewRead l 0 n).1 false))) ∧
      (∀ v s3, s1.translate part va .write true true = (s2, .ok pa e) → pteTgt e = 0 → s2.engWriteHeld l = false →
        s2.clearLine l.cl part l.line = (s3, .nothing) → exec (.cxlMemHostAccess part hpa n (some v)) s =
          .next ((s3.performWrite l 0 (leBytes n v) false).emit (.hostWritten part hpa))) ∧
      (∀ c, s1.translate part va .read true false = (s2, .fault c) → exec (.cxlMemHostAccess part hpa n none) s =
        .next ((s2.hostFault part).emit (.hostData part hpa (zeroBytes n) true)))) ∧
    (∀ part hpa n p t hb vb size, p.hdm = some (hb, vb, size) → hb ≤ hpa → hpa + n ≤ hb + size → hpa % 64 + n ≤ 64 →
      let va := vb + (hpa - hb)
      let l := p.found t part va
      (s.cluster l.cl).unit? part l.line = none →
      (s.Mapped part va .read true p t → s.viewPoisoned l 0 n = false → ∃ s', exec (.cxlMemHostAccess part hpa n none) s = .next s' ∧
        s'.bridge.out = s.bridge.out ++ [.hostData part hpa (s.viewRead l 0 n).1 false] ∧ ∀ a, s'.byteAt a = s.byteAt a) ∧
      (∀ v, s.Mapped part va .write true p t → l.cached = false → s.engWriteHeld l = false →
        ∃ s', exec (.cxlMemHostAccess part hpa n (some v)) s = .next s' ∧
        s'.bridge.out = s.bridge.out ++ [.hostWritten part hpa] ∧
        (∀ j, j < n → tget s.dirty ((l.flat + j) / 64) = none → s'.byteAt (l.flat + j) = BitVec.ofNat 8 (v / 256 ^ j)) ∧
        ∀ a, (a < l.flat ∨ l.flat + n ≤ a) → s'.byteAt a = s.byteAt a)) ∧
    exec .hostWarmRestart s = .next (({ s with bridge := { s.bridge with hostUp := false } } : State).warmRestart (fun _ => true)) ∧
    exec .hostLinkUp s = .next { s with bridge := { s.bridge with hostUp := true } } ∧
    (∀ fn p, tget (s.warmRestart (fun q => decide (q = fn))).parts fn = some p → exec (.functionLevelReset fn) s =
      .next ((s.warmRestart (fun q => decide (q = fn))).setPart fn { p with priFailed := false })) ∧
    (∀ fn off v, fn < 64 → off % 8 = 0 →
      (off < 0x400 → exec (.registerWrite fn off v) s = .next ((s.setBarWord fn off v).sendPending fn)) ∧
      (0x1008 ≤ off → off < 0x1100 → exec (.registerWrite fn off v) s = .next (s.powerUp.setBarWord fn off v)) ∧
      (0x400 ≤ off → off < 0x1000 ∨ 0x1100 ≤ off → exec (.registerWrite fn off v) s = .next s) ∧
      (off = 0x1000 → v.toNat ≠ (s.mailbox fn).seqWord + 1 →
        exec (.registerWrite fn off v) s = .next (s.powerUp.setMailbox fn { s.mailbox fn with seqWord := v.toNat })))

/-- The links (18 R456 to R465): training gives the module its number and its links; a link that goes down or up changes its set, and watches
of modules out of reach go; a request to another module with no reply in 2^20 cycles faults with 0x10, one whose data cannot be recovered
with 0x38; an access of another module is performed where the table offers it, with its tag and right, and refused with 0x10 or 0x11 where it
does not; one that meets marked data answers 0x38; an `lres` reserves the line for its thread, and a `scond` writes where the reservation still stands. -/
def Obligations.LinkEvents : Prop :=
  ∀ (s : State),
    (∀ up, exec (.linkTraining none up []) s = .next (({ s with bridge := { s.bridge with chip := 0, links := 0, peers := [] } } : State).reached s)) ∧
    (∀ port up, port < 288 → exec (.linkTraining (some port) up []) s =
      .next (({ s with bridge := { s.bridge with chip := port, links := up, peers := [] } } : State).reached s)) ∧
    (∀ link up (m : BitVec 36), link < 36 → (∀ k, k < 36 → m.getLsbD k = if k = link then up else s.bridge.links.getLsbD k) →
      let s0 := s.powerUp
      let s1 : State := { s0 with bridge := { s0.bridge with links := m } }
      exec (.linkCountChange link up none) s = .next (((s0.reachableChips.filter (fun c => !s1.reachable c)).foldl (fun s c => s.dropChipWatches c) s1).reportReach s0)) ∧
    (∀ chip, exec (.peerUnreachable chip) s = .next
      ((({ s with bridge := { s.bridge with peers := tdel s.bridge.peers chip } } : State).dropChipWatches chip).reportReach s) ∧
      ∀ c, ∀ w ∈ ((s.dropChipWatches chip).core c).watches, ∀ r ∈ w.recs, r.chip ≠ chip) ∧
    (∀ n r, tget s.reqs n = some r → r.phase = .atHost → (∃ c, r.target = .peer c) →
      (r.sentAt + 2 ^ 20 ≤ s.cycle → exec (.linkReplyTimeout n) s = .next (s.setReq n { r with phase := .fault 0x10 })) ∧
      (r.kind.returns = true → exec (.linkLevelRetry n false) s = .next (s.setReq n { r with phase := .fault 0x38 })) ∧
      exec (.linkLevelRetry n true) s = .next s) ∧
    (∀ (p : PeerReq), s.steward.power = .aster → s.steward.moving = false → (∀ m n a b es g im, p.op ≠ .agent m n a b es g im) →
      let e := (tget s.bridge.offered (p.addr / 2 ^ 30)).getD 0
      let reply (s : State) (v : Quad) (c : Byte) : State := s.emit (.peerReply p.chip.toNat (BitVec.ofNat 64 p.addr) v false c)
      let offered : Prop := p.addr < dramEnd ∧ e.getLsbD 0 = true ∧ e.extractLsb' 18 16 = p.tag
      (dramEnd ≤ p.addr → exec (.peerAccess p) s = .next (reply s 0 0x10)) ∧
      (p.addr < dramEnd → (e.getLsbD 0 = false ∨ (e.extractLsb' 18 16) ≠ p.tag) → exec (.peerAccess p) s = .next (reply s 0 0x10)) ∧
      (offered → e.getLsbD 1 = false → peerWrites p.op = true → exec (.peerAccess p) s = .next (reply s 0 0x11)) ∧
      (∀ n, p.op = .load n → n ≤ 16 → offered →
        let fs := (List.range n).map (p.addr + ·)
        (s.poisonedAt fs = false → exec (.peerAccess p) s = .next (s.emit (.peerReply p.chip.toNat (BitVec.ofNat 64 p.addr)
          (BitVec.ofNat 128 (leNat (s.bytesAt p.addr n))) (decide (n = 16) && s.tagAt p.addr) 0))) ∧
        (s.poisonedAt fs = true → exec (.peerAccess p) s = .next (reply s 0 0x38))) ∧
      (s.Canonical → s.NoStale → s.flatHeld (p.addr / 64) = false → offered →
        (∀ bs tag, p.op = .store bs tag → e.getLsbD 1 = true → p.addr % 64 + bs.length ≤ 64 → ∃ s', exec (.peerAccess p) s = .next s' ∧
          (∀ j b, bs[j]? = some b → s'.byteAt (p.addr + j) = b) ∧ (p.addr % 16 = 0 → bs.length = 16 → s'.tagAt p.addr = tag) ∧
          ∀ a, (a < p.addr ∨ p.addr + bs.length ≤ a) → s'.byteAt a = s.byteAt a) ∧
        (∀ tid w, p.op = .lres tid w → s.poisonedAt ((List.range (widthBytes w)).map (p.addr + ·)) = false → ∃ s', exec (.peerAccess p) s = .next s' ∧
          s'.peerReserved p.chip.toNat tid.toNat (BitVec.ofNat 64 p.addr) (widthBytes w) = true ∧ ∀ a, s'.byteAt a = s.byteAt a) ∧
        (∀ tid w v tag, p.op = .scond tid w v tag true → e.getLsbD 1 = true → p.addr % 64 + widthBytes w ≤ 64 →
          s.peerReserved p.chip.toNat tid.toNat (BitVec.ofNat 64 p.addr) (widthBytes w) = true →
          s.poisonedAt ((List.range (widthBytes w)).map (p.addr + ·)) = false → ∃ s', exec (.peerAccess p) s = .next s' ∧
          (∀ j, j < widthBytes w → s'.byteAt (p.addr + j) = BitVec.ofNat 8 (v.toNat / 256 ^ j)) ∧
          ∀ a, (a < p.addr ∨ p.addr + widthBytes w ≤ a) → s'.byteAt a = s.byteAt a)))

namespace Sys2Proof.Spec
open Sys2Proof.Machine

/-- A mailbox command is acted on (19 R468, R469): it is due, no power transition is under way, no reserved argument is set, and
its function may give it: the PF or the firmware where only they may, the firmware only opcodes 4 and 7. -/
abbrev mailActs (s : State) (m : Mail) (op : Nat) (pfOnly : Bool) : Prop :=
  s.mailDue m op = true ∧ s.steward.moving = false ∧ m.reserved = false ∧ (m.fn = fwMail → op = 4 ∨ op = 7) ∧
    (pfOnly = true → m.fn = 0 ∨ m.fn = fwMail)

end Sys2Proof.Spec

/-- A mailbox event: the command does what `f` says of the state with the command in the journal, and is answered with status 0. -/
def Sys2Proof.Machine.State.MailDone (s : State) (i : Instr) (m : Mail) (op : Nat) (f : State → State) (data : List Word) : Prop :=
  exec i s = .next ((f (s.powerUp.journalRec m op)).mailReply m 0 data)

/-- The steward's commands, acted on and accepted (17 R452, R453; 19 R467 to R475): a partition is set up, or taken down
once its threads, which are stopped first, can be retired; the
partition's latency tolerance stands; `ATTEST` writes its report at the host's address and spends one key, burning the next block where it was the last of its block; `READ_JOURNAL`
answers up to three records and changes nothing else; a quarantined core is zeroed and released where its tests pass; an event ring is registered; an
image that verifies and is not too old is firmware; slices take their park size. A command during a power transition is answered 3, one with a
reserved argument 1, one its function may not give 2. -/
def Obligations.StewardCommands : Prop :=
  ∀ (s : State) (m : Mail),
    (∀ x, Spec.mailActs s m 1 true → s.powerUp.setupOk x = true → s.MailDone (.partitionSetup m x) m 1 (fun s => (s.setupPart x).setupQueues x.part x.queues) []) ∧
    (∀ part p, Spec.mailActs s m 2 true → tget s.powerUp.parts part = some p →
      let s1 := (s.powerUp.journaled m 2).stopPart part
      exec (.partitionTeardown m part) s = .next (if s1.retirable part then (s1.teardown part p).mailReply m 0 [] else s1)) ∧
    (∀ us p, Spec.mailActs s m 4 false → tget s.powerUp.parts (m.fn % 64) = some p →
      s.MailDone (.latencyTolerance m us) m 4 (fun s => s.setPart (m.fn % 64) { p with tolerance := us.toNat }) []) ∧
    (∀ nonce addr, Spec.mailActs s m 5 false → s.steward.attIndex < 2 ^ 20 → s.bridge.hostUp = true →
      s.MailDone (.attest m nonce addr) m 5 (fun s1 =>
        let r := s1.report m nonce
        let s2 := r.1.flatWriteAll (flatHost addr) (r.2.length / 64 + 2) r.2
        { s2 with steward := { s2.steward with
          attIndex := s2.steward.attIndex + 1
          attBlocks := if 1024 * s2.steward.attBlocks ≤ s2.steward.attIndex + 1 ∧ s2.steward.attBlocks < 1024 then s2.steward.attBlocks + 1
            else s2.steward.attBlocks } }) [BitVec.ofNat 64 addr]) ∧
    (∀ first, Spec.mailActs s m 6 false → s.MailDone (.readJournal m first) m 6 id
      ((((s.powerUp.journalRec m 6).steward.journal.filter (fun r => decide (first ≤ r.seq) && (decide (m.fn = 0) || decide (r.fn = m.fn)))).take 3).flatMap
        JournalRec.words)) ∧
    (∀ core pass, Spec.mailActs s m 7 true → (s.powerUp.core core).quarantined = true → (s.core core).quarantined = true → core < 2 ^ 20 →
      (∀ n l, (n, l) ∈ s.loads → (l.state = .failed ∨ l.state = .ended) ∨ ∀ t ∈ l.members, coreOf t ≠ core) →
      (pass = true → s.MailDone (.resetCore m core pass) m 7 (fun s => s.resetCore core true) []) ∧
      (pass = false → exec (.resetCore m core pass) s = .next ((s.powerUp.resetCore core false).mailReply m 2 []))) ∧
    (∀ base lslots, Spec.mailActs s m 8 false → 4 ≤ lslots → lslots ≤ 12 → base % 64 = 0 →
      s.MailDone (.eventRing m base lslots) m 8 (fun s => { s with steward := { s.steward with events := tput s.steward.events m.fn ⟨base, lslots, 0⟩ } }) []) ∧
    (∀ img raise, Spec.mailActs s m 9 true →
      exec (.loadImage m img raise) s = .next (if Config.imageVerifies img = true ∧ s.powerUp.steward.fuseMin ≤ Config.imageVersion img then
        (let s1 := s.powerUp.journalRec m 9
         ({ s1 with steward := { s1.steward with
            firmware := some (Config.imageVersion img), fuseMin := if raise then Nat.max s1.steward.fuseMin (Config.imageVersion img) else s1.steward.fuseMin } } : State).mailReply m 0 [])
        else s.powerUp.mailReply m 2 [])) ∧
    (∀ first count size s1, Spec.mailActs s m 10 true → 0 < count → first + count ≤ 16384 → size ≤ 16 → s.powerUp.parkFrom size count first = (s1, none) →
      s.MailDone (.parkSize m first count size) m 10 (fun s => (s.parkFrom size count first).1) []) ∧
    (∀ first size, Spec.mailActs s m 10 true → first < 16384 → size ≤ 16 →
      (s.powerUp.parkFits first size = true → s.MailDone (.parkSize m first 1 size) m 10 (fun s => s.setPark first size) []) ∧
      (s.powerUp.parkFits first size = false → exec (.parkSize m first 1 size) s = .next (s.powerUp.mailReply m 2 [BitVec.ofNat 64 first]))) ∧
    (∀ addr s1, Spec.mailActs s m 3 false →
      (s.powerUp.hostQueue (m.fn % 64) addr = (s1, .ok ()) → exec (.registerHostQueue m addr) s = .next ((s1.journalRec m 3).mailReply m 0 [])) ∧
      (∀ c, s.powerUp.hostQueue (m.fn % 64) addr = (s1, .fault c) → exec (.registerHostQueue m addr) s = .next (s1.mailReply m 2 [])) ∧
      (s.powerUp.hostQueue (m.fn % 64) addr = (s1, .hold) → exec (.registerHostQueue m addr) s = .next (s.powerUp.keepWaiting s1))) ∧
    (∀ addr p fs, Spec.mailActs s m 3 false → s.steward.power = .aster → tget s.parts (m.fn % 64) = some p → addr % 64 = 0 →
      s.queueAt (m.fn % 64) (BitVec.ofNat 64 addr) = none → (∀ d, (s.die d).queues.length < 4096) → s.Here 0 (BitVec.ofNat 64 addr) 64 fs →
      let w (i : Nat) : Word := BitVec.ofNat 64 (leNat (((s.bytesOf fs).drop i).take 8))
      (w 24).getLsbD 8 = false → (w 24).toNat < 2 ^ 16 → 4 ≤ (w 24).toNat % 256 → (w 24).toNat % 256 ≤ 16 → (w 16).toNat % 128 = 0 →
      ∃ s' n q, exec (.registerHostQueue m addr) s = .next s' ∧ s'.mailbox m.fn = ⟨m.seq, m.seq, 0, []⟩ ∧
        s'.queueAt (m.fn % 64) (BitVec.ofNat 64 addr) = some (n, q) ∧ q.mint = p.mint ∧ q.ring = w 16 ∧ q.control = w 24 ∧ q.template = w 48 ∧
        q.read = 0 ∧ q.count = 0) ∧
    (∀ base lslots, s.mailDue m 8 = true →
      (s.steward.moving = true → exec (.eventRing m base lslots) s = .next (s.mailReply m 3 [])) ∧
      (s.steward.moving = false → m.reserved = true → exec (.eventRing m base lslots) s = .next (s.powerUp.mailReply m 1 [])) ∧
      (s.steward.moving = false → m.reserved = false → m.fn = fwMail → exec (.eventRing m base lslots) s = .next (s.powerUp.mailReply m 2 [])))

/-- The steward's own events (10 R299; 04 R114; 19 R466, R471 to R474): a module reset leaves every register at its reset value and only
the host's memory listed; boot verifies the images, burns a block of one-time keys, sets the firmware's partition up and launches its load; zeroing
leaves a device range reading zero without tags; the module begins a power transition and then enters the deepest state its conditions
allow; a wake takes it back to Aster; a die's soft errors are reported at most once in 2^30 cycles. -/
def Obligations.StewardEvents : Prop :=
  ∀ (s : State),
    (∃ s', exec .moduleReset s = .next s' ∧ s'.cores = State.reset.cores ∧ s'.clusters = State.reset.clusters ∧ s'.parts = State.reset.parts ∧
      s'.reqs = State.reset.reqs ∧ s'.loads = State.reset.loads ∧ s'.queues = State.reset.queues ∧ s'.rings = State.reset.rings ∧
      s'.tags = State.reset.tags ∧ s'.dirty = State.reset.dirty ∧ s'.cycle = State.reset.cycle ∧
      s'.mem = s.mem.filter (fun c => decide (flatHost 0 ≤ c.1)) ∧ s'.bridge.hostUp = s.bridge.hostUp ∧ s'.steward.fuseMin = s.steward.fuseMin) ∧
    (∀ x : BootArgs, s.steward.running = false →
      let s1 : State := { s with steward := { s.steward with
        running := true, stewardVer := Config.imageVersion x.stewardImg, attIndex := 1024 * s.steward.attBlocks
        attBlocks := Nat.min 1024 (s.steward.attBlocks + 1), moving := false, power := .aster } }
      x.setup.part = 0 → s1.setupOk x.setup = true →
        let s2 := (x.words.foldl (fun s (a, w) => s.putEntry a w) (s1.setupPart x.setup)).setupQueues x.setup.part x.setup.queues
        exec (.moduleBoot x) s = .next (if s.imageOk x.stewardImg = false then s else if s1.imageOk x.firmwareImg = false then s1
          else ({ s2 with steward := { s2.steward with firmware := some (Config.imageVersion x.firmwareImg) } } : State).launchFirmware x)) ∧
    (∀ base lines, s.Canonical → base % 64 = 0 → base + 64 * lines ≤ dramEnd → ∃ s', exec (.zeroingFill (.range base lines)) s = .next s' ∧
      (∀ a, base ≤ a → a < base + 64 * lines → s'.byteAt a = 0 ∧ s'.tagAt a = false) ∧
      ∀ a, (a < base ∨ base + 64 * lines ≤ a) → s'.byteAt a = s.byteAt a) ∧
    (∀ c, (s.core c).vacant = true → exec (.zeroingFill (.core c)) s = .next (s.zeroCore c)) ∧
    (∀ g, (∀ n l, (n, l) ∈ s.loads → l.state ≠ .live ∧ l.state ≠ .stopping) → exec (.zeroingFill (.ring g)) s = .next (s.setRing g Ring.reset)) ∧
    (s.steward.power.code < s.deepest.code →
      (s.steward.moving = false → exec .powerStateEntry s = .next { s with steward := { s.steward with moving := true } }) ∧
      (s.steward.moving = true → s.deepest ≠ .lupin → exec .powerStateEntry s =
        .next (({ s with steward := { s.steward with power := s.deepest, moving := false } } : State).eventRecord 0 6 s.deepest.code)) ∧
      (s.steward.moving = true → s.deepest = .lupin → exec .powerStateEntry s =
        .next (({ s.enterLupin with steward := { s.enterLupin.steward with power := .lupin, moving := false } } : State).eventRecord 0 6 3))) ∧
    (∀ src, exec (.powerWake src) s = .next s.powerUp ∧
      s.powerUp.steward.power = .aster ∧ s.powerUp.steward.moving = false) ∧
    (∀ die count, (tget s.steward.softAt die).getD 0 + 2 ^ 30 ≤ s.cycle → count ≠ 0 → exec (.softErrorReport die count) s =
      .next (({ s with steward := { s.steward with softAt := tput s.steward.softAt die s.cycle } } : State).eventRecord 0 1 (count % 2 ^ 32 + die * 2 ^ 32)))

/-- Words of the spec's own examples, laid out as lines, decode to the instructions they stand for (02 R50 to R62; 04 R118, R125, R127;
05 R145; 07 R192 to R206; 08 R247; 09 R278; 12 R317; 13 R343; 14 R372; 15 R393; 16 R420). -/
def Obligations.DecodedWords : Prop :=
  decodeAt (lineOfWord 0x0000 0) 1 = .ok .nop ∧
  decodeAt (lineOfWord 0x4100 0x0005) 1 = .ok (.trap 5) ∧
  decodeAt (lineOfWord 0x6200 0x6040) 1 = .ok (.fence 12 .clu) ∧
  decodeAt (lineOfWord 0x6434 0x5000) 1 = .ok (.warm 13 10 0) ∧
  decodeAt (lineOfWord 0x9108 0x18004240) 1 = .ok (.fcvt 2 .bf16 .f32 .rne 3) ∧
  decodeAt (lineOfWord 0x9914 0x1401FFF8) 1 = .ok (.ldW 5 2 (-8) true none .none) ∧
  decodeAt (lineOfWord 0x9DAC 0x62400000) 1 = .ok (.stD 11 12 0 (some .clu) .none) ∧
  decodeAt (lineOfWord 0xA198 0x2140C600) 1 = .ok (.scond .d 6 4 5 .mod false) ∧
  decodeAt (lineOfWord 0x9400 0x0886C100) 1 = .ok (.tstop 1 2 3 ⟨.mod, false⟩) ∧
  decodeAt (lineOfWord 0xAC00 0x0886E000) 1 = .ok (.xinv 1 2 3 ⟨.mod, true⟩) ∧
  decodeAt (lineOfWord 0xBF44 0x0000C100) 1 = .ok (.barArr 17 0 ⟨.mod, false⟩) ∧
  decodeAt (lineOfWord 0x6200 0) 1 = .error .reserved

/-- A turn of a core runs the instruction its chosen thread stands at, and then what every step ends with: where the thread holds its
line, where it first enters it, and where the word does not decode and the thread faults instead (02 R49, R50; 04 R115). A turn of an event runs the
event; an instruction of a thread is no event. A turn may also be that cycles pass, or that an error strikes bytes of memory (05 R165;
log 6, DESIGN CHOICE). The turn comes off the agenda. -/
def Obligations.StepRunsDecoded : Prop :=
  ∀ (s : State) (c pos tid : Nat) (t : Thread) (r : List Turn),
    (s.agenda = .core c :: r → ({ s with agenda := r } : State).chosen c = some pos → ({ s with agenda := r } : State).atPos c pos = some (tid, t) →
      let at_ (s0 : State) (l : LineCopy) : State := s0.modThread tid (fun u => { u with line := some l })
      let s1 : State := { s with agenda := r, cur := tid }
      let k := t.pcc.lo.toNat % 64 / 2
      (∀ l i, t.heldLine = some l → decodeAt l.bytes k = .ok i → step s = ended s (exec i (at_ s1 l))) ∧
      (∀ l i s2, t.heldLine = none → s1.enterLine tid t t.pcc t.pcc.lo = (s2, .ok l) → decodeAt l.bytes k = .ok i →
        step s = ended s (exec i (at_ s2 l))) ∧
      (∀ l e, t.heldLine = some l → decodeAt l.bytes k = .error e →
        step s = ended s (.next ((at_ s1 l).takeFault tid e.cause 0 .none 7 (lineHalf l.bytes k) .faulted))) ∧
      (∀ s2 cause head, t.heldLine = none → s1.enterLine tid t t.pcc t.pcc.lo = (s2, .fault cause head) → step s = ended s (.next
        (if t.window = [] then s2.takeFault tid cause t.pcc.lo .fetch 5 head .faulted else s2.standAside t))) ∧
      (∀ s2, t.heldLine = none → s1.enterLine tid t t.pcc t.pcc.lo = (s2, .hold) → step s = ended s (.next (s2.waitFetch s2 tid t)))) ∧
    (∀ n, s.agenda = .pass n :: r → ∃ s', step s = .next s' ∧ s'.cycle = s.cycle + n ∧ s'.agenda = r) ∧
    (∀ a n, s.agenda = .spoil a n :: r → step s = .next (({ s with agenda := r } : State).spoiled a n)) ∧
    (∀ i, s.agenda = .event i :: r →
      (encode i = none → step s = ended s (exec i { s with agenda := r })) ∧ (encode i ≠ none → step s = .fault .badTurn)) ∧
    (∀ s1, ended s (.next s1) = .next { (s1.settle s) with cycle := (s1.settle s).cycle + 1 })

/-- No instruction and no event stops the machine: each ends in a next state, whatever the state. A step stops only where its turn is no
event of the opcode table. -/
def Obligations.NothingStops : Prop :=
  (∀ (i : Instr) (s : State), ∃ s', exec i s = .next s') ∧
  (∀ s : State, (∀ i r, s.agenda = .event i :: r → encode i = none) → ∃ s', step s = .next s')

/-- Decode and encode agree: for every well-formed program instruction with every operand it admits, its head and tail decode to it, and
so does the line that holds it; the six members that two rows of the table share decode to the first of the two (02 R50 to R62). -/
def Sys2Proof.Rules.RoundTrip : Prop :=
  ∀ (i : Instr) (f : Fields), i.wellFormed = true → encode i = some f →
    decode f.head f.tail.bits = .ok i.canon ∧ decodeAt (lineOfWord f.head f.tail.bits.toNat) 1 = .ok i.canon

/-- What decodes is well formed, and encodes to the word it was read from (02 R50, R55). -/
def Sys2Proof.Rules.DecodedIsWellFormed : Prop :=
  ∀ (head : BitVec 16) (tail : BitVec 64) (i : Instr), decode head tail = .ok i →
    i.wellFormed = true ∧ ∃ f, encode i = some f ∧ f.head = head ∧ f.tail = tailOf (head.extractLsb' 14 2) tail

/-- The operations over memory keep its one form: a store of bytes, a modified line written back, a modified line dropped, a range zeroed,
an entry changed. -/
def Obligations.MemoryOperationsKeepForm : Prop :=
  ∀ s : State, s.Canonical →
    (∀ cached a bs tag, (cached = true → a % 64 + bs.length ≤ 64) → (s.putBytes cached a bs tag).Canonical) ∧
    (∀ line, (s.writeBack line).Canonical) ∧ (∀ line, (s.dropLine line).Canonical) ∧ (∀ lo hi, (s.zeroFlat lo hi).Canonical) ∧
    (∀ a e, (s.putEntry a e).Canonical)

/-- Every step keeps memory, its tags and the modified lines in their one form: an invariant of the machine. -/
def Obligations.StepKeepsMemoryForm : Prop :=
  ∀ s s' : State, s.Canonical → step s = .next s' → s'.Canonical

/-- After reset memory stands in its one form, and nothing is held anywhere: no thread, no partition, no queue, no load, no request; the
cycle count is zero; a core's division is 0x4444 and its decode table the preset, its accumulators are zero, its ports unbound; a
slice's park region has 256 KiB; barriers and trees are free, rings off; the journal's next record is the first. -/
def Obligations.ResetState : Prop :=
  State.reset.Canonical ∧ State.reset.cycle = 0 ∧ State.reset.parts = [] ∧ State.reset.queues = [] ∧ State.reset.loads = [] ∧
    State.reset.reqs = [] ∧ State.reset.allThreads = [] ∧ State.reset.steward.journal = [] ∧ State.reset.steward.journalSeq = 1 ∧
    State.reset.steward.power = .aster ∧
    (∀ c, let k := State.reset.core c; k.carve = 0x4444 ∧ k.table = presetE4M3 ∧ (∀ x ∈ k.acc0 ++ k.acc1, x = 0) ∧ k.ports = [] ∧
      k.slots = [] ∧ k.quarantined = false) ∧
    (∀ c, let k := State.reset.cluster c; 64 * k.park = 256 ∧ k.bars = [] ∧ k.trees = [] ∧ k.darner = none) ∧
    (∀ g, (State.reset.ring g).state = .off)

/-- The precise faults of capability instructions, of `trap` and of `kput` (04 R113, R117, R122 to R124, R131). -/
def Obligations.InstructionFaults : Prop := Sys2Proof.Rules.CapabilityFaults ∧ Sys2Proof.Rules.TrapFaults ∧ Sys2Proof.Rules.ControlWriteFaults

/-- Reading and writing control registers (04 R113; 08 R251). -/
def Obligations.ControlRegisters : Prop := Sys2Proof.Rules.ControlRead ∧ Sys2Proof.Rules.ControlWrite ∧ Sys2Proof.Rules.CarveWrite

/-- Instructions that retire at once and leave architected state as it was (04 R128, R129; 07 R198, R204, R205, R209). -/
def Obligations.NoWait : Prop := Sys2Proof.Rules.NothingToWaitFor ∧ Sys2Proof.Rules.YieldStandsAside

/-- Instructions that wait, and how each wait ends (04 R130; 07 R198, R201, R205, R209, R210). -/
def Obligations.Waits : Prop := Sys2Proof.Rules.WaitingInstructions ∧ Sys2Proof.Rules.WaitsEnd

/-- Branches, jumps and calls (04 R120, R121; 02 R58). -/
def Obligations.ControlTransfer : Prop := Sys2Proof.Rules.BranchNotTaken ∧ Sys2Proof.Rules.TransferTaken

/-- Transfers whose target cannot be entered (02 R49; 04 R110, R121). -/
def Obligations.BadTargets : Prop := Sys2Proof.Rules.TransferFaults ∧ Sys2Proof.Rules.JumpRegisterFaults

/-- Loads that pass their checks (07 R192; 04 R116). -/
def Obligations.Loads : Prop := Sys2Proof.Rules.LoadLocal ∧ Sys2Proof.Rules.LoadSent

/-- Stores that pass their checks (07 R193, R195; 01 R20). -/
def Obligations.Stores : Prop := Sys2Proof.Rules.StoreLocal ∧ Sys2Proof.Rules.StoreSent

/-- The precise faults of loads, atomics and watches (07 R192, R199, R207, R220). -/
def Obligations.AccessFaults : Prop := Sys2Proof.Rules.LoadFaults ∧ Sys2Proof.Rules.AtomicFaults ∧ Sys2Proof.Rules.WatchFaults

/-- Atomics that pass their checks (07 R199 to R201, R217). -/
def Obligations.Atomics : Prop := Sys2Proof.Rules.AtomicLocal ∧ Sys2Proof.Rules.AtomicSent

/-- What the answers of loads and stores do to their threads (04 R116; 07 R195, R196). -/
def Obligations.Answers : Prop := Sys2Proof.Rules.LoadReply ∧ Sys2Proof.Rules.StoreAcknowledged ∧ Sys2Proof.Rules.StoreFaultArrives

/-- Watches and `waitge` (07 R207, R209, R211). -/
def Obligations.Watches : Prop := Sys2Proof.Rules.WatchArms ∧ Sys2Proof.Rules.WaitForValue

/-- Loads and watches at their home slice (07 R207; 08 R228, R229, R245). -/
def Obligations.HomeReads : Prop := Sys2Proof.Rules.HomeRead ∧ Sys2Proof.Rules.HomeWatch

/-- Stores at their home slice (08 R229; 15 R404, R405). -/
def Obligations.HomeStores : Prop := Sys2Proof.Rules.HomeStore ∧ Sys2Proof.Rules.HomeCachedStore

/-- The translation commands (09 R278 to R283). -/
def Obligations.Translation : Prop := Sys2Proof.Rules.TranslationCommands ∧ Sys2Proof.Rules.PageCommands ∧ Sys2Proof.Rules.DiscardedLeaf

/-- Agent commands at issue (05 R142, R145 to R148, R155). -/
def Obligations.AgentCommands : Prop := Sys2Proof.Rules.AgentCommandAccepted ∧ Sys2Proof.Rules.AgentCommandFaults

/-- Fault records (05 R161, R162). -/
def Obligations.FaultRecords : Prop := Sys2Proof.Rules.FaultRecordWritten ∧ Sys2Proof.Rules.FaultRecordLayout

/-- Loads, baskets, contexts and quarantine (05 R137, R138, R165; 06 R176, R179, R183, R185). -/
def Obligations.Dispatching : Prop := Sys2Proof.Rules.LoadsAndBaskets ∧ Sys2Proof.Rules.ContextLeaves ∧ Sys2Proof.Rules.CoreQuarantined

/-- Transfers at issue (10 R285 to R289). -/
def Obligations.CopyCommands : Prop := Sys2Proof.Rules.CopyAccepted ∧ Sys2Proof.Rules.CopyLineChecks

/-- Transfers under way and the commands over them (10 R288, R290, R291, R294 to R296). -/
def Obligations.CopyProgress : Prop := Sys2Proof.Rules.CopyChunk ∧ Sys2Proof.Rules.CopyEnds ∧ Sys2Proof.Rules.CopyControl

/-- Messages and ports (11 R301 to R308). -/
def Obligations.Messages : Prop := Sys2Proof.Rules.MessageCommands ∧ Sys2Proof.Rules.MessageDelivered

/-- Vector operations at issue, in their queue and at completion (12 R315 to R330). -/
def Obligations.VectorOperations : Prop := Sys2Proof.Rules.VectorCommands ∧ Sys2Proof.Rules.VectorEvents

/-- Matrix operations at issue, in their queue and at completion (13 R337 to R350). -/
def Obligations.MatrixOperations : Prop := Sys2Proof.Rules.MatrixCommands ∧ Sys2Proof.Rules.MatrixEvents

/-- The mangle ring (14 R356 to R379). -/
def Obligations.Mangle : Prop := Sys2Proof.Rules.MangleCommands ∧ Sys2Proof.Rules.MangleEvents

/-- Barriers and reduction trees (16 R421 to R435). -/
def Obligations.Combining : Prop := Sys2Proof.Rules.CombiningCommands ∧ Sys2Proof.Rules.CombiningEvents

/-- Decode and encode agree in both directions (02 R50 to R62). -/
def Obligations.DecodeEncode : Prop := Sys2Proof.Rules.RoundTrip ∧ Sys2Proof.Rules.DecodedIsWellFormed
end

