-- ==== Sys2Proof/Laws/State.lean ====
section
/-!
SUPPORT. Sys2Proof/Laws/State.lean: what each update of the state does to each of its fields, so that no proof unfolds one.
-/
namespace Sys2Proof.Machine.State

@[simp] theorem setCore_cycle (s : State) (c : Nat) (k : Core) : (s.setCore c k).cycle = s.cycle := rfl
@[simp] theorem setCore_mem (s : State) (c : Nat) (k : Core) : (s.setCore c k).mem = s.mem := rfl
@[simp] theorem setCore_poison (s : State) (c : Nat) (k : Core) : (s.setCore c k).poison = s.poison := rfl
@[simp] theorem setCore_tags (s : State) (c : Nat) (k : Core) : (s.setCore c k).tags = s.tags := rfl
@[simp] theorem setCore_dirty (s : State) (c : Nat) (k : Core) : (s.setCore c k).dirty = s.dirty := rfl
@[simp] theorem setCore_cores (s : State) (c : Nat) (k : Core) : (s.setCore c k).cores = tput s.cores c k := rfl
@[simp] theorem setCore_quads (s : State) (c : Nat) (k : Core) : (s.setCore c k).quads = s.quads := rfl
@[simp] theorem setCore_rings (s : State) (c : Nat) (k : Core) : (s.setCore c k).rings = s.rings := rfl
@[simp] theorem setCore_clusters (s : State) (c : Nat) (k : Core) : (s.setCore c k).clusters = s.clusters := rfl
@[simp] theorem setCore_dies (s : State) (c : Nat) (k : Core) : (s.setCore c k).dies = s.dies := rfl
@[simp] theorem setCore_queues (s : State) (c : Nat) (k : Core) : (s.setCore c k).queues = s.queues := rfl
@[simp] theorem setCore_baskets (s : State) (c : Nat) (k : Core) : (s.setCore c k).baskets = s.baskets := rfl
@[simp] theorem setCore_loads (s : State) (c : Nat) (k : Core) : (s.setCore c k).loads = s.loads := rfl
@[simp] theorem setCore_parts (s : State) (c : Nat) (k : Core) : (s.setCore c k).parts = s.parts := rfl
@[simp] theorem setCore_reqs (s : State) (c : Nat) (k : Core) : (s.setCore c k).reqs = s.reqs := rfl
@[simp] theorem setCore_nextReq (s : State) (c : Nat) (k : Core) : (s.setCore c k).nextReq = s.nextReq := rfl
@[simp] theorem setCore_probes (s : State) (c : Nat) (k : Core) : (s.setCore c k).probes = s.probes := rfl
@[simp] theorem setCore_firings (s : State) (c : Nat) (k : Core) : (s.setCore c k).firings = s.firings := rfl
@[simp] theorem setCore_agentQ (s : State) (c : Nat) (k : Core) : (s.setCore c k).agentQ = s.agentQ := rfl
@[simp] theorem setCore_cellQ (s : State) (c : Nat) (k : Core) : (s.setCore c k).cellQ = s.cellQ := rfl
@[simp] theorem setCore_heldCmds (s : State) (c : Nat) (k : Core) : (s.setCore c k).heldCmds = s.heldCmds := rfl
@[simp] theorem setCore_bridge (s : State) (c : Nat) (k : Core) : (s.setCore c k).bridge = s.bridge := rfl
@[simp] theorem setCore_steward (s : State) (c : Nat) (k : Core) : (s.setCore c k).steward = s.steward := rfl
@[simp] theorem setCore_cur (s : State) (c : Nat) (k : Core) : (s.setCore c k).cur = s.cur := rfl
@[simp] theorem setCore_agenda (s : State) (c : Nat) (k : Core) : (s.setCore c k).agenda = s.agenda := rfl
@[simp] theorem setCore_free (s : State) (c : Nat) (k : Core) : (s.setCore c k).free = s.free := rfl
@[simp] theorem setCore_nextId (s : State) (c : Nat) (k : Core) : (s.setCore c k).nextId = s.nextId := rfl

@[simp] theorem setCluster_cycle (s : State) (c : Nat) (k : Cluster) : (s.setCluster c k).cycle = s.cycle := rfl
@[simp] theorem setCluster_mem (s : State) (c : Nat) (k : Cluster) : (s.setCluster c k).mem = s.mem := rfl
@[simp] theorem setCluster_poison (s : State) (c : Nat) (k : Cluster) : (s.setCluster c k).poison = s.poison := rfl
@[simp] theorem setCluster_tags (s : State) (c : Nat) (k : Cluster) : (s.setCluster c k).tags = s.tags := rfl
@[simp] theorem setCluster_dirty (s : State) (c : Nat) (k : Cluster) : (s.setCluster c k).dirty = s.dirty := rfl
@[simp] theorem setCluster_cores (s : State) (c : Nat) (k : Cluster) : (s.setCluster c k).cores = s.cores := rfl
@[simp] theorem setCluster_quads (s : State) (c : Nat) (k : Cluster) : (s.setCluster c k).quads = s.quads := rfl
@[simp] theorem setCluster_rings (s : State) (c : Nat) (k : Cluster) : (s.setCluster c k).rings = s.rings := rfl
@[simp] theorem setCluster_clusters (s : State) (c : Nat) (k : Cluster) : (s.setCluster c k).clusters = tput s.clusters c k := rfl
@[simp] theorem setCluster_dies (s : State) (c : Nat) (k : Cluster) : (s.setCluster c k).dies = s.dies := rfl
@[simp] theorem setCluster_queues (s : State) (c : Nat) (k : Cluster) : (s.setCluster c k).queues = s.queues := rfl
@[simp] theorem setCluster_baskets (s : State) (c : Nat) (k : Cluster) : (s.setCluster c k).baskets = s.baskets := rfl
@[simp] theorem setCluster_loads (s : State) (c : Nat) (k : Cluster) : (s.setCluster c k).loads = s.loads := rfl
@[simp] theorem setCluster_parts (s : State) (c : Nat) (k : Cluster) : (s.setCluster c k).parts = s.parts := rfl
@[simp] theorem setCluster_reqs (s : State) (c : Nat) (k : Cluster) : (s.setCluster c k).reqs = s.reqs := rfl
@[simp] theorem setCluster_nextReq (s : State) (c : Nat) (k : Cluster) : (s.setCluster c k).nextReq = s.nextReq := rfl
@[simp] theorem setCluster_probes (s : State) (c : Nat) (k : Cluster) : (s.setCluster c k).probes = s.probes := rfl
@[simp] theorem setCluster_firings (s : State) (c : Nat) (k : Cluster) : (s.setCluster c k).firings = s.firings := rfl
@[simp] theorem setCluster_agentQ (s : State) (c : Nat) (k : Cluster) : (s.setCluster c k).agentQ = s.agentQ := rfl
@[simp] theorem setCluster_cellQ (s : State) (c : Nat) (k : Cluster) : (s.setCluster c k).cellQ = s.cellQ := rfl
@[simp] theorem setCluster_heldCmds (s : State) (c : Nat) (k : Cluster) : (s.setCluster c k).heldCmds = s.heldCmds := rfl
@[simp] theorem setCluster_bridge (s : State) (c : Nat) (k : Cluster) : (s.setCluster c k).bridge = s.bridge := rfl
@[simp] theorem setCluster_steward (s : State) (c : Nat) (k : Cluster) : (s.setCluster c k).steward = s.steward := rfl
@[simp] theorem setCluster_cur (s : State) (c : Nat) (k : Cluster) : (s.setCluster c k).cur = s.cur := rfl
@[simp] theorem setCluster_agenda (s : State) (c : Nat) (k : Cluster) : (s.setCluster c k).agenda = s.agenda := rfl
@[simp] theorem setCluster_free (s : State) (c : Nat) (k : Cluster) : (s.setCluster c k).free = s.free := rfl
@[simp] theorem setCluster_nextId (s : State) (c : Nat) (k : Cluster) : (s.setCluster c k).nextId = s.nextId := rfl

@[simp] theorem setRing_cycle (s : State) (g : Nat) (r : Ring) : (s.setRing g r).cycle = s.cycle := rfl
@[simp] theorem setRing_mem (s : State) (g : Nat) (r : Ring) : (s.setRing g r).mem = s.mem := rfl
@[simp] theorem setRing_poison (s : State) (g : Nat) (r : Ring) : (s.setRing g r).poison = s.poison := rfl
@[simp] theorem setRing_tags (s : State) (g : Nat) (r : Ring) : (s.setRing g r).tags = s.tags := rfl
@[simp] theorem setRing_dirty (s : State) (g : Nat) (r : Ring) : (s.setRing g r).dirty = s.dirty := rfl
@[simp] theorem setRing_cores (s : State) (g : Nat) (r : Ring) : (s.setRing g r).cores = s.cores := rfl
@[simp] theorem setRing_quads (s : State) (g : Nat) (r : Ring) : (s.setRing g r).quads = s.quads := rfl
@[simp] theorem setRing_rings (s : State) (g : Nat) (r : Ring) : (s.setRing g r).rings = tput s.rings g r := rfl
@[simp] theorem setRing_clusters (s : State) (g : Nat) (r : Ring) : (s.setRing g r).clusters = s.clusters := rfl
@[simp] theorem setRing_dies (s : State) (g : Nat) (r : Ring) : (s.setRing g r).dies = s.dies := rfl
@[simp] theorem setRing_queues (s : State) (g : Nat) (r : Ring) : (s.setRing g r).queues = s.queues := rfl
@[simp] theorem setRing_baskets (s : State) (g : Nat) (r : Ring) : (s.setRing g r).baskets = s.baskets := rfl
@[simp] theorem setRing_loads (s : State) (g : Nat) (r : Ring) : (s.setRing g r).loads = s.loads := rfl
@[simp] theorem setRing_parts (s : State) (g : Nat) (r : Ring) : (s.setRing g r).parts = s.parts := rfl
@[simp] theorem setRing_reqs (s : State) (g : Nat) (r : Ring) : (s.setRing g r).reqs = s.reqs := rfl
@[simp] theorem setRing_nextReq (s : State) (g : Nat) (r : Ring) : (s.setRing g r).nextReq = s.nextReq := rfl
@[simp] theorem setRing_probes (s : State) (g : Nat) (r : Ring) : (s.setRing g r).probes = s.probes := rfl
@[simp] theorem setRing_firings (s : State) (g : Nat) (r : Ring) : (s.setRing g r).firings = s.firings := rfl
@[simp] theorem setRing_agentQ (s : State) (g : Nat) (r : Ring) : (s.setRing g r).agentQ = s.agentQ := rfl
@[simp] theorem setRing_cellQ (s : State) (g : Nat) (r : Ring) : (s.setRing g r).cellQ = s.cellQ := rfl
@[simp] theorem setRing_heldCmds (s : State) (g : Nat) (r : Ring) : (s.setRing g r).heldCmds = s.heldCmds := rfl
@[simp] theorem setRing_bridge (s : State) (g : Nat) (r : Ring) : (s.setRing g r).bridge = s.bridge := rfl
@[simp] theorem setRing_steward (s : State) (g : Nat) (r : Ring) : (s.setRing g r).steward = s.steward := rfl
@[simp] theorem setRing_cur (s : State) (g : Nat) (r : Ring) : (s.setRing g r).cur = s.cur := rfl
@[simp] theorem setRing_agenda (s : State) (g : Nat) (r : Ring) : (s.setRing g r).agenda = s.agenda := rfl
@[simp] theorem setRing_free (s : State) (g : Nat) (r : Ring) : (s.setRing g r).free = s.free := rfl
@[simp] theorem setRing_nextId (s : State) (g : Nat) (r : Ring) : (s.setRing g r).nextId = s.nextId := rfl

@[simp] theorem setQuad_cycle (s : State) (q : Nat) (k : Quad4) : (s.setQuad q k).cycle = s.cycle := rfl
@[simp] theorem setQuad_mem (s : State) (q : Nat) (k : Quad4) : (s.setQuad q k).mem = s.mem := rfl
@[simp] theorem setQuad_poison (s : State) (q : Nat) (k : Quad4) : (s.setQuad q k).poison = s.poison := rfl
@[simp] theorem setQuad_tags (s : State) (q : Nat) (k : Quad4) : (s.setQuad q k).tags = s.tags := rfl
@[simp] theorem setQuad_dirty (s : State) (q : Nat) (k : Quad4) : (s.setQuad q k).dirty = s.dirty := rfl
@[simp] theorem setQuad_cores (s : State) (q : Nat) (k : Quad4) : (s.setQuad q k).cores = s.cores := rfl
@[simp] theorem setQuad_quads (s : State) (q : Nat) (k : Quad4) : (s.setQuad q k).quads = tput s.quads q k := rfl
@[simp] theorem setQuad_rings (s : State) (q : Nat) (k : Quad4) : (s.setQuad q k).rings = s.rings := rfl
@[simp] theorem setQuad_clusters (s : State) (q : Nat) (k : Quad4) : (s.setQuad q k).clusters = s.clusters := rfl
@[simp] theorem setQuad_dies (s : State) (q : Nat) (k : Quad4) : (s.setQuad q k).dies = s.dies := rfl
@[simp] theorem setQuad_queues (s : State) (q : Nat) (k : Quad4) : (s.setQuad q k).queues = s.queues := rfl
@[simp] theorem setQuad_baskets (s : State) (q : Nat) (k : Quad4) : (s.setQuad q k).baskets = s.baskets := rfl
@[simp] theorem setQuad_loads (s : State) (q : Nat) (k : Quad4) : (s.setQuad q k).loads = s.loads := rfl
@[simp] theorem setQuad_parts (s : State) (q : Nat) (k : Quad4) : (s.setQuad q k).parts = s.parts := rfl
@[simp] theorem setQuad_reqs (s : State) (q : Nat) (k : Quad4) : (s.setQuad q k).reqs = s.reqs := rfl
@[simp] theorem setQuad_nextReq (s : State) (q : Nat) (k : Quad4) : (s.setQuad q k).nextReq = s.nextReq := rfl
@[simp] theorem setQuad_probes (s : State) (q : Nat) (k : Quad4) : (s.setQuad q k).probes = s.probes := rfl
@[simp] theorem setQuad_firings (s : State) (q : Nat) (k : Quad4) : (s.setQuad q k).firings = s.firings := rfl
@[simp] theorem setQuad_agentQ (s : State) (q : Nat) (k : Quad4) : (s.setQuad q k).agentQ = s.agentQ := rfl
@[simp] theorem setQuad_cellQ (s : State) (q : Nat) (k : Quad4) : (s.setQuad q k).cellQ = s.cellQ := rfl
@[simp] theorem setQuad_heldCmds (s : State) (q : Nat) (k : Quad4) : (s.setQuad q k).heldCmds = s.heldCmds := rfl
@[simp] theorem setQuad_bridge (s : State) (q : Nat) (k : Quad4) : (s.setQuad q k).bridge = s.bridge := rfl
@[simp] theorem setQuad_steward (s : State) (q : Nat) (k : Quad4) : (s.setQuad q k).steward = s.steward := rfl
@[simp] theorem setQuad_cur (s : State) (q : Nat) (k : Quad4) : (s.setQuad q k).cur = s.cur := rfl
@[simp] theorem setQuad_agenda (s : State) (q : Nat) (k : Quad4) : (s.setQuad q k).agenda = s.agenda := rfl
@[simp] theorem setQuad_free (s : State) (q : Nat) (k : Quad4) : (s.setQuad q k).free = s.free := rfl
@[simp] theorem setQuad_nextId (s : State) (q : Nat) (k : Quad4) : (s.setQuad q k).nextId = s.nextId := rfl

@[simp] theorem setDie_cycle (s : State) (d : Nat) (k : Die) : (s.setDie d k).cycle = s.cycle := rfl
@[simp] theorem setDie_mem (s : State) (d : Nat) (k : Die) : (s.setDie d k).mem = s.mem := rfl
@[simp] theorem setDie_poison (s : State) (d : Nat) (k : Die) : (s.setDie d k).poison = s.poison := rfl
@[simp] theorem setDie_tags (s : State) (d : Nat) (k : Die) : (s.setDie d k).tags = s.tags := rfl
@[simp] theorem setDie_dirty (s : State) (d : Nat) (k : Die) : (s.setDie d k).dirty = s.dirty := rfl
@[simp] theorem setDie_cores (s : State) (d : Nat) (k : Die) : (s.setDie d k).cores = s.cores := rfl
@[simp] theorem setDie_quads (s : State) (d : Nat) (k : Die) : (s.setDie d k).quads = s.quads := rfl
@[simp] theorem setDie_rings (s : State) (d : Nat) (k : Die) : (s.setDie d k).rings = s.rings := rfl
@[simp] theorem setDie_clusters (s : State) (d : Nat) (k : Die) : (s.setDie d k).clusters = s.clusters := rfl
@[simp] theorem setDie_dies (s : State) (d : Nat) (k : Die) : (s.setDie d k).dies = tput s.dies d k := rfl
@[simp] theorem setDie_queues (s : State) (d : Nat) (k : Die) : (s.setDie d k).queues = s.queues := rfl
@[simp] theorem setDie_baskets (s : State) (d : Nat) (k : Die) : (s.setDie d k).baskets = s.baskets := rfl
@[simp] theorem setDie_loads (s : State) (d : Nat) (k : Die) : (s.setDie d k).loads = s.loads := rfl
@[simp] theorem setDie_parts (s : State) (d : Nat) (k : Die) : (s.setDie d k).parts = s.parts := rfl
@[simp] theorem setDie_reqs (s : State) (d : Nat) (k : Die) : (s.setDie d k).reqs = s.reqs := rfl
@[simp] theorem setDie_nextReq (s : State) (d : Nat) (k : Die) : (s.setDie d k).nextReq = s.nextReq := rfl
@[simp] theorem setDie_probes (s : State) (d : Nat) (k : Die) : (s.setDie d k).probes = s.probes := rfl
@[simp] theorem setDie_firings (s : State) (d : Nat) (k : Die) : (s.setDie d k).firings = s.firings := rfl
@[simp] theorem setDie_agentQ (s : State) (d : Nat) (k : Die) : (s.setDie d k).agentQ = s.agentQ := rfl
@[simp] theorem setDie_cellQ (s : State) (d : Nat) (k : Die) : (s.setDie d k).cellQ = s.cellQ := rfl
@[simp] theorem setDie_heldCmds (s : State) (d : Nat) (k : Die) : (s.setDie d k).heldCmds = s.heldCmds := rfl
@[simp] theorem setDie_bridge (s : State) (d : Nat) (k : Die) : (s.setDie d k).bridge = s.bridge := rfl
@[simp] theorem setDie_steward (s : State) (d : Nat) (k : Die) : (s.setDie d k).steward = s.steward := rfl
@[simp] theorem setDie_cur (s : State) (d : Nat) (k : Die) : (s.setDie d k).cur = s.cur := rfl
@[simp] theorem setDie_agenda (s : State) (d : Nat) (k : Die) : (s.setDie d k).agenda = s.agenda := rfl
@[simp] theorem setDie_free (s : State) (d : Nat) (k : Die) : (s.setDie d k).free = s.free := rfl
@[simp] theorem setDie_nextId (s : State) (d : Nat) (k : Die) : (s.setDie d k).nextId = s.nextId := rfl

@[simp] theorem setPart_cycle (s : State) (p : Nat) (k : Partition) : (s.setPart p k).cycle = s.cycle := rfl
@[simp] theorem setPart_mem (s : State) (p : Nat) (k : Partition) : (s.setPart p k).mem = s.mem := rfl
@[simp] theorem setPart_poison (s : State) (p : Nat) (k : Partition) : (s.setPart p k).poison = s.poison := rfl
@[simp] theorem setPart_tags (s : State) (p : Nat) (k : Partition) : (s.setPart p k).tags = s.tags := rfl
@[simp] theorem setPart_dirty (s : State) (p : Nat) (k : Partition) : (s.setPart p k).dirty = s.dirty := rfl
@[simp] theorem setPart_cores (s : State) (p : Nat) (k : Partition) : (s.setPart p k).cores = s.cores := rfl
@[simp] theorem setPart_quads (s : State) (p : Nat) (k : Partition) : (s.setPart p k).quads = s.quads := rfl
@[simp] theorem setPart_rings (s : State) (p : Nat) (k : Partition) : (s.setPart p k).rings = s.rings := rfl
@[simp] theorem setPart_clusters (s : State) (p : Nat) (k : Partition) : (s.setPart p k).clusters = s.clusters := rfl
@[simp] theorem setPart_dies (s : State) (p : Nat) (k : Partition) : (s.setPart p k).dies = s.dies := rfl
@[simp] theorem setPart_queues (s : State) (p : Nat) (k : Partition) : (s.setPart p k).queues = s.queues := rfl
@[simp] theorem setPart_baskets (s : State) (p : Nat) (k : Partition) : (s.setPart p k).baskets = s.baskets := rfl
@[simp] theorem setPart_loads (s : State) (p : Nat) (k : Partition) : (s.setPart p k).loads = s.loads := rfl
@[simp] theorem setPart_parts (s : State) (p : Nat) (k : Partition) : (s.setPart p k).parts = tput s.parts p k := rfl
@[simp] theorem setPart_reqs (s : State) (p : Nat) (k : Partition) : (s.setPart p k).reqs = s.reqs := rfl
@[simp] theorem setPart_nextReq (s : State) (p : Nat) (k : Partition) : (s.setPart p k).nextReq = s.nextReq := rfl
@[simp] theorem setPart_probes (s : State) (p : Nat) (k : Partition) : (s.setPart p k).probes = s.probes := rfl
@[simp] theorem setPart_firings (s : State) (p : Nat) (k : Partition) : (s.setPart p k).firings = s.firings := rfl
@[simp] theorem setPart_agentQ (s : State) (p : Nat) (k : Partition) : (s.setPart p k).agentQ = s.agentQ := rfl
@[simp] theorem setPart_cellQ (s : State) (p : Nat) (k : Partition) : (s.setPart p k).cellQ = s.cellQ := rfl
@[simp] theorem setPart_heldCmds (s : State) (p : Nat) (k : Partition) : (s.setPart p k).heldCmds = s.heldCmds := rfl
@[simp] theorem setPart_bridge (s : State) (p : Nat) (k : Partition) : (s.setPart p k).bridge = s.bridge := rfl
@[simp] theorem setPart_steward (s : State) (p : Nat) (k : Partition) : (s.setPart p k).steward = s.steward := rfl
@[simp] theorem setPart_cur (s : State) (p : Nat) (k : Partition) : (s.setPart p k).cur = s.cur := rfl
@[simp] theorem setPart_agenda (s : State) (p : Nat) (k : Partition) : (s.setPart p k).agenda = s.agenda := rfl
@[simp] theorem setPart_free (s : State) (p : Nat) (k : Partition) : (s.setPart p k).free = s.free := rfl
@[simp] theorem setPart_nextId (s : State) (p : Nat) (k : Partition) : (s.setPart p k).nextId = s.nextId := rfl

@[simp] theorem setLoad_cycle (s : State) (n : Nat) (l : Load) : (s.setLoad n l).cycle = s.cycle := rfl
@[simp] theorem setLoad_mem (s : State) (n : Nat) (l : Load) : (s.setLoad n l).mem = s.mem := rfl
@[simp] theorem setLoad_poison (s : State) (n : Nat) (l : Load) : (s.setLoad n l).poison = s.poison := rfl
@[simp] theorem setLoad_tags (s : State) (n : Nat) (l : Load) : (s.setLoad n l).tags = s.tags := rfl
@[simp] theorem setLoad_dirty (s : State) (n : Nat) (l : Load) : (s.setLoad n l).dirty = s.dirty := rfl
@[simp] theorem setLoad_cores (s : State) (n : Nat) (l : Load) : (s.setLoad n l).cores = s.cores := rfl
@[simp] theorem setLoad_quads (s : State) (n : Nat) (l : Load) : (s.setLoad n l).quads = s.quads := rfl
@[simp] theorem setLoad_rings (s : State) (n : Nat) (l : Load) : (s.setLoad n l).rings = s.rings := rfl
@[simp] theorem setLoad_clusters (s : State) (n : Nat) (l : Load) : (s.setLoad n l).clusters = s.clusters := rfl
@[simp] theorem setLoad_dies (s : State) (n : Nat) (l : Load) : (s.setLoad n l).dies = s.dies := rfl
@[simp] theorem setLoad_queues (s : State) (n : Nat) (l : Load) : (s.setLoad n l).queues = s.queues := rfl
@[simp] theorem setLoad_baskets (s : State) (n : Nat) (l : Load) : (s.setLoad n l).baskets = s.baskets := rfl
@[simp] theorem setLoad_loads (s : State) (n : Nat) (l : Load) : (s.setLoad n l).loads = tput s.loads n l := rfl
@[simp] theorem setLoad_parts (s : State) (n : Nat) (l : Load) : (s.setLoad n l).parts = s.parts := rfl
@[simp] theorem setLoad_reqs (s : State) (n : Nat) (l : Load) : (s.setLoad n l).reqs = s.reqs := rfl
@[simp] theorem setLoad_nextReq (s : State) (n : Nat) (l : Load) : (s.setLoad n l).nextReq = s.nextReq := rfl
@[simp] theorem setLoad_probes (s : State) (n : Nat) (l : Load) : (s.setLoad n l).probes = s.probes := rfl
@[simp] theorem setLoad_firings (s : State) (n : Nat) (l : Load) : (s.setLoad n l).firings = s.firings := rfl
@[simp] theorem setLoad_agentQ (s : State) (n : Nat) (l : Load) : (s.setLoad n l).agentQ = s.agentQ := rfl
@[simp] theorem setLoad_cellQ (s : State) (n : Nat) (l : Load) : (s.setLoad n l).cellQ = s.cellQ := rfl
@[simp] theorem setLoad_heldCmds (s : State) (n : Nat) (l : Load) : (s.setLoad n l).heldCmds = s.heldCmds := rfl
@[simp] theorem setLoad_bridge (s : State) (n : Nat) (l : Load) : (s.setLoad n l).bridge = s.bridge := rfl
@[simp] theorem setLoad_steward (s : State) (n : Nat) (l : Load) : (s.setLoad n l).steward = s.steward := rfl
@[simp] theorem setLoad_cur (s : State) (n : Nat) (l : Load) : (s.setLoad n l).cur = s.cur := rfl
@[simp] theorem setLoad_agenda (s : State) (n : Nat) (l : Load) : (s.setLoad n l).agenda = s.agenda := rfl
@[simp] theorem setLoad_free (s : State) (n : Nat) (l : Load) : (s.setLoad n l).free = s.free := rfl
@[simp] theorem setLoad_nextId (s : State) (n : Nat) (l : Load) : (s.setLoad n l).nextId = s.nextId := rfl

@[simp] theorem setBasket_cycle (s : State) (n : Nat) (b : Basket) : (s.setBasket n b).cycle = s.cycle := rfl
@[simp] theorem setBasket_mem (s : State) (n : Nat) (b : Basket) : (s.setBasket n b).mem = s.mem := rfl
@[simp] theorem setBasket_poison (s : State) (n : Nat) (b : Basket) : (s.setBasket n b).poison = s.poison := rfl
@[simp] theorem setBasket_tags (s : State) (n : Nat) (b : Basket) : (s.setBasket n b).tags = s.tags := rfl
@[simp] theorem setBasket_dirty (s : State) (n : Nat) (b : Basket) : (s.setBasket n b).dirty = s.dirty := rfl
@[simp] theorem setBasket_cores (s : State) (n : Nat) (b : Basket) : (s.setBasket n b).cores = s.cores := rfl
@[simp] theorem setBasket_quads (s : State) (n : Nat) (b : Basket) : (s.setBasket n b).quads = s.quads := rfl
@[simp] theorem setBasket_rings (s : State) (n : Nat) (b : Basket) : (s.setBasket n b).rings = s.rings := rfl
@[simp] theorem setBasket_clusters (s : State) (n : Nat) (b : Basket) : (s.setBasket n b).clusters = s.clusters := rfl
@[simp] theorem setBasket_dies (s : State) (n : Nat) (b : Basket) : (s.setBasket n b).dies = s.dies := rfl
@[simp] theorem setBasket_queues (s : State) (n : Nat) (b : Basket) : (s.setBasket n b).queues = s.queues := rfl
@[simp] theorem setBasket_baskets (s : State) (n : Nat) (b : Basket) : (s.setBasket n b).baskets = tput s.baskets n b := rfl
@[simp] theorem setBasket_loads (s : State) (n : Nat) (b : Basket) : (s.setBasket n b).loads = s.loads := rfl
@[simp] theorem setBasket_parts (s : State) (n : Nat) (b : Basket) : (s.setBasket n b).parts = s.parts := rfl
@[simp] theorem setBasket_reqs (s : State) (n : Nat) (b : Basket) : (s.setBasket n b).reqs = s.reqs := rfl
@[simp] theorem setBasket_nextReq (s : State) (n : Nat) (b : Basket) : (s.setBasket n b).nextReq = s.nextReq := rfl
@[simp] theorem setBasket_probes (s : State) (n : Nat) (b : Basket) : (s.setBasket n b).probes = s.probes := rfl
@[simp] theorem setBasket_firings (s : State) (n : Nat) (b : Basket) : (s.setBasket n b).firings = s.firings := rfl
@[simp] theorem setBasket_agentQ (s : State) (n : Nat) (b : Basket) : (s.setBasket n b).agentQ = s.agentQ := rfl
@[simp] theorem setBasket_cellQ (s : State) (n : Nat) (b : Basket) : (s.setBasket n b).cellQ = s.cellQ := rfl
@[simp] theorem setBasket_heldCmds (s : State) (n : Nat) (b : Basket) : (s.setBasket n b).heldCmds = s.heldCmds := rfl
@[simp] theorem setBasket_bridge (s : State) (n : Nat) (b : Basket) : (s.setBasket n b).bridge = s.bridge := rfl
@[simp] theorem setBasket_steward (s : State) (n : Nat) (b : Basket) : (s.setBasket n b).steward = s.steward := rfl
@[simp] theorem setBasket_cur (s : State) (n : Nat) (b : Basket) : (s.setBasket n b).cur = s.cur := rfl
@[simp] theorem setBasket_agenda (s : State) (n : Nat) (b : Basket) : (s.setBasket n b).agenda = s.agenda := rfl
@[simp] theorem setBasket_free (s : State) (n : Nat) (b : Basket) : (s.setBasket n b).free = s.free := rfl
@[simp] theorem setBasket_nextId (s : State) (n : Nat) (b : Basket) : (s.setBasket n b).nextId = s.nextId := rfl

@[simp] theorem setQueue_cycle (s : State) (n : Nat) (q : Queue) : (s.setQueue n q).cycle = s.cycle := rfl
@[simp] theorem setQueue_mem (s : State) (n : Nat) (q : Queue) : (s.setQueue n q).mem = s.mem := rfl
@[simp] theorem setQueue_poison (s : State) (n : Nat) (q : Queue) : (s.setQueue n q).poison = s.poison := rfl
@[simp] theorem setQueue_tags (s : State) (n : Nat) (q : Queue) : (s.setQueue n q).tags = s.tags := rfl
@[simp] theorem setQueue_dirty (s : State) (n : Nat) (q : Queue) : (s.setQueue n q).dirty = s.dirty := rfl
@[simp] theorem setQueue_cores (s : State) (n : Nat) (q : Queue) : (s.setQueue n q).cores = s.cores := rfl
@[simp] theorem setQueue_quads (s : State) (n : Nat) (q : Queue) : (s.setQueue n q).quads = s.quads := rfl
@[simp] theorem setQueue_rings (s : State) (n : Nat) (q : Queue) : (s.setQueue n q).rings = s.rings := rfl
@[simp] theorem setQueue_clusters (s : State) (n : Nat) (q : Queue) : (s.setQueue n q).clusters = s.clusters := rfl
@[simp] theorem setQueue_dies (s : State) (n : Nat) (q : Queue) : (s.setQueue n q).dies = s.dies := rfl
@[simp] theorem setQueue_queues (s : State) (n : Nat) (q : Queue) : (s.setQueue n q).queues = tput s.queues n q := rfl
@[simp] theorem setQueue_baskets (s : State) (n : Nat) (q : Queue) : (s.setQueue n q).baskets = s.baskets := rfl
@[simp] theorem setQueue_loads (s : State) (n : Nat) (q : Queue) : (s.setQueue n q).loads = s.loads := rfl
@[simp] theorem setQueue_parts (s : State) (n : Nat) (q : Queue) : (s.setQueue n q).parts = s.parts := rfl
@[simp] theorem setQueue_reqs (s : State) (n : Nat) (q : Queue) : (s.setQueue n q).reqs = s.reqs := rfl
@[simp] theorem setQueue_nextReq (s : State) (n : Nat) (q : Queue) : (s.setQueue n q).nextReq = s.nextReq := rfl
@[simp] theorem setQueue_probes (s : State) (n : Nat) (q : Queue) : (s.setQueue n q).probes = s.probes := rfl
@[simp] theorem setQueue_firings (s : State) (n : Nat) (q : Queue) : (s.setQueue n q).firings = s.firings := rfl
@[simp] theorem setQueue_agentQ (s : State) (n : Nat) (q : Queue) : (s.setQueue n q).agentQ = s.agentQ := rfl
@[simp] theorem setQueue_cellQ (s : State) (n : Nat) (q : Queue) : (s.setQueue n q).cellQ = s.cellQ := rfl
@[simp] theorem setQueue_heldCmds (s : State) (n : Nat) (q : Queue) : (s.setQueue n q).heldCmds = s.heldCmds := rfl
@[simp] theorem setQueue_bridge (s : State) (n : Nat) (q : Queue) : (s.setQueue n q).bridge = s.bridge := rfl
@[simp] theorem setQueue_steward (s : State) (n : Nat) (q : Queue) : (s.setQueue n q).steward = s.steward := rfl
@[simp] theorem setQueue_cur (s : State) (n : Nat) (q : Queue) : (s.setQueue n q).cur = s.cur := rfl
@[simp] theorem setQueue_agenda (s : State) (n : Nat) (q : Queue) : (s.setQueue n q).agenda = s.agenda := rfl
@[simp] theorem setQueue_free (s : State) (n : Nat) (q : Queue) : (s.setQueue n q).free = s.free := rfl
@[simp] theorem setQueue_nextId (s : State) (n : Nat) (q : Queue) : (s.setQueue n q).nextId = s.nextId := rfl

@[simp] theorem setReq_cycle (s : State) (n : Nat) (r : Req) : (s.setReq n r).cycle = s.cycle := rfl
@[simp] theorem setReq_mem (s : State) (n : Nat) (r : Req) : (s.setReq n r).mem = s.mem := rfl
@[simp] theorem setReq_poison (s : State) (n : Nat) (r : Req) : (s.setReq n r).poison = s.poison := rfl
@[simp] theorem setReq_tags (s : State) (n : Nat) (r : Req) : (s.setReq n r).tags = s.tags := rfl
@[simp] theorem setReq_dirty (s : State) (n : Nat) (r : Req) : (s.setReq n r).dirty = s.dirty := rfl
@[simp] theorem setReq_cores (s : State) (n : Nat) (r : Req) : (s.setReq n r).cores = s.cores := rfl
@[simp] theorem setReq_quads (s : State) (n : Nat) (r : Req) : (s.setReq n r).quads = s.quads := rfl
@[simp] theorem setReq_rings (s : State) (n : Nat) (r : Req) : (s.setReq n r).rings = s.rings := rfl
@[simp] theorem setReq_clusters (s : State) (n : Nat) (r : Req) : (s.setReq n r).clusters = s.clusters := rfl
@[simp] theorem setReq_dies (s : State) (n : Nat) (r : Req) : (s.setReq n r).dies = s.dies := rfl
@[simp] theorem setReq_queues (s : State) (n : Nat) (r : Req) : (s.setReq n r).queues = s.queues := rfl
@[simp] theorem setReq_baskets (s : State) (n : Nat) (r : Req) : (s.setReq n r).baskets = s.baskets := rfl
@[simp] theorem setReq_loads (s : State) (n : Nat) (r : Req) : (s.setReq n r).loads = s.loads := rfl
@[simp] theorem setReq_parts (s : State) (n : Nat) (r : Req) : (s.setReq n r).parts = s.parts := rfl
@[simp] theorem setReq_reqs (s : State) (n : Nat) (r : Req) : (s.setReq n r).reqs = tput s.reqs n r := rfl
@[simp] theorem setReq_nextReq (s : State) (n : Nat) (r : Req) : (s.setReq n r).nextReq = s.nextReq := rfl
@[simp] theorem setReq_probes (s : State) (n : Nat) (r : Req) : (s.setReq n r).probes = s.probes := rfl
@[simp] theorem setReq_firings (s : State) (n : Nat) (r : Req) : (s.setReq n r).firings = s.firings := rfl
@[simp] theorem setReq_agentQ (s : State) (n : Nat) (r : Req) : (s.setReq n r).agentQ = s.agentQ := rfl
@[simp] theorem setReq_cellQ (s : State) (n : Nat) (r : Req) : (s.setReq n r).cellQ = s.cellQ := rfl
@[simp] theorem setReq_heldCmds (s : State) (n : Nat) (r : Req) : (s.setReq n r).heldCmds = s.heldCmds := rfl
@[simp] theorem setReq_bridge (s : State) (n : Nat) (r : Req) : (s.setReq n r).bridge = s.bridge := rfl
@[simp] theorem setReq_steward (s : State) (n : Nat) (r : Req) : (s.setReq n r).steward = s.steward := rfl
@[simp] theorem setReq_cur (s : State) (n : Nat) (r : Req) : (s.setReq n r).cur = s.cur := rfl
@[simp] theorem setReq_agenda (s : State) (n : Nat) (r : Req) : (s.setReq n r).agenda = s.agenda := rfl
@[simp] theorem setReq_free (s : State) (n : Nat) (r : Req) : (s.setReq n r).free = s.free := rfl
@[simp] theorem setReq_nextId (s : State) (n : Nat) (r : Req) : (s.setReq n r).nextId = s.nextId := rfl

@[simp] theorem dropReq_cycle (s : State) (n : Nat) : (s.dropReq n).cycle = s.cycle := rfl
@[simp] theorem dropReq_mem (s : State) (n : Nat) : (s.dropReq n).mem = s.mem := rfl
@[simp] theorem dropReq_poison (s : State) (n : Nat) : (s.dropReq n).poison = s.poison := rfl
@[simp] theorem dropReq_tags (s : State) (n : Nat) : (s.dropReq n).tags = s.tags := rfl
@[simp] theorem dropReq_dirty (s : State) (n : Nat) : (s.dropReq n).dirty = s.dirty := rfl
@[simp] theorem dropReq_cores (s : State) (n : Nat) : (s.dropReq n).cores = s.cores := rfl
@[simp] theorem dropReq_quads (s : State) (n : Nat) : (s.dropReq n).quads = s.quads := rfl
@[simp] theorem dropReq_rings (s : State) (n : Nat) : (s.dropReq n).rings = s.rings := rfl
@[simp] theorem dropReq_clusters (s : State) (n : Nat) : (s.dropReq n).clusters = s.clusters := rfl
@[simp] theorem dropReq_dies (s : State) (n : Nat) : (s.dropReq n).dies = s.dies := rfl
@[simp] theorem dropReq_queues (s : State) (n : Nat) : (s.dropReq n).queues = s.queues := rfl
@[simp] theorem dropReq_baskets (s : State) (n : Nat) : (s.dropReq n).baskets = s.baskets := rfl
@[simp] theorem dropReq_loads (s : State) (n : Nat) : (s.dropReq n).loads = s.loads := rfl
@[simp] theorem dropReq_parts (s : State) (n : Nat) : (s.dropReq n).parts = s.parts := rfl
@[simp] theorem dropReq_reqs (s : State) (n : Nat) : (s.dropReq n).reqs = tdel s.reqs n := rfl
@[simp] theorem dropReq_nextReq (s : State) (n : Nat) : (s.dropReq n).nextReq = s.nextReq := rfl
@[simp] theorem dropReq_probes (s : State) (n : Nat) : (s.dropReq n).probes = s.probes := rfl
@[simp] theorem dropReq_firings (s : State) (n : Nat) : (s.dropReq n).firings = s.firings := rfl
@[simp] theorem dropReq_agentQ (s : State) (n : Nat) : (s.dropReq n).agentQ = s.agentQ := rfl
@[simp] theorem dropReq_cellQ (s : State) (n : Nat) : (s.dropReq n).cellQ = s.cellQ := rfl
@[simp] theorem dropReq_heldCmds (s : State) (n : Nat) : (s.dropReq n).heldCmds = s.heldCmds := rfl
@[simp] theorem dropReq_bridge (s : State) (n : Nat) : (s.dropReq n).bridge = s.bridge := rfl
@[simp] theorem dropReq_steward (s : State) (n : Nat) : (s.dropReq n).steward = s.steward := rfl
@[simp] theorem dropReq_cur (s : State) (n : Nat) : (s.dropReq n).cur = s.cur := rfl
@[simp] theorem dropReq_agenda (s : State) (n : Nat) : (s.dropReq n).agenda = s.agenda := rfl
@[simp] theorem dropReq_free (s : State) (n : Nat) : (s.dropReq n).free = s.free := rfl
@[simp] theorem dropReq_nextId (s : State) (n : Nat) : (s.dropReq n).nextId = s.nextId := rfl

@[simp] theorem emit_cycle (s : State) (o : Outgoing) : (s.emit o).cycle = s.cycle := rfl
@[simp] theorem emit_mem (s : State) (o : Outgoing) : (s.emit o).mem = s.mem := rfl
@[simp] theorem emit_poison (s : State) (o : Outgoing) : (s.emit o).poison = s.poison := rfl
@[simp] theorem emit_tags (s : State) (o : Outgoing) : (s.emit o).tags = s.tags := rfl
@[simp] theorem emit_dirty (s : State) (o : Outgoing) : (s.emit o).dirty = s.dirty := rfl
@[simp] theorem emit_cores (s : State) (o : Outgoing) : (s.emit o).cores = s.cores := rfl
@[simp] theorem emit_quads (s : State) (o : Outgoing) : (s.emit o).quads = s.quads := rfl
@[simp] theorem emit_rings (s : State) (o : Outgoing) : (s.emit o).rings = s.rings := rfl
@[simp] theorem emit_clusters (s : State) (o : Outgoing) : (s.emit o).clusters = s.clusters := rfl
@[simp] theorem emit_dies (s : State) (o : Outgoing) : (s.emit o).dies = s.dies := rfl
@[simp] theorem emit_queues (s : State) (o : Outgoing) : (s.emit o).queues = s.queues := rfl
@[simp] theorem emit_baskets (s : State) (o : Outgoing) : (s.emit o).baskets = s.baskets := rfl
@[simp] theorem emit_loads (s : State) (o : Outgoing) : (s.emit o).loads = s.loads := rfl
@[simp] theorem emit_parts (s : State) (o : Outgoing) : (s.emit o).parts = s.parts := rfl
@[simp] theorem emit_reqs (s : State) (o : Outgoing) : (s.emit o).reqs = s.reqs := rfl
@[simp] theorem emit_nextReq (s : State) (o : Outgoing) : (s.emit o).nextReq = s.nextReq := rfl
@[simp] theorem emit_probes (s : State) (o : Outgoing) : (s.emit o).probes = s.probes := rfl
@[simp] theorem emit_firings (s : State) (o : Outgoing) : (s.emit o).firings = s.firings := rfl
@[simp] theorem emit_agentQ (s : State) (o : Outgoing) : (s.emit o).agentQ = s.agentQ := rfl
@[simp] theorem emit_cellQ (s : State) (o : Outgoing) : (s.emit o).cellQ = s.cellQ := rfl
@[simp] theorem emit_heldCmds (s : State) (o : Outgoing) : (s.emit o).heldCmds = s.heldCmds := rfl
@[simp] theorem emit_bridge (s : State) (o : Outgoing) : (s.emit o).bridge = { s.bridge with out := s.bridge.out ++ [o] } := rfl
@[simp] theorem emit_steward (s : State) (o : Outgoing) : (s.emit o).steward = s.steward := rfl
@[simp] theorem emit_cur (s : State) (o : Outgoing) : (s.emit o).cur = s.cur := rfl
@[simp] theorem emit_agenda (s : State) (o : Outgoing) : (s.emit o).agenda = s.agenda := rfl
@[simp] theorem emit_free (s : State) (o : Outgoing) : (s.emit o).free = s.free := rfl
@[simp] theorem emit_nextId (s : State) (o : Outgoing) : (s.emit o).nextId = s.nextId := rfl

@[simp] theorem modThread_cycle (s : State) (tid : Nat) (f : Thread → Thread) : (s.modThread tid f).cycle = s.cycle := by
  unfold modThread; split <;> rfl
@[simp] theorem modThread_mem (s : State) (tid : Nat) (f : Thread → Thread) : (s.modThread tid f).mem = s.mem := by
  unfold modThread; split <;> rfl
@[simp] theorem modThread_poison (s : State) (tid : Nat) (f : Thread → Thread) : (s.modThread tid f).poison = s.poison := by
  unfold modThread; split <;> rfl
@[simp] theorem modThread_tags (s : State) (tid : Nat) (f : Thread → Thread) : (s.modThread tid f).tags = s.tags := by
  unfold modThread; split <;> rfl
@[simp] theorem modThread_dirty (s : State) (tid : Nat) (f : Thread → Thread) : (s.modThread tid f).dirty = s.dirty := by
  unfold modThread; split <;> rfl
@[simp] theorem modThread_quads (s : State) (tid : Nat) (f : Thread → Thread) : (s.modThread tid f).quads = s.quads := by
  unfold modThread; split <;> rfl
@[simp] theorem modThread_rings (s : State) (tid : Nat) (f : Thread → Thread) : (s.modThread tid f).rings = s.rings := by
  unfold modThread; split <;> rfl
@[simp] theorem modThread_clusters (s : State) (tid : Nat) (f : Thread → Thread) : (s.modThread tid f).clusters = s.clusters := by
  unfold modThread; split <;> rfl
@[simp] theorem modThread_dies (s : State) (tid : Nat) (f : Thread → Thread) : (s.modThread tid f).dies = s.dies := by
  unfold modThread; split <;> rfl
@[simp] theorem modThread_queues (s : State) (tid : Nat) (f : Thread → Thread) : (s.modThread tid f).queues = s.queues := by
  unfold modThread; split <;> rfl
@[simp] theorem modThread_baskets (s : State) (tid : Nat) (f : Thread → Thread) : (s.modThread tid f).baskets = s.baskets := by
  unfold modThread; split <;> rfl
@[simp] theorem modThread_loads (s : State) (tid : Nat) (f : Thread → Thread) : (s.modThread tid f).loads = s.loads := by
  unfold modThread; split <;> rfl
@[simp] theorem modThread_parts (s : State) (tid : Nat) (f : Thread → Thread) : (s.modThread tid f).parts = s.parts := by
  unfold modThread; split <;> rfl
@[simp] theorem modThread_reqs (s : State) (tid : Nat) (f : Thread → Thread) : (s.modThread tid f).reqs = s.reqs := by
  unfold modThread; split <;> rfl
@[simp] theorem modThread_nextReq (s : State) (tid : Nat) (f : Thread → Thread) : (s.modThread tid f).nextReq = s.nextReq := by
  unfold modThread; split <;> rfl
@[simp] theorem modThread_probes (s : State) (tid : Nat) (f : Thread → Thread) : (s.modThread tid f).probes = s.probes := by
  unfold modThread; split <;> rfl
@[simp] theorem modThread_firings (s : State) (tid : Nat) (f : Thread → Thread) : (s.modThread tid f).firings = s.firings := by
  unfold modThread; split <;> rfl
@[simp] theorem modThread_agentQ (s : State) (tid : Nat) (f : Thread → Thread) : (s.modThread tid f).agentQ = s.agentQ := by
  unfold modThread; split <;> rfl
@[simp] theorem modThread_cellQ (s : State) (tid : Nat) (f : Thread → Thread) : (s.modThread tid f).cellQ = s.cellQ := by
  unfold modThread; split <;> rfl
@[simp] theorem modThread_heldCmds (s : State) (tid : Nat) (f : Thread → Thread) : (s.modThread tid f).heldCmds = s.heldCmds := by
  unfold modThread; split <;> rfl
@[simp] theorem modThread_bridge (s : State) (tid : Nat) (f : Thread → Thread) : (s.modThread tid f).bridge = s.bridge := by
  unfold modThread; split <;> rfl
@[simp] theorem modThread_steward (s : State) (tid : Nat) (f : Thread → Thread) : (s.modThread tid f).steward = s.steward := by
  unfold modThread; split <;> rfl
@[simp] theorem modThread_cur (s : State) (tid : Nat) (f : Thread → Thread) : (s.modThread tid f).cur = s.cur := by
  unfold modThread; split <;> rfl
@[simp] theorem modThread_agenda (s : State) (tid : Nat) (f : Thread → Thread) : (s.modThread tid f).agenda = s.agenda := by
  unfold modThread; split <;> rfl
@[simp] theorem modThread_free (s : State) (tid : Nat) (f : Thread → Thread) : (s.modThread tid f).free = s.free := by
  unfold modThread; split <;> rfl
@[simp] theorem modThread_nextId (s : State) (tid : Nat) (f : Thread → Thread) : (s.modThread tid f).nextId = s.nextId := by
  unfold modThread; split <;> rfl

end Sys2Proof.Machine.State

namespace Sys2Proof.Machine.Thread

@[simp] theorem setReg_state (t : Thread) (r : RegNo) (v : Reg) : (t.setReg r v).state = t.state := by unfold setReg; split <;> rfl
@[simp] theorem setReg_tier (t : Thread) (r : RegNo) (v : Reg) : (t.setReg r v).tier = t.tier := by unfold setReg; split <;> rfl
@[simp] theorem setReg_part (t : Thread) (r : RegNo) (v : Reg) : (t.setReg r v).part = t.part := by unfold setReg; split <;> rfl
@[simp] theorem setReg_load (t : Thread) (r : RegNo) (v : Reg) : (t.setReg r v).load = t.load := by unfold setReg; split <;> rfl
@[simp] theorem setReg_parentChip (t : Thread) (r : RegNo) (v : Reg) : (t.setReg r v).parentChip = t.parentChip := by unfold setReg; split <;> rfl
@[simp] theorem setReg_parentTid (t : Thread) (r : RegNo) (v : Reg) : (t.setReg r v).parentTid = t.parentTid := by unfold setReg; split <;> rfl
@[simp] theorem setReg_pcc (t : Thread) (r : RegNo) (v : Reg) : (t.setReg r v).pcc = t.pcc := by unfold setReg; split <;> rfl
@[simp] theorem setReg_line (t : Thread) (r : RegNo) (v : Reg) : (t.setReg r v).line = t.line := by unfold setReg; split <;> rfl
@[simp] theorem setReg_lcore (t : Thread) (r : RegNo) (v : Reg) : (t.setReg r v).lcore = t.lcore := by unfold setReg; split <;> rfl
@[simp] theorem setReg_seed (t : Thread) (r : RegNo) (v : Reg) : (t.setReg r v).seed = t.seed := by unfold setReg; split <;> rfl
@[simp] theorem setReg_life (t : Thread) (r : RegNo) (v : Reg) : (t.setReg r v).life = t.life := by unfold setReg; split <;> rfl
@[simp] theorem setReg_hid (t : Thread) (r : RegNo) (v : Reg) : (t.setReg r v).hid = t.hid := by unfold setReg; split <;> rfl
@[simp] theorem setReg_depth (t : Thread) (r : RegNo) (v : Reg) : (t.setReg r v).depth = t.depth := by unfold setReg; split <;> rfl
@[simp] theorem setReg_fpcsr (t : Thread) (r : RegNo) (v : Reg) : (t.setReg r v).fpcsr = t.fpcsr := by unfold setReg; split <;> rfl
@[simp] theorem setReg_faultrec (t : Thread) (r : RegNo) (v : Reg) : (t.setReg r v).faultrec = t.faultrec := by unfold setReg; split <;> rfl
@[simp] theorem setReg_ctx (t : Thread) (r : RegNo) (v : Reg) : (t.setReg r v).ctx = t.ctx := by unfold setReg; split <;> rfl
@[simp] theorem setReg_ctxHost (t : Thread) (r : RegNo) (v : Reg) : (t.setReg r v).ctxHost = t.ctxHost := by unfold setReg; split <;> rfl
@[simp] theorem setReg_authGen (t : Thread) (r : RegNo) (v : Reg) : (t.setReg r v).authGen = t.authGen := by unfold setReg; split <;> rfl
@[simp] theorem setReg_auth (t : Thread) (r : RegNo) (v : Reg) : (t.setReg r v).auth = t.auth := by unfold setReg; split <;> rfl
@[simp] theorem setReg_cls (t : Thread) (r : RegNo) (v : Reg) : (t.setReg r v).cls = t.cls := by unfold setReg; split <;> rfl
@[simp] theorem setReg_ceil (t : Thread) (r : RegNo) (v : Reg) : (t.setReg r v).ceil = t.ceil := by unfold setReg; split <;> rfl
@[simp] theorem setReg_pend (t : Thread) (r : RegNo) (v : Reg) : (t.setReg r v).pend = t.pend := by unfold setReg; split <;> rfl
@[simp] theorem setReg_fired (t : Thread) (r : RegNo) (v : Reg) : (t.setReg r v).fired = t.fired := by unfold setReg; split <;> rfl
@[simp] theorem setReg_watch (t : Thread) (r : RegNo) (v : Reg) : (t.setReg r v).watch = t.watch := by unfold setReg; split <;> rfl
@[simp] theorem setReg_sfq (t : Thread) (r : RegNo) (v : Reg) : (t.setReg r v).sfq = t.sfq := by unfold setReg; split <;> rfl
@[simp] theorem setReg_ovf (t : Thread) (r : RegNo) (v : Reg) : (t.setReg r v).ovf = t.ovf := by unfold setReg; split <;> rfl
@[simp] theorem setReg_last (t : Thread) (r : RegNo) (v : Reg) : (t.setReg r v).last = t.last := by unfold setReg; split <;> rfl
@[simp] theorem setReg_held (t : Thread) (r : RegNo) (v : Reg) : (t.setReg r v).held = t.held := by unfold setReg; split <;> rfl
@[simp] theorem setReg_nextSeq (t : Thread) (r : RegNo) (v : Reg) : (t.setReg r v).nextSeq = t.nextSeq := by unfold setReg; split <;> rfl
@[simp] theorem setReg_resv (t : Thread) (r : RegNo) (v : Reg) : (t.setReg r v).resv = t.resv := by unfold setReg; split <;> rfl
@[simp] theorem setReg_window (t : Thread) (r : RegNo) (v : Reg) : (t.setReg r v).window = t.window := by unfold setReg; split <;> rfl
@[simp] theorem setReg_stores (t : Thread) (r : RegNo) (v : Reg) : (t.setReg r v).stores = t.stores := by unfold setReg; split <;> rfl
@[simp] theorem setReg_order (t : Thread) (r : RegNo) (v : Reg) : (t.setReg r v).order = t.order := by unfold setReg; split <;> rfl
@[simp] theorem setReg_wait (t : Thread) (r : RegNo) (v : Reg) : (t.setReg r v).wait = t.wait := by unfold setReg; split <;> rfl
@[simp] theorem setReg_fault (t : Thread) (r : RegNo) (v : Reg) : (t.setReg r v).fault = t.fault := by unfold setReg; split <;> rfl
@[simp] theorem setReg_ask (t : Thread) (r : RegNo) (v : Reg) : (t.setReg r v).ask = t.ask := by unfold setReg; split <;> rfl
@[simp] theorem setReg_hidden (t : Thread) (r : RegNo) (v : Reg) : (t.setReg r v).hidden = t.hidden := by unfold setReg; split <;> rfl
@[simp] theorem setReg_hiddenFired (t : Thread) (r : RegNo) (v : Reg) : (t.setReg r v).hiddenFired = t.hiddenFired := by unfold setReg; split <;> rfl
@[simp] theorem setReg_unionPend (t : Thread) (r : RegNo) (v : Reg) : (t.setReg r v).unionPend = t.unionPend := by unfold setReg; split <;> rfl
@[simp] theorem setReg_latch (t : Thread) (r : RegNo) (v : Reg) : (t.setReg r v).latch = t.latch := by unfold setReg; split <;> rfl
@[simp] theorem setReg_leaving (t : Thread) (r : RegNo) (v : Reg) : (t.setReg r v).leaving = t.leaving := by unfold setReg; split <;> rfl
@[simp] theorem setReg_justYielded (t : Thread) (r : RegNo) (v : Reg) : (t.setReg r v).justYielded = t.justYielded := by unfold setReg; split <;> rfl
@[simp] theorem setReg_since (t : Thread) (r : RegNo) (v : Reg) : (t.setReg r v).since = t.since := by unfold setReg; split <;> rfl
@[simp] theorem setReg_lastIssue (t : Thread) (r : RegNo) (v : Reg) : (t.setReg r v).lastIssue = t.lastIssue := by unfold setReg; split <;> rfl

@[simp] theorem advance_state (t : Thread) : t.advance.state = t.state := rfl
@[simp] theorem advance_tier (t : Thread) : t.advance.tier = t.tier := rfl
@[simp] theorem advance_part (t : Thread) : t.advance.part = t.part := rfl
@[simp] theorem advance_load (t : Thread) : t.advance.load = t.load := rfl
@[simp] theorem advance_parentChip (t : Thread) : t.advance.parentChip = t.parentChip := rfl
@[simp] theorem advance_parentTid (t : Thread) : t.advance.parentTid = t.parentTid := rfl
@[simp] theorem advance_line (t : Thread) : t.advance.line = t.line := rfl
@[simp] theorem advance_lcore (t : Thread) : t.advance.lcore = t.lcore := rfl
@[simp] theorem advance_seed (t : Thread) : t.advance.seed = t.seed := rfl
@[simp] theorem advance_life (t : Thread) : t.advance.life = t.life := rfl
@[simp] theorem advance_hid (t : Thread) : t.advance.hid = t.hid := rfl
@[simp] theorem advance_depth (t : Thread) : t.advance.depth = t.depth := rfl
@[simp] theorem advance_fpcsr (t : Thread) : t.advance.fpcsr = t.fpcsr := rfl
@[simp] theorem advance_faultrec (t : Thread) : t.advance.faultrec = t.faultrec := rfl
@[simp] theorem advance_ctx (t : Thread) : t.advance.ctx = t.ctx := rfl
@[simp] theorem advance_ctxHost (t : Thread) : t.advance.ctxHost = t.ctxHost := rfl
@[simp] theorem advance_authGen (t : Thread) : t.advance.authGen = t.authGen := rfl
@[simp] theorem advance_auth (t : Thread) : t.advance.auth = t.auth := rfl
@[simp] theorem advance_cls (t : Thread) : t.advance.cls = t.cls := rfl
@[simp] theorem advance_ceil (t : Thread) : t.advance.ceil = t.ceil := rfl
@[simp] theorem advance_pend (t : Thread) : t.advance.pend = t.pend := rfl
@[simp] theorem advance_fired (t : Thread) : t.advance.fired = t.fired := rfl
@[simp] theorem advance_watch (t : Thread) : t.advance.watch = t.watch := rfl
@[simp] theorem advance_sfq (t : Thread) : t.advance.sfq = t.sfq := rfl
@[simp] theorem advance_ovf (t : Thread) : t.advance.ovf = t.ovf := rfl
@[simp] theorem advance_last (t : Thread) : t.advance.last = t.last := rfl
@[simp] theorem advance_held (t : Thread) : t.advance.held = t.held := rfl
@[simp] theorem advance_nextSeq (t : Thread) : t.advance.nextSeq = t.nextSeq := rfl
@[simp] theorem advance_resv (t : Thread) : t.advance.resv = t.resv := rfl
@[simp] theorem advance_window (t : Thread) : t.advance.window = t.window := rfl
@[simp] theorem advance_stores (t : Thread) : t.advance.stores = t.stores := rfl
@[simp] theorem advance_order (t : Thread) : t.advance.order = t.order := rfl
@[simp] theorem advance_wait (t : Thread) : t.advance.wait = t.wait := rfl
@[simp] theorem advance_fault (t : Thread) : t.advance.fault = t.fault := rfl
@[simp] theorem advance_ask (t : Thread) : t.advance.ask = t.ask := rfl
@[simp] theorem advance_hidden (t : Thread) : t.advance.hidden = t.hidden := rfl
@[simp] theorem advance_hiddenFired (t : Thread) : t.advance.hiddenFired = t.hiddenFired := rfl
@[simp] theorem advance_unionPend (t : Thread) : t.advance.unionPend = t.unionPend := rfl
@[simp] theorem advance_latch (t : Thread) : t.advance.latch = t.latch := rfl
@[simp] theorem advance_leaving (t : Thread) : t.advance.leaving = t.leaving := rfl
@[simp] theorem advance_justYielded (t : Thread) : t.advance.justYielded = t.justYielded := rfl
@[simp] theorem advance_since (t : Thread) : t.advance.since = t.since := rfl
@[simp] theorem advance_lastIssue (t : Thread) : t.advance.lastIssue = t.lastIssue := rfl
@[simp] theorem advance_regs (t : Thread) : t.advance.regs = t.regs := rfl
@[simp] theorem advance_pcc (t : Thread) : t.advance.pcc = t.pcc.withCursor t.following := rfl

@[simp] theorem countIssue_state (t : Thread) (c : Nat) : (t.countIssue c).state = t.state := rfl
@[simp] theorem countIssue_tier (t : Thread) (c : Nat) : (t.countIssue c).tier = t.tier := rfl
@[simp] theorem countIssue_part (t : Thread) (c : Nat) : (t.countIssue c).part = t.part := rfl
@[simp] theorem countIssue_load (t : Thread) (c : Nat) : (t.countIssue c).load = t.load := rfl
@[simp] theorem countIssue_parentChip (t : Thread) (c : Nat) : (t.countIssue c).parentChip = t.parentChip := rfl
@[simp] theorem countIssue_parentTid (t : Thread) (c : Nat) : (t.countIssue c).parentTid = t.parentTid := rfl
@[simp] theorem countIssue_pcc (t : Thread) (c : Nat) : (t.countIssue c).pcc = t.pcc := rfl
@[simp] theorem countIssue_line (t : Thread) (c : Nat) : (t.countIssue c).line = t.line := rfl
@[simp] theorem countIssue_lcore (t : Thread) (c : Nat) : (t.countIssue c).lcore = t.lcore := rfl
@[simp] theorem countIssue_seed (t : Thread) (c : Nat) : (t.countIssue c).seed = t.seed := rfl
@[simp] theorem countIssue_life (t : Thread) (c : Nat) : (t.countIssue c).life = t.life := rfl
@[simp] theorem countIssue_hid (t : Thread) (c : Nat) : (t.countIssue c).hid = t.hid := rfl
@[simp] theorem countIssue_depth (t : Thread) (c : Nat) : (t.countIssue c).depth = t.depth := rfl
@[simp] theorem countIssue_fpcsr (t : Thread) (c : Nat) : (t.countIssue c).fpcsr = t.fpcsr := rfl
@[simp] theorem countIssue_faultrec (t : Thread) (c : Nat) : (t.countIssue c).faultrec = t.faultrec := rfl
@[simp] theorem countIssue_ctx (t : Thread) (c : Nat) : (t.countIssue c).ctx = t.ctx := rfl
@[simp] theorem countIssue_ctxHost (t : Thread) (c : Nat) : (t.countIssue c).ctxHost = t.ctxHost := rfl
@[simp] theorem countIssue_authGen (t : Thread) (c : Nat) : (t.countIssue c).authGen = t.authGen := rfl
@[simp] theorem countIssue_auth (t : Thread) (c : Nat) : (t.countIssue c).auth = t.auth := rfl
@[simp] theorem countIssue_cls (t : Thread) (c : Nat) : (t.countIssue c).cls = t.cls := rfl
@[simp] theorem countIssue_ceil (t : Thread) (c : Nat) : (t.countIssue c).ceil = t.ceil := rfl
@[simp] theorem countIssue_pend (t : Thread) (c : Nat) : (t.countIssue c).pend = t.pend := rfl
@[simp] theorem countIssue_fired (t : Thread) (c : Nat) : (t.countIssue c).fired = t.fired := rfl
@[simp] theorem countIssue_watch (t : Thread) (c : Nat) : (t.countIssue c).watch = t.watch := rfl
@[simp] theorem countIssue_sfq (t : Thread) (c : Nat) : (t.countIssue c).sfq = t.sfq := rfl
@[simp] theorem countIssue_ovf (t : Thread) (c : Nat) : (t.countIssue c).ovf = t.ovf := rfl
@[simp] theorem countIssue_last (t : Thread) (c : Nat) : (t.countIssue c).last = t.last := rfl
@[simp] theorem countIssue_held (t : Thread) (c : Nat) : (t.countIssue c).held = t.held := rfl
@[simp] theorem countIssue_nextSeq (t : Thread) (c : Nat) : (t.countIssue c).nextSeq = t.nextSeq := rfl
@[simp] theorem countIssue_resv (t : Thread) (c : Nat) : (t.countIssue c).resv = t.resv := rfl
@[simp] theorem countIssue_window (t : Thread) (c : Nat) : (t.countIssue c).window = t.window := rfl
@[simp] theorem countIssue_wait (t : Thread) (c : Nat) : (t.countIssue c).wait = t.wait := rfl
@[simp] theorem countIssue_fault (t : Thread) (c : Nat) : (t.countIssue c).fault = t.fault := rfl
@[simp] theorem countIssue_ask (t : Thread) (c : Nat) : (t.countIssue c).ask = t.ask := rfl
@[simp] theorem countIssue_hidden (t : Thread) (c : Nat) : (t.countIssue c).hidden = t.hidden := rfl
@[simp] theorem countIssue_hiddenFired (t : Thread) (c : Nat) : (t.countIssue c).hiddenFired = t.hiddenFired := rfl
@[simp] theorem countIssue_unionPend (t : Thread) (c : Nat) : (t.countIssue c).unionPend = t.unionPend := rfl
@[simp] theorem countIssue_latch (t : Thread) (c : Nat) : (t.countIssue c).latch = t.latch := rfl
@[simp] theorem countIssue_leaving (t : Thread) (c : Nat) : (t.countIssue c).leaving = t.leaving := rfl
@[simp] theorem countIssue_justYielded (t : Thread) (c : Nat) : (t.countIssue c).justYielded = t.justYielded := rfl
@[simp] theorem countIssue_since (t : Thread) (c : Nat) : (t.countIssue c).since = t.since := rfl
@[simp] theorem countIssue_regs (t : Thread) (c : Nat) : (t.countIssue c).regs = t.regs := rfl

end Sys2Proof.Machine.Thread
end

