-- ==== Sys2Proof/Laws/Table.lean ====
section
/-!
SUPPORT. Sys2Proof/Laws/Table.lean: collections by number and lists of fixed places: reading after writing.
-/
namespace Sys2Proof.Machine

@[simp] theorem tget_tput {α : Type} (t : Table α) (k : Nat) (v : α) : tget (tput t k v) k = some v := by
  induction t with
  | nil => simp [tput, tget]
  | cons p r ih =>
    obtain ⟨i, a⟩ := p
    by_cases h1 : k < i
    · simp [tput, tget, h1]
    · by_cases h2 : k = i
      · simp [tput, tget, h2]
      · simp [tput, tget, h1, h2, Ne.symm h2, ih]

theorem tget_tput_ne {α : Type} (t : Table α) (k j : Nat) (v : α) (h : j ≠ k) : tget (tput t k v) j = tget t j := by
  induction t with
  | nil => simp [tput, tget, Ne.symm h]
  | cons p r ih =>
    obtain ⟨i, a⟩ := p
    by_cases h1 : k < i
    · simp [tput, tget, h1, Ne.symm h]
    · by_cases h2 : k = i
      · subst h2
        simp [tput, tget, Ne.symm h]
      · simp only [tput, h1, h2, if_false, tget]
        split
        · rfl
        · exact ih

@[simp] theorem getD_lput {α : Type} (z : α) (l : List α) (i : Nat) (v : α) : (lput z l i v).getD i z = v := by
  induction i generalizing l with
  | zero => cases l <;> simp [lput]
  | succ i ih => cases l <;> simpa [lput] using ih _

theorem getD_lput_ne {α : Type} (z : α) (l : List α) (i j : Nat) (v : α) (h : j ≠ i) :
    (lput z l i v).getD j z = l.getD j z := by
  induction i generalizing l j with
  | zero =>
    obtain ⟨j, rfl⟩ := Nat.exists_eq_succ_of_ne_zero h
    cases l <;> simp [lput]
  | succ i ih =>
    cases j with
    | zero => cases l <;> simp [lput]
    | succ j =>
      have := fun l => ih l j (by omega)
      cases l
      · simpa [lput] using this []
      · simpa [lput] using this _

/-- Removing a key leaves the other keys. -/
theorem tget_tdel_ne {α : Type} (t : Table α) (k j : Nat) (h : j ≠ k) : tget (tdel t k) j = tget t j := by
  induction t with
  | nil => rfl
  | cons p r ih =>
    obtain ⟨i, a⟩ := p
    by_cases h1 : i = k
    · subst h1
      simp [tdel, tget, Ne.symm h]
    · simp only [tdel, h1, if_false, tget, ih]

end Sys2Proof.Machine
end

