-- ==== Sys2Proof/Laws/Threads.lean ====
section
/-!
SUPPORT. Sys2Proof/Laws/Threads.lean: reading parts of the module and registers after writing them.
-/
namespace Sys2Proof.Machine

@[simp] theorem State.core_setCore (s : State) (c : Nat) (k : Core) : (s.setCore c k).core c = k := by
  simp [State.core, State.setCore]

theorem State.core_setCore_ne (s : State) (c j : Nat) (k : Core) (h : j ≠ c) : (s.setCore c k).core j = s.core j := by
  simp [State.core, State.setCore, tget_tput_ne _ _ _ _ h]

@[simp] theorem State.cluster_setCluster (s : State) (c : Nat) (k : Cluster) : (s.setCluster c k).cluster c = k := by
  simp [State.cluster, State.setCluster]

theorem State.cluster_setCluster_ne (s : State) (c j : Nat) (k : Cluster) (h : j ≠ c) :
    (s.setCluster c k).cluster j = s.cluster j := by
  simp [State.cluster, State.setCluster, tget_tput_ne _ _ _ _ h]

@[simp] theorem State.thread?_setThread (s : State) (n : Nat) (t : Thread) : (s.setThread n t).thread? n = some t := by
  simp [State.thread?, State.setThread]

theorem State.thread?_setThread_ne (s : State) (n m : Nat) (t : Thread) (h : m ≠ n) :
    (s.setThread n t).thread? m = s.thread? m := by
  by_cases hc : m / 256 = n / 256
  · have hm : m % 256 ≠ n % 256 := by omega
    simp [State.thread?, State.setThread, hc, tget_tput_ne _ _ _ _ hm]
  · simp [State.thread?, State.setThread, State.core_setCore_ne _ _ _ _ hc]

theorem State.thread?_modThread (s : State) (n : Nat) (f : Thread → Thread) : (s.modThread n f).thread? n = (s.thread? n).map f := by
  unfold State.modThread
  cases h : s.thread? n <;> simp [h]

theorem State.thread?_modThread_ne (s : State) (n m : Nat) (f : Thread → Thread) (h : m ≠ n) :
    (s.modThread n f).thread? m = s.thread? m := by
  unfold State.modThread
  cases s.thread? n
  · rfl
  · exact State.thread?_setThread_ne _ _ _ _ h

@[simp] theorem Thread.reg_zero (t : Thread) : t.reg 0 = Reg.zero := rfl

theorem Thread.reg_setReg (t : Thread) (d r : RegNo) (v : Reg) :
    (t.setReg d v).reg r = if r = 0 then Reg.zero else if r = d then v else t.reg r := by
  unfold Thread.setReg Thread.reg
  by_cases hr : r = 0
  · simp only [hr, if_true]
  · simp only [hr, if_false]
    by_cases hd : d = 0
    · have hrd : r ≠ d := fun h => hr (h.trans hd)
      simp only [hd, if_true]
      rw [if_neg (hd ▸ hrd)]
    · simp only [hd, if_false]
      by_cases hrd : r = d
      · simp only [hrd, if_true, getD_lput]
      · have : r.toNat ≠ d.toNat := fun h => hrd (BitVec.eq_of_toNat_eq h)
        simp only [hrd, if_false]
        exact getD_lput_ne _ _ _ _ _ this

@[simp] theorem Thread.reg_advance (t : Thread) (r : RegNo) : t.advance.reg r = t.reg r := rfl
@[simp] theorem Thread.reg_countIssue (t : Thread) (c : Nat) (r : RegNo) : (t.countIssue c).reg r = t.reg r := rfl

end Sys2Proof.Machine
end

