-- ==== Sys2Proof/Laws/Issue.lean ====
section
/-!
SUPPORT. Sys2Proof/Laws/Issue.lean: what the end of an instruction does and what it leaves, said once for every instruction
that retires with new registers or flags only.
-/
namespace Sys2Proof.Machine

theorem State.Keeps.cur_eq {s s' : State} (h : s.Keeps s') : s'.cur = s.cur := by
  have := congrArg State.cur h.rest; simpa using this

theorem State.Keeps.refl (s : State) : s.Keeps s := ⟨fun _ => rfl, fun _ => rfl, fun _ _ => rfl, fun _ => rfl, fun _ => rfl, rfl⟩

theorem State.Keeps.trans {s s' s'' : State} (h : s.Keeps s') (g : s'.Keeps s'') : s.Keeps s'' := by
  have hc := h.cur_eq
  refine ⟨fun a => (g.bytes a).trans (h.bytes a), fun a => (g.tags a).trans (h.tags a),
    fun n hn => (g.threads n (hc ▸ hn)).trans (h.threads n hn), fun c => ?_, fun c => ?_, ?_⟩
  · have h1 := h.cores c; have h2 := g.cores c
    rw [← h2] at h1
    exact h1
  · have h1 := h.clusters c; have h2 := g.clusters c
    rw [← h2] at h1
    exact h1
  · have h1 := h.rest; have h2 := g.rest
    rw [← h2] at h1
    exact h1

theorem State.Keeps.setThread {s : State} {n : Nat} (t : Thread) (h : n = s.cur) : s.Keeps (s.setThread n t) := by
  subst h
  refine ⟨fun _ => rfl, fun _ => rfl, fun n hn => State.thread?_setThread_ne _ _ _ _ hn, fun c => ?_, fun _ => rfl, rfl⟩
  by_cases hc : c = s.cur / 256
  · subst hc; simp [State.setThread]
  · simp [State.setThread, State.core_setCore_ne _ _ _ _ hc]

theorem State.Keeps.modThread {s : State} {n : Nat} (f : Thread → Thread) (h : n = s.cur) : s.Keeps (s.modThread n f) := by
  unfold State.modThread
  cases s.thread? n
  · exact .refl s
  · exact .setThread _ h

theorem State.Keeps.flags {s : State} {cl : Nat} {k : Cluster} (f : FlagSet) (hk : k = { s.cluster cl with flags := f }) :
    s.Keeps (s.setCluster cl k) := by
  subst hk
  refine ⟨fun _ => rfl, fun _ => rfl, fun _ _ => rfl, fun _ => rfl, fun c => ?_, rfl⟩
  by_cases hc : c = cl
  · subst hc; simp
  · simp [State.cluster_setCluster_ne _ _ _ _ hc]

theorem State.Keeps.showFlags {s : State} {n : Nat} (h : n = s.cur) : s.Keeps (s.showFlags n) := by
  unfold State.showFlags
  split
  · split
    · exact .trans (s' := s.setThread n _) (.setThread _ h) (.flags _ rfl)
    · exact .refl s
  · exact .refl s

theorem State.Keeps.noteIssue {s : State} (t : Thread) : s.Keeps (s.noteIssue t) := by
  unfold State.noteIssue
  simp only
  split
  · refine ⟨fun _ => rfl, fun _ => rfl, fun n _ => ?_, fun c => ?_, fun _ => rfl, rfl⟩
    · by_cases hc : n / 256 = coreOf s.cur
      · simp [State.thread?, hc]
      · simp [State.thread?, State.core_setCore_ne _ _ _ _ hc]
    · by_cases hc : c = coreOf s.cur
      · subst hc; simp
      · simp [State.core_setCore_ne _ _ _ _ hc]
  · exact .refl s

/-- The arbiter's note changes no thread. -/
@[simp] theorem State.thread?_noteIssue (s : State) (t : Thread) (n : Nat) : (s.noteIssue t).thread? n = s.thread? n := by
  unfold State.noteIssue
  simp only
  split
  · by_cases hc : n / 256 = coreOf s.cur
    · simp [State.thread?, hc]
    · simp [State.thread?, State.core_setCore_ne _ _ _ _ hc]
  · rfl

/-- Showing flags changes of the thread only what it kept back. -/
theorem State.thread?_showFlags (s : State) (n : Nat) (t : Thread) (h : s.thread? n = some t) :
    ∃ p, (s.showFlags n).thread? n = some { t with unionPend := p } := by
  unfold State.showFlags
  simp only [h]
  split
  · exact ⟨_, by simp [State.thread?, State.setThread, State.setCluster, State.core]; rfl⟩
  · exact ⟨t.unionPend, h⟩

/-- The state an instruction leaves that retires with a change `g` of its own thread. -/
def State.retires (s : State) (t : Thread) (g : Thread → Thread) : State :=
  (((s.modThread s.cur g).modThread s.cur (fun u => (u.countIssue s.cycle).advance)).showFlags s.cur).noteIssue t

theorem State.finish_retire (s : State) (i : Instr) (t : Thread) (g : Thread → Thread) :
    s.finish i t (.retire (s.modThread s.cur g)) = s.retires t g := rfl

/-- An instruction that retires with new registers and flags leaves everything else as it was. -/
theorem State.retires_spec (s : State) (t : Thread) (g : Thread → Thread) (h : s.thread? s.cur = some t)
    (rs : List Reg) (fp : Word) (p : List (Nat × FlagSet)) (hg : g t = { t with regs := rs, fpcsr := fp, unionPend := p }) :
    s.Keeps (s.retires t g) ∧
      ∃ t', (s.retires t g).thread? s.cur = some t' ∧ t.Retired t' (g t).reg (g t).fpcsr := by
  unfold State.retires
  constructor
  · exact .trans (.trans (.trans (.modThread _ rfl) (.modThread _ (by simp))) (.showFlags (by simp))) (.noteIssue _)
  · have h2 : ((s.modThread s.cur g).modThread s.cur (fun u => (u.countIssue s.cycle).advance)).thread? s.cur
        = some ((g t).countIssue s.cycle).advance := by
      simp [State.thread?_modThread, h]
    obtain ⟨q, hq⟩ := State.thread?_showFlags _ _ _ h2
    refine ⟨_, by rw [State.thread?_noteIssue]; exact hq, ?_⟩
    rw [hg]
    refine ⟨rfl, fun _ => rfl, rfl, ?_, rfl⟩
    show (t.stores.map _).map StoreOut.req = _
    rw [List.map_map]
    refine List.map_congr_left fun x _ => ?_
    simp only [Function.comp]
    split <;> rfl

/-- The thread that issues is the current one. -/
theorem State.thread?_of_runner {s : State} {t : Thread} (h : s.runner = some t) : s.thread? s.cur = some t := by
  unfold State.runner at h
  split at h
  · split at h
    · simp_all
    · simp at h
  · simp at h

/-- An instruction that writes one register. -/
theorem State.writes_spec (s : State) (i : Instr) (t : Thread) (d : RegNo) (v : Reg) (h : s.runner = some t) :
    s.Wrote (s.finish i t (s.writes d v)) t d v t.fpcsr := by
  have := State.retires_spec s t (fun u => u.setReg d v) (State.thread?_of_runner h) (t.setReg d v).regs t.fpcsr t.unionPend
    (by show t.setReg d v = _; unfold Thread.setReg; split <;> rfl)
  unfold State.Wrote State.writes
  rw [State.finish_retire]
  obtain ⟨h0, t', h1, h2⟩ := this
  refine ⟨h0, t', h1, h2.pcc, fun r => ?_, ?_, h2.stores, h2.rest⟩
  · rw [h2.regs, Thread.reg_setReg]; rfl
  · rw [h2.fpcsr]; simp

/-- What every program instruction's meaning does when its thread may issue it. -/
theorem State.issue_eq {s : State} {t : Thread} {i : Instr} (h : s.Issues t i) (f : Thread → Eff) :
    s.issue i f = .next (s.finish i t (f t)) := by
  unfold State.issue
  simp [h.1, h.2]

end Sys2Proof.Machine
end

