-- ==== Sys2Proof/Laws/Command.lean ====
section
/-!
SUPPORT. Sys2Proof/Laws/Command.lean: what passing a list of checks says, what a command does at issue, and what taking a
precise fault leaves.
-/
namespace Sys2Proof.Machine

/-! ## Lists of checks -/

@[simp] theorem firstOf_nil : firstOf [] = none := rfl
@[simp] theorem firstOf_none (r : List (Option Trap)) : firstOf (none :: r) = firstOf r := rfl
@[simp] theorem firstOf_some (x : Trap) (r : List (Option Trap)) : firstOf (some x :: r) = some x := rfl

/-- A list of checks passes when each does. -/
theorem firstOf_cons_eq_none (x : Option Trap) (r : List (Option Trap)) : firstOf (x :: r) = none ↔ x = none ∧ firstOf r = none := by
  cases x <;> simp

theorem firstOf_append_eq_none (l r : List (Option Trap)) : firstOf (l ++ r) = none ↔ firstOf l = none ∧ firstOf r = none := by
  induction l with
  | nil => simp
  | cons x l ih => rw [List.cons_append, firstOf_cons_eq_none, firstOf_cons_eq_none, ih, and_assoc]

theorem need_eq_none (ok : Bool) (t : Trap) : need ok t = none ↔ ok = true := by cases ok <;> simp [need]

theorem reservedIf_eq_none (bad : Bool) : reservedIf bad = none ↔ bad = false := by cases bad <;> simp [reservedIf, need]

theorem capCause_eq_none (c : Reg) (p : BitVec 14) (a : Int) (n : Nat) :
    capCause c p a n = none ↔
      c.tag = true ∧ c.sealed_ = false ∧ c.has p = true ∧ (boundsOf c).1 ≤ a ∧ a + n ≤ (boundsOf c).2 := by
  unfold capCause
  by_cases h1 : c.tag = false
  · simp [h1]
  · by_cases h2 : c.sealed_ = true
    · simp [h1, h2]
    · by_cases h3 : c.has p = false
      · simp [h1, h2, h3]
      · by_cases h4 : a < (boundsOf c).1 ∨ (boundsOf c).2 < a + n
        · rw [if_neg h1, if_neg h2, if_neg h3, if_pos h4]
          constructor
          · intro h; cases h
          · rintro ⟨-, -, -, h5, h6⟩; omega
        · rw [if_neg h1, if_neg h2, if_neg h3, if_neg h4]
          simp only [true_iff]
          exact ⟨by simpa using h1, by simpa using h2, by simpa using h3, by omega, by omega⟩

theorem opCap_eq_none (c : Reg) (p : BitVec 14) (n : Nat) : opCap c p n = none ↔ capCause c p (c.cursor.toNat : Int) n = none := by
  simp [opCap, checkCap]

theorem opAlign_eq_none (c : Reg) (n : Nat) : opAlign c n = none ↔ c.cursor.toNat % n = 0 := by simp [opAlign, need_eq_none]

theorem opPlace_eq_none (c : Reg) (n : Nat) : opPlace c n = none ↔ canonical c.cursor = true ∧ touchesAgent c.cursor n = false := by
  simp [opPlace, firstOf_cons_eq_none, need_eq_none]

theorem checkCell_eq_none (c : Reg) : checkCell c = none ↔
    capCause c (permST ||| permAMO) c.cursor.toNat 16 = none ∧ c.cursor.toNat % 16 = 0 ∧ canonical c.cursor = true ∧
      touchesAgent c.cursor 16 = false := by
  simp [checkCell, cellCap, cellPlace, firstOf_cons_eq_none, need_eq_none]

theorem cellUnv_eq_none (hid : Nat) (c : Reg) : cellUnv hid c = none ↔ hid = 0 ∨ c.unv = true := by simp [cellUnv, need_eq_none]
theorem opUnv_eq_none (hid : Nat) (c : Reg) : opUnv hid c = none ↔ hid = 0 ∨ c.unv = true := by simp [opUnv, need_eq_none]
theorem opWindowUnv_eq_none (hid : Nat) (c : Reg) : opWindowUnv hid c = none ↔ hid = 0 ∨ isWindow c.cursor = false ∨ c.unv = true := by
  simp [opWindowUnv, need_eq_none, or_assoc]
theorem cellWindowUnv_eq_none (hid : Nat) (c : Reg) : cellWindowUnv hid c = none ↔ hid = 0 ∨ isWindow c.cursor = false ∨ c.unv = true := by
  simp [cellWindowUnv, need_eq_none, or_assoc]

/-! ## Commands -/

@[simp] theorem Eff.checked_of_none {l : List (Option Trap)} (h : firstOf l = none) (f : Unit → Eff) : Eff.checked l f = f () := by
  simp [Eff.checked, h]

@[simp] theorem Eff.checked_of_some {l : List (Option Trap)} {x : Trap} (h : firstOf l = some x) (f : Unit → Eff) :
    Eff.checked l f = .trap x := by
  simp [Eff.checked, h]

/-- A command whose thread may issue it, whose earlier stores do not hold it back and whose checks pass has its effect. -/
theorem State.command_pass {s : State} {t : Thread} {i : Instr} {x : Cx} (h : s.Issues t i) (hr : x.rel = true → t.stores = [])
    {checks : Thread → List (Option Trap)} (hc : firstOf (checks t) = none) (f : Thread → Eff) :
    s.command i x checks f = .next (s.finish i t (f t)) := by
  unfold State.command
  rw [State.issue_eq h]
  have : ¬(x.rel = true ∧ t.stores ≠ []) := fun ⟨a, b⟩ => b (hr a)
  simp [this, hc]

/-- A command of which a check fails takes that check's fault. -/
theorem State.command_trap {s : State} {t : Thread} {i : Instr} {x : Cx} (h : s.Issues t i) (hr : x.rel = true → t.stores = [])
    {checks : Thread → List (Option Trap)} {e : Trap} (hc : firstOf (checks t) = some e) (f : Thread → Eff) :
    s.command i x checks f = .next (s.finish i t (.trap e)) := by
  unfold State.command
  rw [State.issue_eq h]
  have : ¬(x.rel = true ∧ t.stores ≠ []) := fun ⟨a, b⟩ => b (hr a)
  simp [this, hc]

/-! ## Taking a fault -/

/-- Leaving lines changes no thread. -/
@[simp] theorem State.thread?_leaveLines (s : State) (tid n : Nat) : (s.leaveLines tid).thread? n = s.thread? n := by
  unfold State.leaveLines
  simp only
  split
  · by_cases hc : n / 256 = tid / 256
    · simp [State.thread?, hc]
    · simp only [State.thread?, State.core_setCore_ne _ _ _ _ hc]; rfl
  · rfl

@[simp] theorem State.byteAt_leaveLines (s : State) (tid a : Nat) : (s.leaveLines tid).byteAt a = s.byteAt a := by
  unfold State.leaveLines
  simp only
  split <;> rfl

@[simp] theorem State.cycle_leaveLines (s : State) (tid : Nat) : (s.leaveLines tid).cycle = s.cycle := by
  unfold State.leaveLines
  simp only
  split <;> rfl

/-- What the slices hold of a thread changes nothing but what they hold. -/
theorem State.dropHeldOf_eq (s : State) (tid : Nat) (all : Bool) : ∃ ks, s.dropHeldOf tid all = { s with clusters := ks } := by
  unfold State.dropHeldOf
  simp only
  split
  · exact ⟨_, rfl⟩
  · exact ⟨s.clusters, rfl⟩

@[simp] theorem State.thread?_dropIssued (s : State) (tid n : Nat) : (s.dropIssued tid).thread? n = s.thread? n := by
  unfold State.dropIssued
  obtain ⟨ks, h⟩ := State.dropHeldOf_eq ({ s with reqs := s.reqs.filter (fun (_, r) => r.tid ≠ tid ∨ r.kind = ReqKind.store) }.leaveLines tid) tid false
  rw [h]
  show (State.leaveLines _ tid).thread? n = _
  rw [State.thread?_leaveLines]
  rfl

@[simp] theorem State.byteAt_dropIssued (s : State) (tid a : Nat) : (s.dropIssued tid).byteAt a = s.byteAt a := by
  unfold State.dropIssued
  obtain ⟨ks, h⟩ := State.dropHeldOf_eq ({ s with reqs := s.reqs.filter (fun (_, r) => r.tid ≠ tid ∨ r.kind = ReqKind.store) }.leaveLines tid) tid false
  rw [h]
  show (State.leaveLines _ tid).byteAt a = _
  rw [State.byteAt_leaveLines]
  rfl

@[simp] theorem State.cycle_dropIssued (s : State) (tid : Nat) : (s.dropIssued tid).cycle = s.cycle := by
  unfold State.dropIssued
  obtain ⟨ks, h⟩ := State.dropHeldOf_eq ({ s with reqs := s.reqs.filter (fun (_, r) => r.tid ≠ tid ∨ r.kind = ReqKind.store) }.leaveLines tid) tid false
  rw [h]
  exact State.cycle_leaveLines _ _

@[simp] theorem State.byteAt_modThread (s : State) (n : Nat) (f : Thread → Thread) (a : Nat) : (s.modThread n f).byteAt a = s.byteAt a := by
  unfold State.modThread
  cases s.thread? n <;> rfl

@[simp] theorem State.byteAt_noteIssue (s : State) (t : Thread) (a : Nat) : (s.noteIssue t).byteAt a = s.byteAt a := by
  unfold State.noteIssue
  simp only
  split <;> rfl

/-- Taking a fault leaves memory and every other thread. -/
@[simp] theorem State.byteAt_takeFault (s : State) (tid : Nat) (c : Byte) (a : Word) (k : AKind) (n : Nat) (h : BitVec 16) (g : TState) (x : Nat) :
    (s.takeFault tid c a k n h g).byteAt x = s.byteAt x := by
  simp [State.takeFault]

theorem State.thread?_takeFault_ne (s : State) (tid : Nat) (c : Byte) (a : Word) (k : AKind) (n : Nat) (h : BitVec 16) (g : TState) (m : Nat)
    (hm : m ≠ tid) : (s.takeFault tid c a k n h g).thread? m = s.thread? m := by
  unfold State.takeFault
  simp only
  rw [State.thread?_modThread_ne _ _ _ _ hm, State.thread?_dropIssued]

/-- The thread that takes a fault: at its boundary, the fault pending. -/
theorem State.thread?_takeFault (s : State) (tid : Nat) (c : Byte) (a : Word) (k : AKind) (n : Nat) (h : BitVec 16) (g : TState) (t : Thread)
    (ht : s.thread? tid = some t) : (s.takeFault tid c a k n h g).thread? tid =
      some { t.toBoundary with fault := some ⟨c, a, k, n, h, t.toBoundary.pcc.lo, s.cycle, g⟩ } := by
  unfold State.takeFault
  simp only
  rw [State.thread?_modThread, State.thread?_dropIssued, ht]
  simp
  rfl

/-- A precise fault with nothing unretired before it is pending at once. -/
theorem State.finish_trap (s : State) (i : Instr) (t : Thread) (x : Trap) (h : t.window = []) :
    s.finish i t (.trap x) = (s.takeFault s.cur x.cause x.addr x.kind x.size t.headAt .faulted).noteIssue t := by
  simp [State.finish, h]

end Sys2Proof.Machine
end

