-- ==== Sys2Proof/Laws/Memory.lean ====
section
/-!
SUPPORT. Sys2Proof/Laws/Memory.lean: every operation on memory keeps the canonical form; a read after a write gives the
value written, and a write leaves every other byte alone.
-/
namespace Sys2Proof.Machine

/-- Every address of the list lies above `a`. -/
def above (a : Nat) (m : Memory) : Prop := ∀ p ∈ m, a < p.1

theorem Memory.wf_cons (a : Nat) (b : Byte) (m : Memory) :
    Memory.wf ((a, b) :: m) = true ↔ b ≠ unlisted ∧ above a m ∧ Memory.wf m = true := by
  induction m generalizing a b with
  | nil => simp [Memory.wf, above]
  | cons p r ih =>
    obtain ⟨a', b'⟩ := p
    have h := ih a' b'
    simp only [Memory.wf, Bool.and_eq_true, decide_eq_true_eq] at h ⊢
    constructor
    · rintro ⟨⟨hb, hlt⟩, hw⟩
      refine ⟨hb, ?_, hw⟩
      intro q hq
      rcases List.mem_cons.1 hq with rfl | hq
      · exact hlt
      · exact Nat.lt_trans hlt ((h.1 hw).2.1 q hq)
    · rintro ⟨hb, hab, hw⟩
      exact ⟨⟨hb, hab (a', b') (List.mem_cons_self ..)⟩, hw⟩

theorem above_memPut (a x : Nat) (b : Byte) (m : Memory) (h : above a m) (hx : a < x) : above a (memPut m x b) := by
  induction m with
  | nil =>
    unfold memPut
    split
    · exact h
    · intro p hp; simp at hp; subst hp; exact hx
  | cons p r ih =>
    obtain ⟨i, c⟩ := p
    have hr : above a r := fun q hq => h q (List.mem_cons_of_mem _ hq)
    have hi : a < i := h (i, c) (List.mem_cons_self ..)
    unfold memPut
    split
    · split
      · exact h
      · intro q hq
        rcases List.mem_cons.1 hq with rfl | hq
        · exact hx
        · exact h q hq
    · split
      · split
        · exact hr
        · intro q hq
          rcases List.mem_cons.1 hq with rfl | hq
          · exact hx
          · exact hr q hq
      · intro q hq
        rcases List.mem_cons.1 hq with rfl | hq
        · exact hi
        · exact ih hr q hq

/-- Writing a byte keeps the canonical form. -/
theorem memPut_wf (m : Memory) (a : Nat) (b : Byte) (h : Memory.wf m = true) : Memory.wf (memPut m a b) = true := by
  induction m with
  | nil =>
    unfold memPut
    split
    · rfl
    · rename_i hb; simp [Memory.wf, hb]
  | cons p r ih =>
    obtain ⟨i, c⟩ := p
    obtain ⟨hc, hab, hr⟩ := (Memory.wf_cons i c r).1 h
    unfold memPut
    split
    · rename_i hlt
      split
      · exact h
      · rename_i hb
        refine (Memory.wf_cons _ _ _).2 ⟨hb, ?_, h⟩
        intro q hq
        rcases List.mem_cons.1 hq with rfl | hq
        · exact hlt
        · exact Nat.lt_trans hlt (hab q hq)
    · rename_i hnlt
      split
      · rename_i heq
        subst heq
        split
        · exact hr
        · rename_i hb; exact (Memory.wf_cons _ _ _).2 ⟨hb, hab, hr⟩
      · rename_i hne
        exact (Memory.wf_cons _ _ _).2 ⟨hc, above_memPut i a b r hab (by omega), ih hr⟩

/-- Writing a run of bytes keeps the canonical form. -/
theorem memPutAll_wf (bs : List Byte) (m : Memory) (a : Nat) (h : Memory.wf m = true) : Memory.wf (memPutAll m a bs) = true := by
  induction bs generalizing m a with
  | nil => exact h
  | cons b bs ih => exact ih _ _ (memPut_wf m a b h)

theorem memGet_lt (m : Memory) (a : Nat) (h : above a m) : memGet m a = unlisted := by
  cases m with
  | nil => rfl
  | cons p r =>
    obtain ⟨i, c⟩ := p
    have hi : a < i := h (i, c) (List.mem_cons_self ..)
    unfold memGet
    rw [if_neg (by omega), if_pos hi]

/-- The byte written is read back, in memory of canonical form. -/
theorem memGet_memPut (m : Memory) (a : Nat) (b : Byte) (h : Memory.wf m = true) : memGet (memPut m a b) a = b := by
  induction m with
  | nil =>
    unfold memPut
    split
    · rename_i hb; rw [hb]; rfl
    · simp [memGet]
  | cons p r ih =>
    obtain ⟨i, c⟩ := p
    obtain ⟨_, hab, hr⟩ := (Memory.wf_cons i c r).1 h
    unfold memPut
    split
    · rename_i hlt
      split
      · rename_i hb
        rw [hb]
        exact memGet_lt _ _ (by
          intro q hq
          rcases List.mem_cons.1 hq with rfl | hq
          · exact hlt
          · exact Nat.lt_trans hlt (hab q hq))
      · simp [memGet]
    · split
      · rename_i heq
        subst heq
        split
        · rename_i hb; rw [hb]; exact memGet_lt _ _ hab
        · simp [memGet]
      · rename_i h1 h2
        simp only [memGet]
        rw [if_neg (Ne.symm h2), if_neg h1]
        exact ih hr

/-- A write of one byte leaves every other byte, in memory of canonical form. -/
theorem memGet_memPut_ne (m : Memory) (a x : Nat) (b : Byte) (h : Memory.wf m = true) (hx : x ≠ a) :
    memGet (memPut m a b) x = memGet m x := by
  induction m with
  | nil =>
    unfold memPut
    split
    · rfl
    · simp only [memGet]
      rw [if_neg (Ne.symm hx)]
      split <;> rfl
  | cons p r ih =>
    obtain ⟨i, c⟩ := p
    obtain ⟨_, hab, hr⟩ := (Memory.wf_cons i c r).1 h
    unfold memPut
    split
    · rename_i hlt
      split
      · rfl
      · rw [memGet, if_neg (Ne.symm hx)]
        split
        · rename_i hxa
          exact (memGet_lt _ _ (by
            intro q hq
            rcases List.mem_cons.1 hq with rfl | hq
            · simpa using Nat.lt_trans hxa hlt
            · exact Nat.lt_trans (Nat.lt_trans hxa hlt) (hab q hq))).symm
        · rfl
    · split
      · rename_i heq
        subst heq
        split
        · rw [show memGet ((a, c) :: r) x = if a = x then c else if x < a then unlisted else memGet r x from rfl,
            if_neg (Ne.symm hx)]
          split
          · rename_i hlt
            exact memGet_lt _ _ (fun q hq => Nat.lt_trans hlt (hab q hq))
          · rfl
        · simp only [memGet]
          rw [if_neg (Ne.symm hx), if_neg (Ne.symm hx)]
      · simp only [memGet]
        rw [ih hr]

end Sys2Proof.Machine
end

