-- ==== Sys2Proof/Laws/PerInstr.lean ====
section
/-!
SUPPORT. Sys2Proof/Laws/PerInstr.lean: the per-instruction family `Canon`: the instruction that the decoder gives for an
instruction's word has the same word and the same well-formedness, and is its own canonical form (02 R50).
-/
namespace Sys2Proof.Laws.Canon
open Sys2Proof

/-- The canonical form of an instruction keeps its fields, its well-formedness and itself. -/
def Statement (i : Instr) : Prop := encode i.canon = encode i ∧ i.canon.wellFormed = i.wellFormed ∧ i.canon.canon = i.canon

theorem nop : Statement (.nop) := ⟨rfl, rfl, rfl⟩
theorem yield : Statement (.yield) := ⟨rfl, rfl, rfl⟩
theorem exit : Statement (.exit) := ⟨rfl, rfl, rfl⟩
theorem trap (imm : BitVec 16) : Statement (.trap imm) := ⟨rfl, rfl, rfl⟩
theorem kget (d : RegNo) (k : KReg) : Statement (.kget d k) := ⟨rfl, rfl, rfl⟩
theorem kputFpcsr (a : RegNo) : Statement (.kputFpcsr a) := ⟨rfl, rfl, rfl⟩
theorem kputFaultrec (a : RegNo) : Statement (.kputFaultrec a) := ⟨rfl, rfl, rfl⟩
theorem kputPrio (a : RegNo) : Statement (.kputPrio a) := ⟨rfl, rfl, rfl⟩
theorem kputWake (a : RegNo) : Statement (.kputWake a) := ⟨rfl, rfl, rfl⟩
theorem kputCarve (a : RegNo) : Statement (.kputCarve a) := ⟨rfl, rfl, rfl⟩
theorem add (d : RegNo) (w : Width) (a b : RegNo) : Statement (.add d w a b) := ⟨rfl, rfl, rfl⟩
theorem sub (d : RegNo) (w : Width) (a b : RegNo) : Statement (.sub d w a b) := ⟨rfl, rfl, rfl⟩
theorem and (d : RegNo) (w : Width) (a b : RegNo) : Statement (.and d w a b) := ⟨rfl, rfl, rfl⟩
theorem or (d : RegNo) (w : Width) (a b : RegNo) : Statement (.or d w a b) := ⟨rfl, rfl, rfl⟩
theorem xor (d : RegNo) (w : Width) (a b : RegNo) : Statement (.xor d w a b) := ⟨rfl, rfl, rfl⟩
theorem sll (d : RegNo) (w : Width) (a b : RegNo) : Statement (.sll d w a b) := ⟨rfl, rfl, rfl⟩
theorem srl (d : RegNo) (w : Width) (a b : RegNo) : Statement (.srl d w a b) := ⟨rfl, rfl, rfl⟩
theorem sra (d : RegNo) (w : Width) (a b : RegNo) : Statement (.sra d w a b) := ⟨rfl, rfl, rfl⟩
theorem slt (d : RegNo) (w : Width) (a b : RegNo) : Statement (.slt d w a b) := ⟨rfl, rfl, rfl⟩
theorem sltu (d : RegNo) (w : Width) (a b : RegNo) : Statement (.sltu d w a b) := ⟨rfl, rfl, rfl⟩
theorem seq (d : RegNo) (w : Width) (a b : RegNo) : Statement (.seq d w a b) := ⟨rfl, rfl, rfl⟩
theorem sne (d : RegNo) (w : Width) (a b : RegNo) : Statement (.sne d w a b) := ⟨rfl, rfl, rfl⟩
theorem min (d : RegNo) (w : Width) (a b : RegNo) : Statement (.min d w a b) := ⟨rfl, rfl, rfl⟩
theorem max (d : RegNo) (w : Width) (a b : RegNo) : Statement (.max d w a b) := ⟨rfl, rfl, rfl⟩
theorem minu (d : RegNo) (w : Width) (a b : RegNo) : Statement (.minu d w a b) := ⟨rfl, rfl, rfl⟩
theorem maxu (d : RegNo) (w : Width) (a b : RegNo) : Statement (.maxu d w a b) := ⟨rfl, rfl, rfl⟩
theorem mul (d : RegNo) (w : Width) (a b : RegNo) : Statement (.mul d w a b) := ⟨rfl, rfl, rfl⟩
theorem mulh (d : RegNo) (w : Width) (a b : RegNo) : Statement (.mulh d w a b) := ⟨rfl, rfl, rfl⟩
theorem mulhu (d : RegNo) (w : Width) (a b : RegNo) : Statement (.mulhu d w a b) := ⟨rfl, rfl, rfl⟩
theorem div (d : RegNo) (w : Width) (a b : RegNo) : Statement (.div d w a b) := ⟨rfl, rfl, rfl⟩
theorem divu (d : RegNo) (w : Width) (a b : RegNo) : Statement (.divu d w a b) := ⟨rfl, rfl, rfl⟩
theorem rem (d : RegNo) (w : Width) (a b : RegNo) : Statement (.rem d w a b) := ⟨rfl, rfl, rfl⟩
theorem remu (d : RegNo) (w : Width) (a b : RegNo) : Statement (.remu d w a b) := ⟨rfl, rfl, rfl⟩
theorem andn (d : RegNo) (w : Width) (a b : RegNo) : Statement (.andn d w a b) := ⟨rfl, rfl, rfl⟩
theorem orn (d : RegNo) (w : Width) (a b : RegNo) : Statement (.orn d w a b) := ⟨rfl, rfl, rfl⟩
theorem rol (d : RegNo) (w : Width) (a b : RegNo) : Statement (.rol d w a b) := ⟨rfl, rfl, rfl⟩
theorem ror (d : RegNo) (w : Width) (a b : RegNo) : Statement (.ror d w a b) := ⟨rfl, rfl, rfl⟩
theorem clz (d : RegNo) (w : Width) (a : RegNo) : Statement (.clz d w a) := ⟨rfl, rfl, rfl⟩
theorem ctz (d : RegNo) (w : Width) (a : RegNo) : Statement (.ctz d w a) := ⟨rfl, rfl, rfl⟩
theorem popc (d : RegNo) (w : Width) (a : RegNo) : Statement (.popc d w a) := ⟨rfl, rfl, rfl⟩
theorem bswap (d : RegNo) (w : Width) (a : RegNo) : Statement (.bswap d w a) := ⟨rfl, rfl, rfl⟩
theorem pack (d a b : RegNo) : Statement (.pack d a b) := ⟨rfl, rfl, rfl⟩
theorem hi (d a : RegNo) : Statement (.hi d a) := ⟨rfl, rfl, rfl⟩
theorem sextb (d : RegNo) (w : Width) (a : RegNo) : Statement (.sextb d w a) := ⟨rfl, rfl, rfl⟩
theorem sexth (d : RegNo) (w : Width) (a : RegNo) : Statement (.sexth d w a) := ⟨rfl, rfl, rfl⟩
theorem addi (d : RegNo) (w : Width) (a : RegNo) (imm : BitVec 17) : Statement (.addi d w a imm) := ⟨rfl, rfl, rfl⟩
theorem andi (d : RegNo) (w : Width) (a : RegNo) (imm : BitVec 17) : Statement (.andi d w a imm) := ⟨rfl, rfl, rfl⟩
theorem ori (d : RegNo) (w : Width) (a : RegNo) (imm : BitVec 17) : Statement (.ori d w a imm) := ⟨rfl, rfl, rfl⟩
theorem xori (d : RegNo) (w : Width) (a : RegNo) (imm : BitVec 17) : Statement (.xori d w a imm) := ⟨rfl, rfl, rfl⟩
theorem slli (d : RegNo) (w : Width) (a : RegNo) (imm : BitVec 17) : Statement (.slli d w a imm) := ⟨rfl, rfl, rfl⟩
theorem srli (d : RegNo) (w : Width) (a : RegNo) (imm : BitVec 17) : Statement (.srli d w a imm) := ⟨rfl, rfl, rfl⟩
theorem srai (d : RegNo) (w : Width) (a : RegNo) (imm : BitVec 17) : Statement (.srai d w a imm) := ⟨rfl, rfl, rfl⟩
theorem slti (d : RegNo) (w : Width) (a : RegNo) (imm : BitVec 17) : Statement (.slti d w a imm) := ⟨rfl, rfl, rfl⟩
theorem sltui (d : RegNo) (w : Width) (a : RegNo) (imm : BitVec 17) : Statement (.sltui d w a imm) := ⟨rfl, rfl, rfl⟩
theorem seqi (d : RegNo) (w : Width) (a : RegNo) (imm : BitVec 17) : Statement (.seqi d w a imm) := ⟨rfl, rfl, rfl⟩
theorem snei (d : RegNo) (w : Width) (a : RegNo) (imm : BitVec 17) : Statement (.snei d w a imm) := ⟨rfl, rfl, rfl⟩
theorem mini (d : RegNo) (w : Width) (a : RegNo) (imm : BitVec 17) : Statement (.mini d w a imm) := ⟨rfl, rfl, rfl⟩
theorem maxi (d : RegNo) (w : Width) (a : RegNo) (imm : BitVec 17) : Statement (.maxi d w a imm) := ⟨rfl, rfl, rfl⟩
theorem minui (d : RegNo) (w : Width) (a : RegNo) (imm : BitVec 17) : Statement (.minui d w a imm) := ⟨rfl, rfl, rfl⟩
theorem maxui (d : RegNo) (w : Width) (a : RegNo) (imm : BitVec 17) : Statement (.maxui d w a imm) := ⟨rfl, rfl, rfl⟩
theorem muli (d : RegNo) (w : Width) (a : RegNo) (imm : BitVec 17) : Statement (.muli d w a imm) := ⟨rfl, rfl, rfl⟩
theorem roli (d : RegNo) (w : Width) (a : RegNo) (imm : BitVec 17) : Statement (.roli d w a imm) := ⟨rfl, rfl, rfl⟩
theorem rori (d : RegNo) (w : Width) (a : RegNo) (imm : BitVec 17) : Statement (.rori d w a imm) := ⟨rfl, rfl, rfl⟩
theorem li (d : RegNo) (imm : BitVec 54) : Statement (.li d imm) := ⟨rfl, rfl, rfl⟩
theorem lih (d : RegNo) (imm : BitVec 10) : Statement (.lih d imm) := ⟨rfl, rfl, rfl⟩
theorem beq (a b : RegNo) (t : BitVec 17) : Statement (.beq a b t) := ⟨rfl, rfl, rfl⟩
theorem bne (a b : RegNo) (t : BitVec 17) : Statement (.bne a b t) := ⟨rfl, rfl, rfl⟩
theorem blt (a b : RegNo) (t : BitVec 17) : Statement (.blt a b t) := ⟨rfl, rfl, rfl⟩
theorem bge (a b : RegNo) (t : BitVec 17) : Statement (.bge a b t) := ⟨rfl, rfl, rfl⟩
theorem bltu (a b : RegNo) (t : BitVec 17) : Statement (.bltu a b t) := ⟨rfl, rfl, rfl⟩
theorem bgeu (a b : RegNo) (t : BitVec 17) : Statement (.bgeu a b t) := ⟨rfl, rfl, rfl⟩
theorem btag (a : RegNo) (t : BitVec 17) : Statement (.btag a t) := ⟨rfl, rfl, rfl⟩
theorem bntag (a : RegNo) (t : BitVec 17) : Statement (.bntag a t) := ⟨rfl, rfl, rfl⟩
theorem jmp (t : BitVec 54) : Statement (.jmp t) := ⟨rfl, rfl, rfl⟩
theorem call (d : RegNo) (t : BitVec 54) : Statement (.call d t) := ⟨rfl, rfl, rfl⟩
theorem jr (a : RegNo) : Statement (.jr a) := ⟨rfl, rfl, rfl⟩
theorem callr (d a : RegNo) : Statement (.callr d a) := ⟨rfl, rfl, rfl⟩
theorem cgetaddr (d a : RegNo) : Statement (.cgetaddr d a) := ⟨rfl, rfl, rfl⟩
theorem cgetbase (d a : RegNo) : Statement (.cgetbase d a) := ⟨rfl, rfl, rfl⟩
theorem cgettop (d a : RegNo) : Statement (.cgettop d a) := ⟨rfl, rfl, rfl⟩
theorem cgetlen (d a : RegNo) : Statement (.cgetlen d a) := ⟨rfl, rfl, rfl⟩
theorem cgetperm (d a : RegNo) : Statement (.cgetperm d a) := ⟨rfl, rfl, rfl⟩
theorem cgettag (d a : RegNo) : Statement (.cgettag d a) := ⟨rfl, rfl, rfl⟩
theorem csetaddr (d a b : RegNo) : Statement (.csetaddr d a b) := ⟨rfl, rfl, rfl⟩
theorem cinc (d a b : RegNo) : Statement (.cinc d a b) := ⟨rfl, rfl, rfl⟩
theorem csetbnd (d a b : RegNo) : Statement (.csetbnd d a b) := ⟨rfl, rfl, rfl⟩
theorem csetbndx (d a b : RegNo) : Statement (.csetbndx d a b) := ⟨rfl, rfl, rfl⟩
theorem candperm (d a b : RegNo) : Statement (.candperm d a b) := ⟨rfl, rfl, rfl⟩
theorem cseal (d a : RegNo) : Statement (.cseal d a) := ⟨rfl, rfl, rfl⟩
theorem cunseal (d a b : RegNo) : Statement (.cunseal d a b) := ⟨rfl, rfl, rfl⟩
theorem cclrtag (d a : RegNo) : Statement (.cclrtag d a) := ⟨rfl, rfl, rfl⟩
theorem cmove (d a : RegNo) : Statement (.cmove d a) := ⟨rfl, rfl, rfl⟩
theorem ctestsub (d a b : RegNo) : Statement (.ctestsub d a b) := ⟨rfl, rfl, rfl⟩
theorem cinci (d a : RegNo) (imm : BitVec 17) : Statement (.cinci d a imm) := ⟨rfl, rfl, rfl⟩
theorem csetbndi (d a : RegNo) (imm : BitVec 17) : Statement (.csetbndi d a imm) := ⟨rfl, rfl, rfl⟩
theorem candpermi (d a : RegNo) (imm : BitVec 14) : Statement (.candpermi d a imm) := ⟨rfl, rfl, rfl⟩
theorem fadd (d : RegNo) (t : FFmt) (a b : RegNo) : Statement (.fadd d t a b) := ⟨rfl, rfl, rfl⟩
theorem fsub (d : RegNo) (t : FFmt) (a b : RegNo) : Statement (.fsub d t a b) := ⟨rfl, rfl, rfl⟩
theorem fmul (d : RegNo) (t : FFmt) (a b : RegNo) : Statement (.fmul d t a b) := ⟨rfl, rfl, rfl⟩
theorem fdiv (d : RegNo) (t : FFmt) (a b : RegNo) : Statement (.fdiv d t a b) := ⟨rfl, rfl, rfl⟩
theorem fsqrt (d : RegNo) (t : FFmt) (a : RegNo) : Statement (.fsqrt d t a) := ⟨rfl, rfl, rfl⟩
theorem fmin (d : RegNo) (t : FFmt) (a b : RegNo) : Statement (.fmin d t a b) := ⟨rfl, rfl, rfl⟩
theorem fmax (d : RegNo) (t : FFmt) (a b : RegNo) : Statement (.fmax d t a b) := ⟨rfl, rfl, rfl⟩
theorem fsgnj (d : RegNo) (t : FFmt) (a b : RegNo) : Statement (.fsgnj d t a b) := ⟨rfl, rfl, rfl⟩
theorem fsgnjn (d : RegNo) (t : FFmt) (a b : RegNo) : Statement (.fsgnjn d t a b) := ⟨rfl, rfl, rfl⟩
theorem fsgnjx (d : RegNo) (t : FFmt) (a b : RegNo) : Statement (.fsgnjx d t a b) := ⟨rfl, rfl, rfl⟩
theorem feq (d : RegNo) (t : FFmt) (a b : RegNo) : Statement (.feq d t a b) := ⟨rfl, rfl, rfl⟩
theorem flt (d : RegNo) (t : FFmt) (a b : RegNo) : Statement (.flt d t a b) := ⟨rfl, rfl, rfl⟩
theorem fle (d : RegNo) (t : FFmt) (a b : RegNo) : Statement (.fle d t a b) := ⟨rfl, rfl, rfl⟩
theorem fclass (d : RegNo) (t : FFmt) (a : RegNo) : Statement (.fclass d t a) := ⟨rfl, rfl, rfl⟩
theorem fma (d : RegNo) (t : FFmt) (a b c : RegNo) : Statement (.fma d t a b c) := ⟨rfl, rfl, rfl⟩
theorem fms (d : RegNo) (t : FFmt) (a b c : RegNo) : Statement (.fms d t a b c) := ⟨rfl, rfl, rfl⟩
theorem fnma (d : RegNo) (t : FFmt) (a b c : RegNo) : Statement (.fnma d t a b c) := ⟨rfl, rfl, rfl⟩
theorem fnms (d : RegNo) (t : FFmt) (a b c : RegNo) : Statement (.fnms d t a b c) := ⟨rfl, rfl, rfl⟩
theorem fcvt (d : RegNo) (toF fr : Fmt) (rnd : Rnd) (a : RegNo) : Statement (.fcvt d toF fr rnd a) := ⟨rfl, rfl, rfl⟩
theorem spawn (a b c : RegNo) (x : Cx) : Statement (.spawn a b c x) := ⟨rfl, rfl, rfl⟩
theorem tstop (a b c : RegNo) (x : Cx) : Statement (.tstop a b c x) := ⟨rfl, rfl, rfl⟩
theorem tstopRetire (a b c : RegNo) (x : Cx) : Statement (.tstopRetire a b c x) := ⟨rfl, rfl, rfl⟩
theorem tstart (a b c : RegNo) (x : Cx) : Statement (.tstart a b c x) := ⟨rfl, rfl, rfl⟩
theorem tread (a b c : RegNo) (x : Cx) : Statement (.tread a b c x) := ⟨rfl, rfl, rfl⟩
theorem twrite (a b c : RegNo) (x : Cx) : Statement (.twrite a b c x) := ⟨rfl, rfl, rfl⟩
theorem tstat (a b c : RegNo) (x : Cx) : Statement (.tstat a b c x) := ⟨rfl, rfl, rfl⟩
theorem tstatCluster (a b c : RegNo) (x : Cx) : Statement (.tstatCluster a b c x) := ⟨rfl, rfl, rfl⟩
theorem agrant (a b c : RegNo) (x : Cx) : Statement (.agrant a b c x) := ⟨rfl, rfl, rfl⟩
theorem arevoke (a b c : RegNo) (x : Cx) : Statement (.arevoke a b c x) := ⟨rfl, rfl, rfl⟩
theorem sfreplay (a b c : RegNo) (x : Cx) : Statement (.sfreplay a b c x) := ⟨rfl, rfl, rfl⟩
theorem qpub (a b c : RegNo) (x : Cx) : Statement (.qpub a b c x) := ⟨rfl, rfl, rfl⟩
theorem ldB (d a : RegNo) (off : BitVec 17) (z : Bool) (acq : Option Scope) (h : Hint) : Statement (.ldB d a off z acq h) := ⟨rfl, rfl, rfl⟩
theorem ldH (d a : RegNo) (off : BitVec 17) (z : Bool) (acq : Option Scope) (h : Hint) : Statement (.ldH d a off z acq h) := ⟨rfl, rfl, rfl⟩
theorem ldW (d a : RegNo) (off : BitVec 17) (z : Bool) (acq : Option Scope) (h : Hint) : Statement (.ldW d a off z acq h) := ⟨rfl, rfl, rfl⟩
theorem ldD (d a : RegNo) (off : BitVec 17) (acq : Option Scope) (h : Hint) : Statement (.ldD d a off acq h) := ⟨rfl, rfl, rfl⟩
theorem ldQ (d a : RegNo) (off : BitVec 17) (acq : Option Scope) (h : Hint) : Statement (.ldQ d a off acq h) := ⟨rfl, rfl, rfl⟩
theorem stB (d a : RegNo) (off : BitVec 17) (rel : Option Scope) (h : Hint) : Statement (.stB d a off rel h) := ⟨rfl, rfl, rfl⟩
theorem stH (d a : RegNo) (off : BitVec 17) (rel : Option Scope) (h : Hint) : Statement (.stH d a off rel h) := ⟨rfl, rfl, rfl⟩
theorem stW (d a : RegNo) (off : BitVec 17) (rel : Option Scope) (h : Hint) : Statement (.stW d a off rel h) := ⟨rfl, rfl, rfl⟩
theorem stD (d a : RegNo) (off : BitVec 17) (rel : Option Scope) (h : Hint) : Statement (.stD d a off rel h) := ⟨rfl, rfl, rfl⟩
theorem stQ (d a : RegNo) (off : BitVec 17) (rel : Option Scope) (h : Hint) : Statement (.stQ d a off rel h) := ⟨rfl, rfl, rfl⟩
theorem amoAdd (w : AWidth) (d a b : RegNo) (o : Ord3) : Statement (.amoAdd w d a b o) := ⟨rfl, rfl, rfl⟩
theorem amoAnd (w : AWidth) (d a b : RegNo) (o : Ord3) : Statement (.amoAnd w d a b o) := ⟨rfl, rfl, rfl⟩
theorem amoOr (w : AWidth) (d a b : RegNo) (o : Ord3) : Statement (.amoOr w d a b o) := ⟨rfl, rfl, rfl⟩
theorem amoXor (w : AWidth) (d a b : RegNo) (o : Ord3) : Statement (.amoXor w d a b o) := ⟨rfl, rfl, rfl⟩
theorem amoSmin (w : AWidth) (d a b : RegNo) (o : Ord3) : Statement (.amoSmin w d a b o) := ⟨rfl, rfl, rfl⟩
theorem amoSmax (w : AWidth) (d a b : RegNo) (o : Ord3) : Statement (.amoSmax w d a b o) := ⟨rfl, rfl, rfl⟩
theorem amoUmin (w : AWidth) (d a b : RegNo) (o : Ord3) : Statement (.amoUmin w d a b o) := ⟨rfl, rfl, rfl⟩
theorem amoUmax (w : AWidth) (d a b : RegNo) (o : Ord3) : Statement (.amoUmax w d a b o) := ⟨rfl, rfl, rfl⟩
theorem amoSwap (w : AWidth) (d a b : RegNo) (o : Ord3) : Statement (.amoSwap w d a b o) := ⟨rfl, rfl, rfl⟩
theorem amoFadd (d a b : RegNo) (o : Ord3) : Statement (.amoFadd d a b o) := ⟨rfl, rfl, rfl⟩
theorem cas (w : AWidth) (d a b : RegNo) (o : Ord3) : Statement (.cas w d a b o) := ⟨rfl, rfl, rfl⟩
theorem lres (w : AWidth) (d a : RegNo) (sc : Scope) (acq : Bool) : Statement (.lres w d a sc acq) := ⟨rfl, rfl, rfl⟩
theorem scond (w : AWidth) (d a b : RegNo) (sc : Scope) (rel : Bool) : Statement (.scond w d a b sc rel) := ⟨rfl, rfl, rfl⟩
theorem fence (kinds : BitVec 4) (sc : Scope) : Statement (.fence kinds sc) := ⟨rfl, rfl, rfl⟩
theorem fenceRs : Statement (.fenceRs) := ⟨rfl, rfl, rfl⟩
theorem drain : Statement (.drain) := ⟨rfl, rfl, rfl⟩
theorem warm (d a : RegNo) (i : BitVec 3) : Statement (.warm d a i) := ⟨rfl, rfl, rfl⟩
theorem wdis (i : BitVec 3) : Statement (.wdis i) := ⟨rfl, rfl, rfl⟩
theorem sleep : Statement (.sleep) := ⟨rfl, rfl, rfl⟩
theorem waitge (a b : RegNo) (sc : Scope) : Statement (.waitge a b sc) := ⟨rfl, rfl, rfl⟩
theorem ccCln (a b c : RegNo) (x : Cx) : Statement (.ccCln a b c x) := ⟨rfl, rfl, rfl⟩
theorem ccFls (a b c : RegNo) (x : Cx) : Statement (.ccFls a b c x) := ⟨rfl, rfl, rfl⟩
theorem ccInv (a b c : RegNo) (x : Cx) : Statement (.ccInv a b c x) := ⟨rfl, rfl, rfl⟩
theorem ccPf (h : Hint) (a b c : RegNo) (x : Cx) : Statement (.ccPf h a b c x) := ⟨rfl, rfl, rfl⟩
theorem ccRsd (h : Hint) (a b c : RegNo) (x : Cx) : Statement (.ccRsd h a b c x) := ⟨rfl, rfl, rfl⟩
theorem dxNext (a b c : RegNo) (x : Cx) : Statement (.dxNext a b c x) := ⟨rfl, rfl, rfl⟩
theorem dxInvInvalidate (a b c : RegNo) (x : Cx) : Statement (.dxInvInvalidate a b c x) := ⟨rfl, rfl, rfl⟩
theorem dxInvWake (a b c : RegNo) (x : Cx) : Statement (.dxInvWake a b c x) := ⟨rfl, rfl, rfl⟩
theorem dxDone (a b c : RegNo) (x : Cx) : Statement (.dxDone a b c x) := ⟨rfl, rfl, rfl⟩
theorem xinv (a b c : RegNo) (x : Cx) : Statement (.xinv a b c x) := ⟨rfl, rfl, rfl⟩
theorem xprobe (a b c : RegNo) (x : Cx) : Statement (.xprobe a b c x) := ⟨rfl, rfl, rfl⟩
theorem pgdisc (a b c : RegNo) (x : Cx) : Statement (.pgdisc a b c x) := ⟨rfl, rfl, rfl⟩
theorem pgmig (a b c : RegNo) (x : Cx) : Statement (.pgmig a b c x) := ⟨rfl, rfl, rfl⟩
theorem cp1d (h : Hint) (d a b c : RegNo) (x : Cx) : Statement (.cp1d h d a b c x) := ⟨rfl, rfl, rfl⟩
theorem cp2d (h : Hint) (d a b c : RegNo) (x : Cx) : Statement (.cp2d h d a b c x) := ⟨rfl, rfl, rfl⟩
theorem cp3d (h : Hint) (d a b c : RegNo) (x : Cx) : Statement (.cp3d h d a b c x) := ⟨rfl, rfl, rfl⟩
theorem cpGat (h : Hint) (d a b c : RegNo) (x : Cx) : Statement (.cpGat h d a b c x) := ⟨rfl, rfl, rfl⟩
theorem cpFill (h : Hint) (d a b c : RegNo) (x : Cx) : Statement (.cpFill h d a b c x) := ⟨rfl, rfl, rfl⟩
theorem cpStat (a c : RegNo) (x : Cx) : Statement (.cpStat a c x) := ⟨rfl, rfl, rfl⟩
theorem cpResume (b c : RegNo) (x : Cx) : Statement (.cpResume b c x) := ⟨rfl, rfl, rfl⟩
theorem cpCancel (b c : RegNo) (x : Cx) : Statement (.cpCancel b c x) := ⟨rfl, rfl, rfl⟩
theorem snd (d a c : RegNo) (x : Cx) : Statement (.snd d a c x) := ⟨rfl, rfl, rfl⟩
theorem rcvBind (d a b c : RegNo) (x : Cx) : Statement (.rcvBind d a b c x) := ⟨rfl, rfl, rfl⟩
theorem rcvBindUnbind (d a b c : RegNo) (x : Cx) : Statement (.rcvBindUnbind d a b c x) := ⟨rfl, rfl, rfl⟩
theorem vAdd (f : Fmt) (d a b c : RegNo) (x : Cx) : Statement (.vAdd f d a b c x) := ⟨rfl, rfl, rfl⟩
theorem vSub (f : Fmt) (d a b c : RegNo) (x : Cx) : Statement (.vSub f d a b c x) := ⟨rfl, rfl, rfl⟩
theorem vMul (f : Fmt) (d a b c : RegNo) (x : Cx) : Statement (.vMul f d a b c x) := ⟨rfl, rfl, rfl⟩
theorem vDiv (f : Fmt) (d a b c : RegNo) (x : Cx) : Statement (.vDiv f d a b c x) := ⟨rfl, rfl, rfl⟩
theorem vMin (f : Fmt) (d a b c : RegNo) (x : Cx) : Statement (.vMin f d a b c x) := ⟨rfl, rfl, rfl⟩
theorem vMax (f : Fmt) (d a b c : RegNo) (x : Cx) : Statement (.vMax f d a b c x) := ⟨rfl, rfl, rfl⟩
theorem vFma (f : Fmt) (d a b c : RegNo) (x : Cx) : Statement (.vFma f d a b c x) := ⟨rfl, rfl, rfl⟩
theorem vAbs (f : Fmt) (d a b : RegNo) (x : Cx) : Statement (.vAbs f d a b x) := ⟨rfl, rfl, rfl⟩
theorem vNeg (f : Fmt) (d a b : RegNo) (x : Cx) : Statement (.vNeg f d a b x) := ⟨rfl, rfl, rfl⟩
theorem vSqrt (f : Fmt) (d a b : RegNo) (x : Cx) : Statement (.vSqrt f d a b x) := ⟨rfl, rfl, rfl⟩
theorem vAnd (f : Fmt) (d a b c : RegNo) (x : Cx) : Statement (.vAnd f d a b c x) := ⟨rfl, rfl, rfl⟩
theorem vOr (f : Fmt) (d a b c : RegNo) (x : Cx) : Statement (.vOr f d a b c x) := ⟨rfl, rfl, rfl⟩
theorem vXor (f : Fmt) (d a b c : RegNo) (x : Cx) : Statement (.vXor f d a b c x) := ⟨rfl, rfl, rfl⟩
theorem vShl (f : Fmt) (d a b c : RegNo) (x : Cx) : Statement (.vShl f d a b c x) := ⟨rfl, rfl, rfl⟩
theorem vShr (f : Fmt) (d a b c : RegNo) (x : Cx) : Statement (.vShr f d a b c x) := ⟨rfl, rfl, rfl⟩
theorem vCeq (f : Fmt) (d a b c : RegNo) (x : Cx) : Statement (.vCeq f d a b c x) := ⟨rfl, rfl, rfl⟩
theorem vClt (f : Fmt) (d a b c : RegNo) (x : Cx) : Statement (.vClt f d a b c x) := ⟨rfl, rfl, rfl⟩
theorem vCle (f : Fmt) (d a b c : RegNo) (x : Cx) : Statement (.vCle f d a b c x) := ⟨rfl, rfl, rfl⟩
theorem vSel (f : Fmt) (d a b c : RegNo) (x : Cx) : Statement (.vSel f d a b c x) := ⟨rfl, rfl, rfl⟩
theorem vCvt (toF fr : Fmt) (d a b : RegNo) (x : Cx) : Statement (.vCvt toF fr d a b x) := ⟨rfl, rfl, rfl⟩
theorem vRsum (f : Fmt) (d a b : RegNo) (x : Cx) : Statement (.vRsum f d a b x) := ⟨rfl, rfl, rfl⟩
theorem vRmax (f : Fmt) (d a b : RegNo) (x : Cx) : Statement (.vRmax f d a b x) := ⟨rfl, rfl, rfl⟩
theorem vRmin (f : Fmt) (d a b : RegNo) (x : Cx) : Statement (.vRmin f d a b x) := ⟨rfl, rfl, rfl⟩
theorem vBcast (f : Fmt) (d a b : RegNo) (x : Cx) : Statement (.vBcast f d a b x) := ⟨rfl, rfl, rfl⟩
theorem vGat (f : Fmt) (d a b c : RegNo) (x : Cx) : Statement (.vGat f d a b c x) := ⟨rfl, rfl, rfl⟩
theorem vSct (f : Fmt) (d a b c : RegNo) (x : Cx) : Statement (.vSct f d a b c x) := ⟨rfl, rfl, rfl⟩
theorem vSync (c : RegNo) (x : Cx) : Statement (.vSync c x) := ⟨rfl, rfl, rfl⟩
theorem mmaBf16 (acc ta tb : Bool) (d a b : RegNo) (x : Cx) : Statement (.mmaBf16 acc ta tb d a b x) := ⟨rfl, rfl, rfl⟩
theorem mmaF16 (acc ta tb : Bool) (d a b : RegNo) (x : Cx) : Statement (.mmaF16 acc ta tb d a b x) := ⟨rfl, rfl, rfl⟩
theorem mmaK8 (acc ta tb : Bool) (d a b : RegNo) (x : Cx) : Statement (.mmaK8 acc ta tb d a b x) := ⟨rfl, rfl, rfl⟩
theorem mmaI8 (acc ta tb : Bool) (d a b : RegNo) (x : Cx) : Statement (.mmaI8 acc ta tb d a b x) := ⟨rfl, rfl, rfl⟩
theorem mmaK8Bs (acc ta tb : Bool) (d a b c : RegNo) (x : Cx) : Statement (.mmaK8Bs acc ta tb d a b c x) := ⟨rfl, rfl, rfl⟩
theorem mzero (acc : Bool) (c : RegNo) (x : Cx) : Statement (.mzero acc c x) := ⟨rfl, rfl, rfl⟩
theorem mld (acc : Bool) (a c : RegNo) (x : Cx) : Statement (.mld acc a c x) := ⟨rfl, rfl, rfl⟩
theorem mst (acc : Bool) (a c : RegNo) (x : Cx) : Statement (.mst acc a c x) := ⟨rfl, rfl, rfl⟩
theorem mrd (acc : Bool) (d a : RegNo) (x : Cx) : Statement (.mrd acc d a x) := ⟨rfl, rfl, rfl⟩
theorem mdrain (f : Fmt) (acc : Bool) (d a b c : RegNo) (x : Cx) : Statement (.mdrain f acc d a b c x) := ⟨rfl, rfl, rfl⟩
theorem dtload (d a c : RegNo) (x : Cx) : Statement (.dtload d a c x) := ⟨rfl, rfl, rfl⟩
theorem mgCfg (d a b c : RegNo) (x : Cx) : Statement (.mgCfg d a b c x) := ⟨rfl, rfl, rfl⟩
theorem mgTbl (d a c : RegNo) (x : Cx) : Statement (.mgTbl d a c x) := ⟨rfl, rfl, rfl⟩
theorem mgInjU (d a c : RegNo) (x : Cx) : Statement (.mgInjU d a c x) := ⟨rfl, rfl, rfl⟩
theorem mgInjL (d a c : RegNo) (x : Cx) : Statement (.mgInjL d a c x) := ⟨rfl, rfl, rfl⟩
theorem mgGo (c : RegNo) (x : Cx) : Statement (.mgGo c x) := ⟨rfl, rfl, rfl⟩
theorem mgHalt (c : RegNo) (x : Cx) : Statement (.mgHalt c x) := ⟨rfl, rfl, rfl⟩
theorem mgStat (a c : RegNo) (x : Cx) : Statement (.mgStat a c x) := ⟨rfl, rfl, rfl⟩
theorem mgEj (d a c : RegNo) (x : Cx) : Statement (.mgEj d a c x) := ⟨rfl, rfl, rfl⟩
theorem hnew (a b c : RegNo) (x : Cx) : Statement (.hnew a b c x) := ⟨rfl, rfl, rfl⟩
theorem henter (a : RegNo) (x : Cx) : Statement (.henter a x) := ⟨rfl, rfl, rfl⟩
theorem hleave (x : Cx) : Statement (.hleave x) := ⟨rfl, rfl, rfl⟩
theorem hconfirm (a c : RegNo) (x : Cx) : Statement (.hconfirm a c x) := ⟨rfl, rfl, rfl⟩
theorem hconfirmX (a c : RegNo) (x : Cx) : Statement (.hconfirmX a c x) := ⟨rfl, rfl, rfl⟩
theorem hrefute (a c : RegNo) (x : Cx) : Statement (.hrefute a c x) := ⟨rfl, rfl, rfl⟩
theorem hstat (a b c : RegNo) (x : Cx) : Statement (.hstat a b c x) := ⟨rfl, rfl, rfl⟩
theorem barExp (d c : RegNo) (x : Cx) : Statement (.barExp d c x) := ⟨rfl, rfl, rfl⟩
theorem barExpFree (d c : RegNo) (x : Cx) : Statement (.barExpFree d c x) := ⟨rfl, rfl, rfl⟩
theorem barArr (d c : RegNo) (x : Cx) : Statement (.barArr d c x) := ⟨rfl, rfl, rfl⟩
theorem redCfg (d a b c : RegNo) (x : Cx) : Statement (.redCfg d a b c x) := ⟨rfl, rfl, rfl⟩
theorem redCfgFree (d a b c : RegNo) (x : Cx) : Statement (.redCfgFree d a b c x) := ⟨rfl, rfl, rfl⟩
theorem redSend (d a c : RegNo) (x : Cx) : Statement (.redSend d a c x) := ⟨rfl, rfl, rfl⟩
theorem redStat (d a c : RegNo) (x : Cx) : Statement (.redStat d a c x) := ⟨rfl, rfl, rfl⟩
theorem moduleReset : Statement (.moduleReset) := ⟨rfl, rfl, rfl⟩
theorem moduleBoot (x : BootArgs) : Statement (.moduleBoot x) := ⟨rfl, rfl, rfl⟩
theorem linkTraining (port : Option Nat) (up : BitVec 36) (peers : List (Nat × BitVec 36)) : Statement (.linkTraining port up peers) := ⟨rfl, rfl, rfl⟩
theorem loadReply (req : Nat) (ext : ExtReply) : Statement (.loadReply req ext) := ⟨rfl, rfl, rfl⟩
theorem storeAck (req : Nat) : Statement (.storeAck req) := ⟨rfl, rfl, rfl⟩
theorem storeFaultArrival (req : Nat) (ext : ExtReply) : Statement (.storeFaultArrival req ext) := ⟨rfl, rfl, rfl⟩
theorem faultRecordWrite (tid : Nat) : Statement (.faultRecordWrite tid) := ⟨rfl, rfl, rfl⟩
theorem cellWriteFailure (i : Nat) : Statement (.cellWriteFailure i) := ⟨rfl, rfl, rfl⟩
theorem contextDisplace (core : Nat) (pos : Nat) : Statement (.contextDisplace core pos) := ⟨rfl, rfl, rfl⟩
theorem exitComplete (tid : Nat) : Statement (.exitComplete tid) := ⟨rfl, rfl, rfl⟩
theorem drainComplete (tid : Nat) : Statement (.drainComplete tid) := ⟨rfl, rfl, rfl⟩
theorem fenceRsComplete (tid : Nat) : Statement (.fenceRsComplete tid) := ⟨rfl, rfl, rfl⟩
theorem watchArmReply (tid : Nat) (ext : ExtReply) : Statement (.watchArmReply tid ext) := ⟨rfl, rfl, rfl⟩
theorem wdisReply (tid : Nat) : Statement (.wdisReply tid) := ⟨rfl, rfl, rfl⟩
theorem watchFire (f : FireSrc) : Statement (.watchFire f) := ⟨rfl, rfl, rfl⟩
theorem sleepWake (tid : Nat) : Statement (.sleepWake tid) := ⟨rfl, rfl, rfl⟩
theorem waitgeRecheck (tid : Nat) (ext : ExtReply) : Statement (.waitgeRecheck tid ext) := ⟨rfl, rfl, rfl⟩
theorem lresHoldExpiry (tid : Nat) : Statement (.lresHoldExpiry tid) := ⟨rfl, rfl, rfl⟩
theorem windowStoreApply (w : WinReq) : Statement (.windowStoreApply w) := ⟨rfl, rfl, rfl⟩
theorem windowLoadServe (w : WinReq) : Statement (.windowLoadServe w) := ⟨rfl, rfl, rfl⟩
theorem coreQuarantine (core : Nat) : Statement (.coreQuarantine core) := ⟨rfl, rfl, rfl⟩
theorem launchQueueWatch (q : Nat) : Statement (.launchQueueWatch q) := ⟨rfl, rfl, rfl⟩
theorem deviceQueueMirrorRestore (q : Nat) : Statement (.deviceQueueMirrorRestore q) := ⟨rfl, rfl, rfl⟩
theorem packetAccept (q : Nat) : Statement (.packetAccept q) := ⟨rfl, rfl, rfl⟩
theorem basketWaitMet (q : Nat) : Statement (.basketWaitMet q) := ⟨rfl, rfl, rfl⟩
theorem admissionChoice (die : Nat) : Statement (.admissionChoice die) := ⟨rfl, rfl, rfl⟩
theorem loadPreempt (load : Nat) : Statement (.loadPreempt load) := ⟨rfl, rfl, rfl⟩
theorem basketComplete (basket : Nat) : Statement (.basketComplete basket) := ⟨rfl, rfl, rfl⟩
theorem homeReadRequest (req : Nat) : Statement (.homeReadRequest req) := ⟨rfl, rfl, rfl⟩
theorem homeStoreRequest (req : Nat) : Statement (.homeStoreRequest req) := ⟨rfl, rfl, rfl⟩
theorem homeAtomic (req : Nat) : Statement (.homeAtomic req) := ⟨rfl, rfl, rfl⟩
theorem unitMerge (cluster : Nat) (part : Nat) (base : Nat) : Statement (.unitMerge cluster part base) := ⟨rfl, rfl, rfl⟩
theorem probeArrival (i : Nat) : Statement (.probeArrival i) := ⟨rfl, rfl, rfl⟩
theorem ticketRetire (cluster : Nat) (ticket : Nat) : Statement (.ticketRetire cluster ticket) := ⟨rfl, rfl, rfl⟩
theorem requestRetry (req : Nat) : Statement (.requestRetry req) := ⟨rfl, rfl, rfl⟩
theorem faultQueueRecord (part : Nat) : Statement (.faultQueueRecord part) := ⟨rfl, rfl, rfl⟩
theorem pageResponseRead (part : Nat) : Statement (.pageResponseRead part) := ⟨rfl, rfl, rfl⟩
theorem pageRequestAnswer (part : Nat) : Statement (.pageRequestAnswer part) := ⟨rfl, rfl, rfl⟩
theorem pageRequestLimit (cluster : Nat) (id : Nat) : Statement (.pageRequestLimit cluster id) := ⟨rfl, rfl, rfl⟩
theorem migrationHoldExpiry (req : Nat) : Statement (.migrationHoldExpiry req) := ⟨rfl, rfl, rfl⟩
theorem copyChunkDone (core slot chunk : Nat) : Statement (.copyChunkDone core slot chunk) := ⟨rfl, rfl, rfl⟩
theorem copyTransferEnd (core slot : Nat) : Statement (.copyTransferEnd core slot) := ⟨rfl, rfl, rfl⟩
theorem zeroingFill (z : ZeroTarget) : Statement (.zeroingFill z) := ⟨rfl, rfl, rfl⟩
theorem messageDelivery (m : MsgSrc) : Statement (.messageDelivery m) := ⟨rfl, rfl, rfl⟩
theorem messageRetry (core i : Nat) : Statement (.messageRetry core i) := ⟨rfl, rfl, rfl⟩
theorem vectorOpStart (quad : Nat) (matrix : Bool) : Statement (.vectorOpStart quad matrix) := ⟨rfl, rfl, rfl⟩
theorem streamResume (core : Nat) : Statement (.streamResume core) := ⟨rfl, rfl, rfl⟩
theorem vectorOpComplete (core i : Nat) : Statement (.vectorOpComplete core i) := ⟨rfl, rfl, rfl⟩
theorem mmaWaitCheck (core : Nat) : Statement (.mmaWaitCheck core) := ⟨rfl, rfl, rfl⟩
theorem matrixOpComplete (core i : Nat) : Statement (.matrixOpComplete core i) := ⟨rfl, rfl, rfl⟩
theorem halfStep (ring : Nat) : Statement (.halfStep ring) := ⟨rfl, rfl, rfl⟩
theorem heldEncounterFire (ring pos : Nat) : Statement (.heldEncounterFire ring pos) := ⟨rfl, rfl, rfl⟩
theorem encounterHoldExpiry (ring pos : Nat) : Statement (.encounterHoldExpiry ring pos) := ⟨rfl, rfl, rfl⟩
theorem anyHomeAdd (ring : Nat) : Statement (.anyHomeAdd ring) := ⟨rfl, rfl, rfl⟩
theorem sessionComplete (ring : Nat) : Statement (.sessionComplete ring) := ⟨rfl, rfl, rfl⟩
theorem versionLineGrant (cluster part : Nat) : Statement (.versionLineGrant cluster part) := ⟨rfl, rfl, rfl⟩
theorem versionHoldExpiry (req : Nat) : Statement (.versionHoldExpiry req) := ⟨rfl, rfl, rfl⟩
theorem barrierPhaseComplete (cluster bar : Nat) : Statement (.barrierPhaseComplete cluster bar) := ⟨rfl, rfl, rfl⟩
theorem roundEnd (cluster tree : Nat) : Statement (.roundEnd cluster tree) := ⟨rfl, rfl, rfl⟩
theorem roundTimeout (cluster tree : Nat) : Statement (.roundTimeout cluster tree) := ⟨rfl, rfl, rfl⟩
theorem atsTranslationCompletion (part page : Nat) (res : AtsResult) : Statement (.atsTranslationCompletion part page res) := ⟨rfl, rfl, rfl⟩
theorem atsCompletionTimeout (part page : Nat) : Statement (.atsCompletionTimeout part page) := ⟨rfl, rfl, rfl⟩
theorem priResponse (part page : Nat) (res : PriResult) : Statement (.priResponse part page res) := ⟨rfl, rfl, rfl⟩
theorem priGroupTimeout (part page : Nat) : Statement (.priGroupTimeout part page) := ⟨rfl, rfl, rfl⟩
theorem atsInvalidateRequest (part page pages : Nat) : Statement (.atsInvalidateRequest part page pages) := ⟨rfl, rfl, rfl⟩
theorem pcieReadCompletion (req : Nat) (res : PcieResult) : Statement (.pcieReadCompletion req res) := ⟨rfl, rfl, rfl⟩
theorem hostSnoop (hpa : Nat) (write : Option Nat) : Statement (.hostSnoop hpa write) := ⟨rfl, rfl, rfl⟩
theorem cxlMemHostAccess (part hpa : Nat) (n : Nat) (write : Option Nat) : Statement (.cxlMemHostAccess part hpa n write) := ⟨rfl, rfl, rfl⟩
theorem hostWarmRestart : Statement (.hostWarmRestart) := ⟨rfl, rfl, rfl⟩
theorem functionLevelReset (fn : Nat) : Statement (.functionLevelReset fn) := ⟨rfl, rfl, rfl⟩
theorem linkCountChange (link : Nat) (up : Bool) (chip : Option Nat) : Statement (.linkCountChange link up chip) := ⟨rfl, rfl, rfl⟩
theorem linkReplyTimeout (req : Nat) : Statement (.linkReplyTimeout req) := ⟨rfl, rfl, rfl⟩
theorem peerAccess (p : PeerReq) : Statement (.peerAccess p) := ⟨rfl, rfl, rfl⟩
theorem peerUnreachable (chip : Nat) : Statement (.peerUnreachable chip) := ⟨rfl, rfl, rfl⟩
theorem partitionSetup (m : Mail) (p : PartArgs) : Statement (.partitionSetup m p) := ⟨rfl, rfl, rfl⟩
theorem partitionTeardown (m : Mail) (part : Nat) : Statement (.partitionTeardown m part) := ⟨rfl, rfl, rfl⟩
theorem registerHostQueue (m : Mail) (addr : Nat) : Statement (.registerHostQueue m addr) := ⟨rfl, rfl, rfl⟩
theorem latencyTolerance (m : Mail) (us : BitVec 32) : Statement (.latencyTolerance m us) := ⟨rfl, rfl, rfl⟩
theorem attest (m : Mail) (nonce : BitVec 256) (addr : Nat) : Statement (.attest m nonce addr) := ⟨rfl, rfl, rfl⟩
theorem readJournal (m : Mail) (first : Nat) : Statement (.readJournal m first) := ⟨rfl, rfl, rfl⟩
theorem resetCore (m : Mail) (core : Nat) (pass : Bool) : Statement (.resetCore m core pass) := ⟨rfl, rfl, rfl⟩
theorem eventRing (m : Mail) (base : Nat) (lslots : Nat) : Statement (.eventRing m base lslots) := ⟨rfl, rfl, rfl⟩
theorem loadImage (m : Mail) (img : Nat) (raise : Bool) : Statement (.loadImage m img raise) := ⟨rfl, rfl, rfl⟩
theorem parkSize (m : Mail) (first count size : Nat) : Statement (.parkSize m first count size) := ⟨rfl, rfl, rfl⟩
theorem softErrorReport (die : Nat) (count : Nat) : Statement (.softErrorReport die count) := ⟨rfl, rfl, rfl⟩
theorem powerStateEntry : Statement (.powerStateEntry) := ⟨rfl, rfl, rfl⟩
theorem powerWake (src : WakeSrc) : Statement (.powerWake src) := ⟨rfl, rfl, rfl⟩
theorem registerWrite (fn off : Nat) (v : Word) : Statement (.registerWrite fn off v) := ⟨rfl, rfl, rfl⟩
theorem hostLinkUp : Statement (.hostLinkUp) := ⟨rfl, rfl, rfl⟩
theorem msiXIntervalExpiry (part : Nat) : Statement (.msiXIntervalExpiry part) := ⟨rfl, rfl, rfl⟩
theorem linkLevelRetry (req : Nat) (recovered : Bool) : Statement (.linkLevelRetry req recovered) := ⟨rfl, rfl, rfl⟩

end Sys2Proof.Laws.Canon
end

