-- ==== Sys2Proof/Tests/Slice0.lean ====
section
/-!
SUPPORT. Sys2Proof/Tests/Slice0.lean: own tests. What a word decodes to is written out from the tables of 02 R44 to R62, field
by field; what an instruction leaves is taken from the spec's worked examples or worked out by hand from its rules.
-/
set_option Elab.async false -- one test at a time: each waits for the kernel and holds a thread while it waits
namespace Sys2Proof.Tests
open Sys2Proof Sys2Proof.Machine

/-! ## Small states -/

/-- Registers c1, c2, … hold the list; c0 and the rest are zero. -/
def regsOfList (l : List Reg) : List Reg := Reg.zero :: l ++ List.replicate (31 - l.length) Reg.zero

/-- A line whose instructions are all `nop` (02 R66, `.align`): n = 31. -/
def nopLine : LineCopy := ⟨0x10000, leBytes 2 0xF800 ++ zeroBytes 62⟩

/-- A running thread at instruction 1 of a line it holds, with these registers. -/
def th (l : List Reg) : Thread :=
  { Thread.blank with state := .running, tier := .resident, pcc := rootCap.withCursor 0x10002, regs := regsOfList l, line := some nopLine }

/-- The module after reset with this thread in position 0 of core 0. -/
def st (t : Thread) : State :=
  { State.reset with cores := [(0, { Core.reset with threads := [(0, t)], resident := [some 0, none, none, none] })] }

/-- A number in a register. -/
def num (n : Nat) : Reg := Reg.ofNat n

/-- The root capability with its cursor at `a`. -/
def cap (a : Word) : Reg := rootCap.withCursor a

/-- The TCM window of core 0 and the scratchpad window of cluster 0, by chip 0x1FF. -/
def tcm (off : Nat) : Word := BitVec.ofNat 64 (0xBFE0000000000000 + off)
def scratch (off : Nat) : Word := BitVec.ofNat 64 (0xFFE0000000000000 + off)

/-- The thread after one instruction. -/
def after (i : Instr) (t : Thread) : Option Thread :=
  match exec i (st t) with
  | .next s => s.thread? 0
  | _ => none

/-- A register after one instruction of a thread with these registers. -/
def result (i : Instr) (l : List Reg) (r : RegNo) : Option Reg := (after i (th l)).map (fun t => t.reg r)

/-- The cause, address and kind of the fault that an instruction takes. -/
def faultOf (i : Instr) (l : List Reg) : Option (Byte × Word × AKind) := ((after i (th l)).bind Thread.fault).map (fun f => (f.cause, f.addr, f.kind))

/-! ## Ill-formed terms are refused (02 R50, R57, R60, R62; 12 R319; 13 R342, R345) -/

theorem test_ill_shifts : (Instr.slli 1 .d 2 64).wellFormed = false ∧ (Instr.srli 1 .w 2 32).wellFormed = false ∧
    (Instr.srai 1 .wz 2 32).wellFormed = false ∧ (Instr.roli 1 .d 2 (-1)).wellFormed = false ∧ (Instr.rori 1 .w 2 63).wellFormed = false := by decide

theorem test_ill_fcvt : (Instr.fcvt 1 .f32 .f32 .rne 2).wellFormed = false ∧ (Instr.fcvt 1 .i32 .i64 .rne 2).wellFormed = false ∧
    (Instr.fcvt 1 .k8 .f32 .rne 2).wellFormed = false ∧ (Instr.fcvt 1 .f32 .i8 .rne 2).wellFormed = false := by decide

theorem test_ill_amo : ∀ o : Ord3, (Instr.amoAdd .q 1 2 3 o).wellFormed = false ∧ (Instr.amoAnd .q 1 2 3 o).wellFormed = false ∧
    (Instr.amoOr .q 1 2 3 o).wellFormed = false ∧ (Instr.amoXor .q 1 2 3 o).wellFormed = false ∧ (Instr.amoSmin .q 1 2 3 o).wellFormed = false ∧
    (Instr.amoSmax .q 1 2 3 o).wellFormed = false ∧ (Instr.amoUmin .q 1 2 3 o).wellFormed = false ∧ (Instr.amoUmax .q 1 2 3 o).wellFormed = false :=
  fun _ => ⟨rfl, rfl, rfl, rfl, rfl, rfl, rfl, rfl⟩

theorem test_ill_fence : ∀ sc : Scope, (Instr.fence 0 sc).wellFormed = false := fun _ => rfl

theorem test_ill_vector : ∀ x : Cx, (Instr.vAdd .k8 1 2 3 4 x).wellFormed = false ∧ (Instr.vSub .f64 1 2 3 4 x).wellFormed = false ∧
    (Instr.vMul .k8 1 2 3 4 x).wellFormed = false ∧ (Instr.vDiv .i8 1 2 3 4 x).wellFormed = false ∧ (Instr.vMin .f64 1 2 3 4 x).wellFormed = false ∧
    (Instr.vMax .k8 1 2 3 4 x).wellFormed = false ∧ (Instr.vFma .i32 1 2 3 4 x).wellFormed = false ∧ (Instr.vAbs .i8z 1 2 3 x).wellFormed = false ∧
    (Instr.vNeg .i64z 1 2 3 x).wellFormed = false ∧ (Instr.vSqrt .i32 1 2 3 x).wellFormed = false ∧ (Instr.vAnd .f32 1 2 3 4 x).wellFormed = false ∧
    (Instr.vOr .f16 1 2 3 4 x).wellFormed = false ∧ (Instr.vXor .bf16 1 2 3 4 x).wellFormed = false ∧ (Instr.vShl .f32 1 2 3 4 x).wellFormed = false ∧
    (Instr.vShr .k8 1 2 3 4 x).wellFormed = false := fun _ => ⟨rfl, rfl, rfl, rfl, rfl, rfl, rfl, rfl, rfl, rfl, rfl, rfl, rfl, rfl, rfl⟩

theorem test_ill_vector_rest : ∀ x : Cx, (Instr.vCeq .k8 1 2 3 4 x).wellFormed = false ∧ (Instr.vClt .f64 1 2 3 4 x).wellFormed = false ∧
    (Instr.vCle .k8 1 2 3 4 x).wellFormed = false ∧ (Instr.vSel .f64 1 2 3 4 x).wellFormed = false ∧ (Instr.vCvt .f32 .f32 1 2 3 x).wellFormed = false ∧
    (Instr.vRsum .k8 1 2 3 x).wellFormed = false ∧ (Instr.vRmax .f64 1 2 3 x).wellFormed = false ∧ (Instr.vRmin .k8 1 2 3 x).wellFormed = false ∧
    (Instr.vBcast .f64 1 2 3 x).wellFormed = false ∧ (Instr.vGat .f64 1 2 3 4 x).wellFormed = false ∧ (Instr.vSct .f64 1 2 3 4 x).wellFormed = false :=
  fun _ => ⟨rfl, rfl, rfl, rfl, rfl, rfl, rfl, rfl, rfl, rfl, rfl⟩

theorem test_ill_matrix : ∀ x : Cx, (Instr.mmaK8Bs true true true 1 2 3 0 x).wellFormed = false ∧ (Instr.mmaK8Bs true true true 1 2 3 31 x).wellFormed = false ∧
    (Instr.mdrain .f64 true 1 2 3 4 x).wellFormed = false ∧ (Instr.mdrain .f32 true 0 2 3 4 x).wellFormed = false ∧
    (Instr.mdrain .f32 true 31 2 3 4 x).wellFormed = false := fun _ => ⟨rfl, rfl, rfl, rfl, rfl⟩

/-- What the decoder turns away (02 R50, R52 to R62): reserved majors and selectors, operand fields that are not zero, tail sizes. -/
theorem test_decode_refusals : ∀ e ∈ ([(0x0180, 0, .reserved), (0x4280, 0, .reserved), (0x4400, 0x001F, .reserved), (0x4403, 0, .reserved),
    (0x8481, 0x00400000, .reserved), (0x8480, 0x01400040, .reserved), (0x9110, 0x18002240, .reserved), (0x9908, 0x00C00000, .reserved),
    (0x99A0, 0x04000000, .reserved), (0xA000, 0x00000008, .reserved), (0x9400, 0x0886C900, .reserved), (0x9400, 0x0887C100, .reserved),
    (0xB410, 0x0886C240, .reserved), (0x0400, 0, .tailSize), (0x8400, 0, .tailSize), (0x4801, 0, .tailSize), (0x9AA4, 0, .reserved)] :
    List (Nat × Nat × DecodeError)), (match decodeAt (lineOfWord e.1 e.2.1) 1 with | .error x => decide (x = e.2.2) | .ok _ => false) = true := by
  decide +kernel

/-! ## Every constructor's word (02 R44 to R62) -/

theorem test_decode_thread : ∀ e ∈ ([
    (0x0000, 0x0, .nop),
    (0x0080, 0x0, .yield),
    (0x0081, 0x0, .exit),
    (0x4100, 0xbeef, .trap 0xBEEF),
    (0x4244, 0x0, .kget 17 .tid),
    (0x4244, 0x3, .kget 17 .hyp),
    (0x4244, 0xb, .kget 17 .cycle),
    (0x4201, 0x5004, .kputFpcsr 10),
    (0x4201, 0x5005, .kputFaultrec 10),
    (0x4201, 0x5008, .kputPrio 10),
    (0x4201, 0x5009, .kputWake 10),
    (0x4201, 0x500a, .kputCarve 10)] : List (Nat × Nat × Instr)), (decodeAt (lineOfWord e.1 e.2.1) 1).toOption = some e.2.2 := by decide +kernel

theorem test_decode_alu : ∀ e ∈ ([
    (0x4444, 0x5540, .add 17 .d 10 21),
    (0x4445, 0x5541, .sub 17 .w 10 21),
    (0x4446, 0x5542, .and 17 .wz 10 21),
    (0x4444, 0x5543, .or 17 .d 10 21),
    (0x4445, 0x5544, .xor 17 .w 10 21),
    (0x4446, 0x5545, .sll 17 .wz 10 21),
    (0x4444, 0x5546, .srl 17 .d 10 21),
    (0x4445, 0x5547, .sra 17 .w 10 21),
    (0x4446, 0x5548, .slt 17 .wz 10 21),
    (0x4444, 0x5549, .sltu 17 .d 10 21),
    (0x4445, 0x554a, .seq 17 .w 10 21),
    (0x4446, 0x554b, .sne 17 .wz 10 21),
    (0x4444, 0x554c, .min 17 .d 10 21),
    (0x4445, 0x554d, .max 17 .w 10 21),
    (0x4446, 0x554e, .minu 17 .wz 10 21),
    (0x4444, 0x554f, .maxu 17 .d 10 21),
    (0x4445, 0x5550, .mul 17 .w 10 21),
    (0x4446, 0x5551, .mulh 17 .wz 10 21),
    (0x4444, 0x5552, .mulhu 17 .d 10 21),
    (0x4445, 0x5553, .div 17 .w 10 21),
    (0x4446, 0x5554, .divu 17 .wz 10 21),
    (0x4444, 0x5555, .rem 17 .d 10 21),
    (0x4445, 0x5556, .remu 17 .w 10 21),
    (0x4446, 0x5557, .andn 17 .wz 10 21),
    (0x4444, 0x5558, .orn 17 .d 10 21),
    (0x4445, 0x5559, .rol 17 .w 10 21),
    (0x4446, 0x555a, .ror 17 .wz 10 21)] : List (Nat × Nat × Instr)), (decodeAt (lineOfWord e.1 e.2.1) 1).toOption = some e.2.2 := by decide +kernel

theorem test_decode_aluUnary : ∀ e ∈ ([
    (0x4444, 0x501b, .clz 17 .d 10),
    (0x4445, 0x501c, .ctz 17 .w 10),
    (0x4446, 0x501d, .popc 17 .wz 10),
    (0x4444, 0x501e, .bswap 17 .d 10),
    (0x4445, 0x5022, .sextb 17 .w 10),
    (0x4446, 0x5023, .sexth 17 .wz 10),
    (0x4444, 0x5560, .pack 17 10 21),
    (0x4444, 0x5021, .hi 17 10)] : List (Nat × Nat × Instr)), (decodeAt (lineOfWord e.1 e.2.1) 1).toOption = some e.2.2 := by decide +kernel

theorem test_decode_aluImm : ∀ e ∈ ([
    (0x84c4, 0x5001abcd, .addi 17 .d 10 0x1ABCD),
    (0x84c6, 0x5081abcd, .andi 17 .wz 10 0x1ABCD),
    (0x84c4, 0x50c1abcd, .ori 17 .d 10 0x1ABCD),
    (0x84c5, 0x5101abcd, .xori 17 .w 10 0x1ABCD),
    (0x84c6, 0x5201abcd, .slti 17 .wz 10 0x1ABCD),
    (0x84c4, 0x5241abcd, .sltui 17 .d 10 0x1ABCD),
    (0x84c5, 0x5281abcd, .seqi 17 .w 10 0x1ABCD),
    (0x84c6, 0x52c1abcd, .snei 17 .wz 10 0x1ABCD),
    (0x84c4, 0x5301abcd, .mini 17 .d 10 0x1ABCD),
    (0x84c5, 0x5341abcd, .maxi 17 .w 10 0x1ABCD),
    (0x84c6, 0x5381abcd, .minui 17 .wz 10 0x1ABCD),
    (0x84c4, 0x53c1abcd, .maxui 17 .d 10 0x1ABCD),
    (0x84c5, 0x5401abcd, .muli 17 .w 10 0x1ABCD),
    (0x84c6, 0x5140001f, .slli 17 .wz 10 31),
    (0x84c4, 0x5180003f, .srli 17 .d 10 63),
    (0x84c5, 0x51c0001f, .srai 17 .w 10 31),
    (0x84c5, 0x5640001f, .roli 17 .w 10 31),
    (0x84c6, 0x5680001f, .rori 17 .wz 10 31),
    (0xc544, 0x20123456789abc, .li 17 0x20123456789abc),
    (0xc545, 0x2a5, .lih 17 0x2A5)] : List (Nat × Nat × Instr)), (decodeAt (lineOfWord e.1 e.2.1) 1).toOption = some e.2.2 := by decide +kernel

theorem test_decode_branch : ∀ e ∈ ([
    (0x8800, 0x5541ffc3, .beq 10 21 0x1FFC3),
    (0x8801, 0x5541ffc3, .bne 10 21 0x1FFC3),
    (0x8802, 0x5541ffc3, .blt 10 21 0x1FFC3),
    (0x8803, 0x5541ffc3, .bge 10 21 0x1FFC3),
    (0x8880, 0x5541ffc3, .bltu 10 21 0x1FFC3),
    (0x8881, 0x5541ffc3, .bgeu 10 21 0x1FFC3),
    (0x8882, 0x5001ffc3, .btag 10 0x1FFC3),
    (0x8883, 0x5001ffc3, .bntag 10 0x1FFC3),
    (0xc900, 0x20123456789abc, .jmp 0x20123456789abc),
    (0xc945, 0x20123456789abc, .call 17 0x20123456789abc),
    (0x4980, 0x5000, .jr 10),
    (0x49c5, 0x5000, .callr 17 10)] : List (Nat × Nat × Instr)), (decodeAt (lineOfWord e.1 e.2.1) 1).toOption = some e.2.2 := by decide +kernel

theorem test_decode_cap : ∀ e ∈ ([
    (0x4c44, 0x5000, .cgetaddr 17 10),
    (0x4c44, 0x5001, .cgetbase 17 10),
    (0x4c44, 0x5002, .cgettop 17 10),
    (0x4c44, 0x5003, .cgetlen 17 10),
    (0x4c44, 0x5004, .cgetperm 17 10),
    (0x4c44, 0x5005, .cgettag 17 10),
    (0x4c44, 0x5546, .csetaddr 17 10 21),
    (0x4c44, 0x5547, .cinc 17 10 21),
    (0x4c44, 0x5548, .csetbnd 17 10 21),
    (0x4c44, 0x5549, .csetbndx 17 10 21),
    (0x4c44, 0x554a, .candperm 17 10 21),
    (0x4c44, 0x500b, .cseal 17 10),
    (0x4c44, 0x554c, .cunseal 17 10 21),
    (0x4c44, 0x500d, .cclrtag 17 10),
    (0x4c44, 0x500e, .cmove 17 10),
    (0x4c44, 0x554f, .ctestsub 17 10 21),
    (0x8cc4, 0x5001abcd, .cinci 17 10 0x1ABCD),
    (0x8cc4, 0x5041abcd, .csetbndi 17 10 0x1ABCD),
    (0x8cc4, 0x50802bcd, .candpermi 17 10 0x2BCD)] : List (Nat × Nat × Instr)), (decodeAt (lineOfWord e.1 e.2.1) 1).toOption = some e.2.2 := by decide +kernel

theorem test_decode_float : ∀ e ∈ ([
    (0x5044, 0x5540, .fadd 17 .f64 10 21),
    (0x5045, 0x5541, .fsub 17 .f32 10 21),
    (0x5046, 0x5542, .fmul 17 .bf16 10 21),
    (0x5047, 0x5543, .fdiv 17 .f16 10 21),
    (0x5044, 0x5004, .fsqrt 17 .f64 10),
    (0x5045, 0x5545, .fmin 17 .f32 10 21),
    (0x5046, 0x5546, .fmax 17 .bf16 10 21),
    (0x5047, 0x5547, .fsgnj 17 .f16 10 21),
    (0x5044, 0x5548, .fsgnjn 17 .f64 10 21),
    (0x5045, 0x5549, .fsgnjx 17 .f32 10 21),
    (0x5046, 0x554a, .feq 17 .bf16 10 21),
    (0x5047, 0x554b, .flt 17 .f16 10 21),
    (0x5044, 0x554c, .fle 17 .f64 10 21),
    (0x5045, 0x500d, .fclass 17 .f32 10),
    (0x90c4, 0x55580000, .fma 17 .f64 10 21 12),
    (0x90c5, 0x55580001, .fms 17 .f32 10 21 12),
    (0x90c6, 0x55580002, .fnma 17 .bf16 10 21 12),
    (0x90c7, 0x55580003, .fnms 17 .f16 10 21 12),
    (0x9144, 0x50014580, .fcvt 17 .i64z .bf16 .sr 10)] : List (Nat × Nat × Instr)), (decodeAt (lineOfWord e.1 e.2.1) 1).toOption = some e.2.2 := by decide +kernel

theorem test_decode_agent : ∀ e ∈ ([
    (0x9400, 0x55592000, .spawn 10 21 12 ⟨.dom, true⟩),
    (0x9400, 0x55592100, .tstop 10 21 12 ⟨.dom, true⟩),
    (0x9400, 0x55592200, .tstart 10 21 12 ⟨.dom, true⟩),
    (0x9400, 0x55592300, .tread 10 21 12 ⟨.dom, true⟩),
    (0x9400, 0x55592400, .twrite 10 21 12 ⟨.dom, true⟩),
    (0x9400, 0x55592500, .tstat 10 21 12 ⟨.dom, true⟩),
    (0x9400, 0x55592600, .agrant 10 21 12 ⟨.dom, true⟩),
    (0x9400, 0x55592700, .arevoke 10 21 12 ⟨.dom, true⟩),
    (0x9400, 0x55592800, .sfreplay 10 21 12 ⟨.dom, true⟩),
    (0xa800, 0x55592000, .qpub 10 21 12 ⟨.dom, true⟩)] : List (Nat × Nat × Instr)), (decodeAt (lineOfWord e.1 e.2.1) 1).toOption = some e.2.2 := by decide +kernel

theorem test_decode_memory : ∀ e ∈ ([
    (0x9844, 0x5701fff8, .ldB 17 10 0x1fff8 true (some .dom) .none),
    (0x98c5, 0x5701fff8, .ldH 17 10 0x1fff8 true (some .dom) .s),
    (0x9946, 0x5701fff8, .ldW 17 10 0x1fff8 true (some .dom) .k),
    (0x99c7, 0x5241fff8, .ldD 17 10 0x1fff8 (some .clu) .b),
    (0x9a47, 0x5241fff8, .ldQ 17 10 0x1fff8 (some .clu) .b),
    (0x9c44, 0x5341fff8, .stB 17 10 0x1fff8 (some .sys) .none),
    (0x9cc5, 0x5341fff8, .stH 17 10 0x1fff8 (some .sys) .s),
    (0x9d46, 0x5341fff8, .stW 17 10 0x1fff8 (some .sys) .k),
    (0x9dc7, 0x5341fff8, .stD 17 10 0x1fff8 (some .sys) .b),
    (0x9e44, 0x5341fff8, .stQ 17 10 0x1fff8 (some .sys) .none)] : List (Nat × Nat × Instr)), (decodeAt (lineOfWord e.1 e.2.1) 1).toOption = some e.2.2 := by decide +kernel

theorem test_decode_atomic : ∀ e ∈ ([
    (0xa044, 0x55413400, .amoAdd .w 17 10 21 ⟨.dom, true, true⟩),
    (0xa044, 0x55413620, .amoAnd .d 17 10 21 ⟨.dom, true, true⟩),
    (0xa044, 0x55413440, .amoOr .w 17 10 21 ⟨.dom, true, true⟩),
    (0xa044, 0x55413660, .amoXor .d 17 10 21 ⟨.dom, true, true⟩),
    (0xa044, 0x55413480, .amoSmin .w 17 10 21 ⟨.dom, true, true⟩),
    (0xa044, 0x554136a0, .amoSmax .d 17 10 21 ⟨.dom, true, true⟩),
    (0xa044, 0x554134c0, .amoUmin .w 17 10 21 ⟨.dom, true, true⟩),
    (0xa044, 0x554136e0, .amoUmax .d 17 10 21 ⟨.dom, true, true⟩),
    (0xa044, 0x55413900, .amoSwap .q 17 10 21 ⟨.dom, true, true⟩),
    (0xa044, 0x55409520, .amoFadd 17 10 21 ⟨.die, false, true⟩),
    (0xa0c4, 0x5540a800, .cas .q 17 10 21 ⟨.die, true, false⟩),
    (0xa144, 0x50016600, .lres .d 17 10 .sys true),
    (0xa1c4, 0x55401400, .scond .w 17 10 21 .core true),
    (0x6200, 0x4940, .fence 9 .sys),
    (0x6201, 0x0, .fenceRs),
    (0x6202, 0x0, .drain),
    (0x6444, 0x5007, .warm 17 10 7),
    (0x6401, 0x6, .wdis 6),
    (0x6402, 0x0, .sleep),
    (0x6480, 0x5542, .waitge 10 21 .die)] : List (Nat × Nat × Instr)), (decodeAt (lineOfWord e.1 e.2.1) 1).toOption = some e.2.2 := by decide +kernel

theorem test_decode_engine : ∀ e ∈ ([
    (0xaa00, 0x55592000, .ccCln 10 21 12 ⟨.dom, true⟩),
    (0xaa00, 0x55592100, .ccFls 10 21 12 ⟨.dom, true⟩),
    (0xaa00, 0x55592200, .ccInv 10 21 12 ⟨.dom, true⟩),
    (0xaa03, 0x55592300, .ccPf .b 10 21 12 ⟨.dom, true⟩),
    (0xaa02, 0x55592400, .ccRsd .k 10 21 12 ⟨.dom, true⟩),
    (0xaa80, 0x55592000, .dxNext 10 21 12 ⟨.dom, true⟩),
    (0xaa80, 0x55592100, .dxInvInvalidate 10 21 12 ⟨.dom, true⟩),
    (0xaa80, 0x55592200, .dxDone 10 21 12 ⟨.dom, true⟩),
    (0xac00, 0x55592000, .xinv 10 21 12 ⟨.dom, true⟩),
    (0xac00, 0x55592100, .xprobe 10 21 12 ⟨.dom, true⟩),
    (0xac00, 0x55592200, .pgdisc 10 21 12 ⟨.dom, true⟩),
    (0xac00, 0x55592300, .pgmig 10 21 12 ⟨.dom, true⟩),
    (0xb044, 0x55592000, .cp1d .none 17 10 21 12 ⟨.dom, true⟩),
    (0xb045, 0x55592100, .cp2d .s 17 10 21 12 ⟨.dom, true⟩),
    (0xb046, 0x55592200, .cp3d .k 17 10 21 12 ⟨.dom, true⟩),
    (0xb047, 0x55592300, .cpGat .b 17 10 21 12 ⟨.dom, true⟩),
    (0xb044, 0x55592400, .cpFill .none 17 10 21 12 ⟨.dom, true⟩),
    (0xb000, 0x50192800, .cpStat 10 12 ⟨.dom, true⟩),
    (0xb000, 0x5592900, .cpResume 21 12 ⟨.dom, true⟩),
    (0xb000, 0x5592a00, .cpCancel 21 12 ⟨.dom, true⟩),
    (0xb244, 0x50192000, .snd 17 10 12 ⟨.dom, true⟩),
    (0xb244, 0x55592100, .rcvBind 17 10 21 12 ⟨.dom, true⟩)] : List (Nat × Nat × Instr)), (decodeAt (lineOfWord e.1 e.2.1) 1).toOption = some e.2.2 := by decide +kernel

theorem test_decode_vector : ∀ e ∈ ([
    (0xb444, 0x555920a0, .vAdd .i64z 17 10 21 12 ⟨.dom, true⟩),
    (0xb444, 0x55592190, .vSub .i32z 17 10 21 12 ⟨.dom, true⟩),
    (0xb444, 0x55592210, .vMul .f32 17 10 21 12 ⟨.dom, true⟩),
    (0xb444, 0x55592320, .vDiv .bf16 17 10 21 12 ⟨.dom, true⟩),
    (0xb444, 0x55592430, .vMin .f16 17 10 21 12 ⟨.dom, true⟩),
    (0xb444, 0x55592550, .vMax .i8 17 10 21 12 ⟨.dom, true⟩),
    (0xb444, 0x55592610, .vFma .f32 17 10 21 12 ⟨.dom, true⟩),
    (0xb444, 0x55412760, .vAbs .i32 17 10 21 ⟨.dom, true⟩),
    (0xb444, 0x55412870, .vNeg .i64 17 10 21 ⟨.dom, true⟩),
    (0xb444, 0x55412930, .vSqrt .f16 17 10 21 ⟨.dom, true⟩),
    (0xb444, 0x55592a80, .vAnd .i8z 17 10 21 12 ⟨.dom, true⟩),
    (0xb444, 0x55592b90, .vOr .i32z 17 10 21 12 ⟨.dom, true⟩),
    (0xb444, 0x55592ca0, .vXor .i64z 17 10 21 12 ⟨.dom, true⟩),
    (0xb444, 0x55592d50, .vShl .i8 17 10 21 12 ⟨.dom, true⟩),
    (0xb444, 0x55592e60, .vShr .i32 17 10 21 12 ⟨.dom, true⟩),
    (0xb4c4, 0x55592010, .vCeq .f32 17 10 21 12 ⟨.dom, true⟩),
    (0xb4c4, 0x55592170, .vClt .i64 17 10 21 12 ⟨.dom, true⟩),
    (0xb4c4, 0x555922a0, .vCle .i64z 17 10 21 12 ⟨.dom, true⟩),
    (0xb4c4, 0x55592340, .vSel .k8 17 10 21 12 ⟨.dom, true⟩),
    (0xb544, 0x55412041, .vCvt .k8 .f32 17 10 21 ⟨.dom, true⟩),
    (0xb5c4, 0x55412030, .vRsum .f16 17 10 21 ⟨.dom, true⟩),
    (0xb5c4, 0x55412180, .vRmax .i8z 17 10 21 ⟨.dom, true⟩),
    (0xb5c4, 0x55412290, .vRmin .i32z 17 10 21 ⟨.dom, true⟩),
    (0xb644, 0x55412040, .vBcast .k8 17 10 21 ⟨.dom, true⟩),
    (0xb644, 0x55592170, .vGat .i64 17 10 21 12 ⟨.dom, true⟩),
    (0xb644, 0x55592230, .vSct .f16 17 10 21 12 ⟨.dom, true⟩),
    (0xb600, 0x192300, .vSync 12 ⟨.dom, true⟩)] : List (Nat × Nat × Instr)), (decodeAt (lineOfWord e.1 e.2.1) 1).toOption = some e.2.2 := by decide +kernel

theorem test_decode_matrix : ∀ e ∈ ([
    (0xb844, 0x55412000, .mmaBf16 false false false 17 10 21 ⟨.dom, true⟩),
    (0xb8c5, 0x55412001, .mmaF16 true true false 17 10 21 ⟨.dom, true⟩),
    (0xb946, 0x55412000, .mmaK8 false false true 17 10 21 ⟨.dom, true⟩),
    (0xb9c7, 0x55412001, .mmaI8 true true true 17 10 21 ⟨.dom, true⟩),
    (0xba46, 0x55592001, .mmaK8Bs true false true 17 10 21 12 ⟨.dom, true⟩),
    (0xbc00, 0x192001, .mzero true 12 ⟨.dom, true⟩),
    (0xbc00, 0x50192100, .mld false 10 12 ⟨.dom, true⟩),
    (0xbc00, 0x50192201, .mst true 10 12 ⟨.dom, true⟩),
    (0xbc44, 0x50012301, .mrd true 17 10 ⟨.dom, true⟩),
    (0xbc44, 0x55592441, .mdrain .k8 true 17 10 21 12 ⟨.dom, true⟩),
    (0xbc44, 0x50192500, .dtload 17 10 12 ⟨.dom, true⟩)] : List (Nat × Nat × Instr)), (decodeAt (lineOfWord e.1 e.2.1) 1).toOption = some e.2.2 := by decide +kernel

theorem test_decode_group : ∀ e ∈ ([
    (0xbd44, 0x55592000, .mgCfg 17 10 21 12 ⟨.dom, true⟩),
    (0xbd44, 0x50192100, .mgTbl 17 10 12 ⟨.dom, true⟩),
    (0xbd44, 0x50192200, .mgInjU 17 10 12 ⟨.dom, true⟩),
    (0xbd44, 0x50192300, .mgInjL 17 10 12 ⟨.dom, true⟩),
    (0xbd44, 0x50192700, .mgEj 17 10 12 ⟨.dom, true⟩),
    (0xbd00, 0x192400, .mgGo 12 ⟨.dom, true⟩),
    (0xbd00, 0x192500, .mgHalt 12 ⟨.dom, true⟩),
    (0xbd00, 0x50192600, .mgStat 10 12 ⟨.dom, true⟩),
    (0xbe00, 0x55592000, .hnew 10 21 12 ⟨.dom, true⟩),
    (0xbe00, 0x50012100, .henter 10 ⟨.dom, true⟩),
    (0xbe00, 0x12200, .hleave ⟨.dom, true⟩),
    (0xbe00, 0x50192300, .hconfirm 10 12 ⟨.dom, true⟩),
    (0xbe00, 0x50192400, .hconfirmX 10 12 ⟨.dom, true⟩),
    (0xbe00, 0x50192500, .hrefute 10 12 ⟨.dom, true⟩),
    (0xbe00, 0x55592600, .hstat 10 21 12 ⟨.dom, true⟩),
    (0xbf44, 0x192000, .barExp 17 12 ⟨.dom, true⟩),
    (0xbf44, 0x192100, .barArr 17 12 ⟨.dom, true⟩),
    (0xbf44, 0x55592200, .redCfg 17 10 21 12 ⟨.dom, true⟩),
    (0xbf44, 0x50192300, .redSend 17 10 12 ⟨.dom, true⟩),
    (0xbf44, 0x50192400, .redStat 17 10 12 ⟨.dom, true⟩)] : List (Nat × Nat × Instr)), (decodeAt (lineOfWord e.1 e.2.1) 1).toOption = some e.2.2 := by decide +kernel

/-- Words of the spec's own examples (02, 04 R127, 05 R145, 07, 08, 10 R286, 11 R301, R305, 12, 13 R343, 16). -/
theorem test_decode_examples : ∀ e ∈ ([(0x84A8, 0x5001FFFF, .addi 10 .d 10 (-1)), (0x8801, 0x50000003, .bne 10 0 3), (0x4421, 0x4240, .add 8 .w 8 9),
    (0x8C84, 0x08000004, .cinci 1 1 4), (0x4980, 0xF800, .jr 31), (0x9108, 0x18004240, .fcvt 2 .bf16 .f32 .rne 3),
    (0x9400, 0x0886E100, .tstop 1 2 3 ⟨.mod, true⟩), (0x9400, 0x0886C000, .spawn 1 2 3 ⟨.mod, false⟩), (0x9914, 0x1401FFF8, .ldW 5 2 (-8) true none .none),
    (0x99B8, 0x52C00020, .ldD 14 10 32 (some .mod) .none), (0xA00C, 0x21405600, .amoAdd .d 3 4 5 ⟨.clu, false, true⟩),
    (0xA08C, 0x2140E600, .cas .d 3 4 5 ⟨.mod, true, false⟩), (0xA10C, 0x2000C600, .lres .d 3 4 .mod false), (0x6480, 0x8C03, .waitge 17 16 .mod),
    (0x6401, 0x0003, .wdis 3), (0xAA00, 0x0886C100, .ccFls 1 2 3 ⟨.mod, false⟩), (0xAA02, 0x0886C300, .ccPf .k 1 2 3 ⟨.mod, false⟩),
    (0xAA80, 0x214CC000, .dxNext 4 5 6 ⟨.mod, false⟩), (0xB010, 0x0886E000, .cp1d .none 4 1 2 3 ⟨.mod, true⟩), (0xB000, 0x0254C900, .cpResume 9 10 ⟨.mod, false⟩),
    (0xB214, 0x31D0C100, .rcvBind 5 6 7 8 ⟨.mod, false⟩), (0xB210, 0x0806C000, .snd 4 1 3 ⟨.mod, false⟩), (0xB410, 0x0886C210, .vMul .f32 4 1 2 3 ⟨.mod, false⟩),
    (0xB600, 0x000EC300, .vSync 7 ⟨.mod, false⟩), (0xB824, 0x0880C000, .mmaBf16 false false false 9 1 2 ⟨.mod, false⟩),
    (0xBA25, 0x0898C001, .mmaK8Bs true true false 9 1 2 12 ⟨.mod, false⟩), (0xBF38, 0x7820C400, .redStat 14 15 16 ⟨.mod, false⟩)] :
    List (Nat × Nat × Instr)), (decodeAt (lineOfWord e.1 e.2.1) 1).toOption = some e.2.2 := by decide +kernel

/-- The line worked through at the end of 02: its nine instructions stand where R47 says. -/
def sum4 : List Byte :=
  [0x00, 0x48, 0xA0, 0x84, 0xA8, 0x84, 0x24, 0x99, 0x21, 0x44, 0x84, 0x8C, 0xA8, 0x84, 0x01, 0x88] ++
  [0x08, 0x44, 0x80, 0x49] ++ zeroBytes 15 ++ [0xF8, 0x03, 0x40, 0x03, 0x00, 0x00, 0x50, 0xFF, 0xFF, 0x01, 0x50, 0x04, 0x00] ++
  [0x00, 0x08, 0x40, 0x42, 0x00, 0x00, 0x00, 0x08, 0x04] ++ zeroBytes 7

theorem test_line_of_spec : lineOk sum4 = some 9 ∧ (List.range 9).map (fun k => (decodeAt sum4 (k + 1)).toOption) =
    [some (.addi 8 .d 0 0), some (.addi 10 .d 0 4), some (.ldW 9 1 0 false none .none), some (.add 8 .w 8 9), some (.cinci 1 1 4),
     some (.addi 10 .d 10 (-1)), some (.bne 10 0 3), some (.or 2 .d 8 0), some (.jr 31)] := by decide +kernel

/-- The fates of changed bytes (02): a header of 0x5000 has ten instructions, one of 0x4801 is refused, op 0x35 is reserved. -/
theorem test_line_fates : lineOk (lset sum4 1 0x50) = some 10 ∧ lineOk (lset sum4 0 0x01) = none ∧
    (decodeAt (lset sum4 1 0x50) 10).toOption = some .nop ∧
    (decodeAt (lset (lset sum4 6 0xA4) 7 0x9A) 3).toOption = none ∧ lineOk (lset (lset sum4 6 0xA4) 7 0x9A) = some 9 ∧
    lineOk (lset sum4 15 0x48) = some 9 ∧ (decodeAt (lset sum4 15 0x48) 7).toOption = none := by decide +kernel

/-! ## Integers (04 R118, R119), worked out by hand -/

theorem test_add : result (.add 3 .w 1 2) [num 0x7FFFFFFF, num 1] 3 = some (num 0xFFFFFFFF80000000) ∧
    result (.add 3 .wz 1 2) [num 0x7FFFFFFF, num 1] 3 = some (num 0x80000000) := by decide +kernel

theorem test_sub_wraps : result (.sub 1 .d 0 1) [num 1] 1 = some (num 0xFFFFFFFFFFFFFFFF) := by decide +kernel

theorem test_c0_stays_zero : result (.addi 0 .d 0 5) [] 0 = some Reg.zero := by decide +kernel

theorem test_shifts : result (.sra 3 .w 1 2) [num 0x80000000, num 36] 3 = some (num 0xFFFFFFFFF8000000) ∧
    result (.srl 3 .d 1 2) [num 0x8000000000000000, num 127] 3 = some (num 1) ∧
    result (.slli 3 .wz 1 31) [num 3] 3 = some (num 0x80000000) ∧ result (.rori 3 .w 1 4) [num 8] 3 = some (num 0xFFFFFFFF80000000) := by decide +kernel

theorem test_products : result (.mulh 3 .d 1 2) [num 0xFFFFFFFFFFFFFFFF, num 0xFFFFFFFFFFFFFFFF] 3 = some (num 0) ∧
    result (.mulhu 3 .d 1 2) [num 0xFFFFFFFFFFFFFFFF, num 0xFFFFFFFFFFFFFFFF] 3 = some (num 0xFFFFFFFFFFFFFFFE) ∧
    result (.mulhu 3 .w 1 2) [num 0xFFFFFFFF, num 0xFFFFFFFF] 3 = some (num 0xFFFFFFFFFFFFFFFE) := by decide +kernel

theorem test_divisions : result (.div 3 .d 1 2) [num 7, num 0] 3 = some (num 0xFFFFFFFFFFFFFFFF) ∧
    result (.rem 3 .d 1 2) [num 7, num 0] 3 = some (num 7) ∧
    result (.div 3 .d 1 2) [num 0x8000000000000000, num 0xFFFFFFFFFFFFFFFF] 3 = some (num 0x8000000000000000) ∧
    result (.rem 3 .d 1 2) [num 0xFFFFFFFFFFFFFFF9, num 2] 3 = some (num 0xFFFFFFFFFFFFFFFF) := by decide +kernel

theorem test_counts : result (.clz 3 .d 1) [num 0] 3 = some (num 64) ∧ result (.ctz 3 .w 1) [num 0x100000000] 3 = some (num 32) ∧
    result (.popc 3 .d 1) [num 0xF0F0] 3 = some (num 8) ∧ result (.bswap 3 .d 1) [num 0x0102030405060708] 3 = some (num 0x0807060504030201) ∧
    result (.sextb 3 .d 1) [num 0x180] 3 = some (num 0xFFFFFFFFFFFFFF80) := by decide +kernel

theorem test_wide : result (.pack 3 1 2) [num 5, num 7] 3 = some ⟨0x70000000000000005, false⟩ ∧
    result (.hi 3 1) [⟨0x70000000000000005, false⟩] 3 = some (num 7) ∧ result (.li 3 (-2)) [] 3 = some (num 0xFFFFFFFFFFFFFFFE) ∧
    result (.lih 1 0x3FF) [num 1] 1 = some (num 0xFFC0000000000001) := by decide +kernel

/-! ## Capabilities: the worked encodings of 04 -/

/-- The 12 KiB buffer: base 0x1_0000_1000, top 0x1_0000_4000, LD and ST, the cursor 16 above its base. -/
def buffer : Reg := ⟨0x000C000400004000_0000000100001010, true⟩

theorem test_cgetbase : result (.cgetbase 2 1) [buffer] 2 = some (num 0x100001000) := by decide +kernel
theorem test_cgettop : result (.cgettop 2 1) [buffer] 2 = some (num 0x100004000) := by decide +kernel
theorem test_cgetperm : result (.cgetperm 2 1) [buffer] 2 = some (num 3) := by decide +kernel

theorem test_cinc_tag : (result (.cinc 3 1 2) [buffer, num 0x2FFFEF] 3).map Reg.tag = some true ∧
    (result (.cinc 3 1 2) [buffer, num 0x2FFFF0] 3).map Reg.tag = some false := by decide +kernel

/-- The buffer that crosses a window boundary. -/
theorem test_window_boundary : result (.cgetbase 2 1) [⟨0x00040FFC00001000_0000000000400FF8, true⟩] 2 = some (num 0x3FF000) ∧
    result (.cgettop 2 1) [⟨0x00040FFC00001000_0000000000400FF8, true⟩] 2 = some (num 0x401000) := by decide +kernel

/-- Rounding: a length of 0x50_0000 at 0x10_0000_0123 takes E = 2. -/
theorem test_csetbnd_rounds : result (.csetbnd 3 1 2) [⟨3#14 ++ (cap 0x1000000123).bits.extractLsb' 0 114, true⟩, num 0x500000] 3 =
    some ⟨0x000C200012140049_0000001000000123, true⟩ := by decide +kernel

theorem test_csetbndx_inexact : faultOf (.csetbndx 3 1 2) [cap 0x1000000123, num 0x500000] = some (0x07, 0, .none) := by decide +kernel
theorem test_cseal_untagged : faultOf (.cseal 2 1) [num 5] = some (0x05, 0, .none) := by decide +kernel

/-! ## Floating point: the worked conversions of 03 -/

theorem test_fcvt_modes : ([(.rne, 0x3F80), (.rna, 0x3F81), (.rtz, 0x3F80), (.rdn, 0x3F80), (.rup, 0x3F81)] : List (Rnd × Nat)).all
    (fun e => decide (result (.fcvt 2 .bf16 .f32 e.1 3) [num 0, num 0, num 0x3F808000] 2 = some (num e.2))) = true := by decide +kernel

theorem test_fcvt_sr : fmtConvert presetE4M3 .bf16 .f32 .sr 0x3A000000 0x3F808000 = ⟨0x3F81, 1⟩ := by decide +kernel

theorem test_k8_encode : (fmtConvert presetE4M3 .k8 .f32 .rne 0 0x43960000).bits = 0x79 ∧ (fmtConvert presetE4M3 .k8 .f32 .rup 0 0x43960000).bits = 0x7A ∧
    (fmtConvert presetE4M3 .k8 .f32 .rne 0 0xC3960000).bits = 0xF9 ∧ (fmtConvert presetE4M3 .k8 .f32 .rne 0 0x43FA0000).bits = 0x7E ∧
    (fmtConvert presetE5M2 .k8 .f32 .rne 0 0x43FA0000).bits = 0x60 ∧ (fmtConvert presetE5M2 .k8 .f32 .rtz 0 0x43FA0000).bits = 0x5F := by decide +kernel

theorem test_k8_decode : (fmtConvert presetE4M3 .f32 .k8 .rne 0 0xB8).bits = 0xBF800000 := by decide +kernel

theorem test_float_to_int8 : (fmtConvert presetE4M3 .i8 .f32 .rne 0 0x40200000).bits = 2 ∧ (fmtConvert presetE4M3 .i8 .f32 .rne 0 0xC348B333).bits = 0x80 := by
  decide +kernel

/-- `v.rsum.f32` over [2^24, 1, 1, −2^24] gives 1.0: the tree is fixed. -/
theorem test_rsum_tree : (treeReduce (fun _ x y => vecElement presetE4M3 .rsum .f32 .f32 .rne 0 x y 0) 13
    [0x4B800000, 0x3F800000, 0x3F800000, 0xCB800000] 0 0).1 = 0x3F800000 := by decide +kernel

/-- 1 + 2 = 3 in FP64, and its line of flags is empty. -/
theorem test_fadd : result (.fadd 3 .f64 1 2) [num 0x3FF0000000000000, num 0x4000000000000000] 3 = some (num 0x4008000000000000) ∧
    (after (.fadd 3 .f64 1 2) (th [num 0x3FF0000000000000, num 0x4000000000000000])).map Thread.fpcsr = some 0 := by decide +kernel

/-- 1 / 0 is infinity and raises DZ. -/
theorem test_fdiv_zero : result (.fdiv 3 .f32 1 2) [num 0x3F800000, num 0] 3 = some (num 0x7F800000) ∧
    (after (.fdiv 3 .f32 1 2) (th [num 0x3F800000, num 0])).map Thread.fpcsr = some 8 := by decide +kernel

/-! ## Control (04 R120, R121, R131) and windows (01 R18, R22; 07) -/

theorem test_trap : faultOf (.trap 5) [] = some (0x3F, 5, .none) := by decide +kernel
theorem test_jr_untagged : faultOf (.jr 1) [num 0x10004] = some (0x05, 0x10004, .fetch) := by decide +kernel

/-- The two window addresses of 01: their core, cluster, owner and share. -/
theorem test_window_addresses : placeOf 0 0 0xBFE6955A00002040 = .core 0x34AAD 0x2040 ∧ placeOf 0 0 0xFFE6950000001234 = .clu 0xD2A 0x1234 ∧
    scratchOwner 0xD2A 0x1234 = (0xD2A * 64 + 13, 72) := by decide +kernel

/-- A byte stored to the own TCM comes back sign-extended, or not. -/
theorem test_store_then_load : (match exec (.stB 2 1 3 none .none) (st (th [cap (tcm 0x40), num 0x80])) with
    | .next s => (match exec (.ldB 4 1 3 false none .none) s with
      | .next s => (match exec (.ldB 5 1 3 true none .none) s with
        | .next s => (s.thread? 0).map (fun t => (t.reg 4, t.reg 5))
        | _ => none)
      | _ => none)
    | _ => none) = some (num 0xFFFFFFFFFFFFFF80, num 0x80) := by decide +kernel

theorem test_load_faults : faultOf (.ldW 2 1 2 false none .none) [cap (tcm 0x40)] = some (0x09, tcm 0x42, .load) ∧
    faultOf (.ldW 2 1 0 false none .none) [num 0x40] = some (0x05, 0x40, .load) := by decide +kernel

theorem test_amo_returns_old : result (.amoAdd .d 3 1 2 ⟨.mod, false, false⟩) [cap (tcm 0x40), num 7] 3 = some (num 0) := by decide +kernel

end Sys2Proof.Tests
end

