-- ==== Sys2Proof/Tests/WitnessThread.lean ====
section
/-!
SUPPORT. Sys2Proof/Tests/WitnessThread.lean: for each statement about threads and their instructions, a state and operands that
meet its hypotheses together, clause by clause.
-/
set_option Elab.async false -- one test at a time: each waits for the kernel and holds a thread while it waits
namespace Sys2Proof.Tests
open Sys2Proof Sys2Proof.Machine

/-! ## Helpers -/

/-- An access that ends well has a result. -/
def isOk {α : Type} : Acc α → Bool
  | .ok _ => true
  | _ => false

theorem acc_ok {α : Type} {r : State × Acc α} (h : isOk r.2 = true) : ∃ s1 a, r = (s1, .ok a) := by
  obtain ⟨s1, a⟩ := r
  cases a with
  | ok a => exact ⟨s1, a, rfl⟩
  | fault c => cases h
  | hold => cases h

theorem acc_unit {r : State × Acc Unit} (h : isOk r.2 = true) : ∃ s1, r = (s1, .ok ()) := by
  obtain ⟨s1, a, e⟩ := acc_ok h
  exact ⟨s1, e⟩

theorem acc_fault {α : Type} [DecidableEq α] {r : State × Acc α} {c : Byte} (h : r.2 = .fault c) : ∃ s1, r = (s1, .fault c) :=
  ⟨r.1, by rw [← h]⟩

theorem acc_hold {α : Type} [DecidableEq α] {r : State × Acc α} (h : r.2 = .hold) : ∃ s1, r = (s1, .hold) := ⟨r.1, by rw [← h]⟩

theorem some_pair {α β : Type} {r : α × Option β} {b : β} (h : r.2 = some b) : ∃ s1, r = (s1, some b) := ⟨r.1, by rw [← h]⟩

/-- A partition with one page mapped at 0x10000, its tables in LPDDR, a line of `nop` on it, and this thread. -/
def pst (t : Thread) : State := { State.reset.placeLine nopLine.bytes with cores := (st t).cores, agenda := [] }

theorem st_canonical (t : Thread) : (st t).Canonical := ⟨rfl, rfl, rfl, fun _ h => nomatch h⟩

theorem pst_mem_wf : Memory.wf (State.reset.placeLine nopLine.bytes).mem = true := by decide +kernel

theorem pst_canonical (t : Thread) : (pst t).Canonical := ⟨pst_mem_wf, rfl, rfl, fun _ h => nomatch h⟩

/-- The flat addresses of bytes of a window that stand in local memory, sound and not held. -/
def hereAt (s : State) (core : Nat) (a : Word) (n : Nat) : Option (List Nat) :=
  match s.localFlat (placeOf s.bridge.chip core a) n with
  | .ok fs =>
    if canonical a ∧ touchesAgent a n = false ∧ s.warmAt (placeOf s.bridge.chip core a) = none ∧ s.poisonedAt fs = false ∧
        s.heldByOther none (fun r => fs.any (fun x => resvOnFlat x 1 r)) = false then some fs
    else none
  | .error _ => none

theorem here_of {s : State} {core n : Nat} {a : Word} {fs : List Nat} (h : hereAt s core a n = some fs) : s.Here core a n fs := by
  unfold hereAt at h
  split at h
  · next gs e =>
    split at h
    · next c =>
      obtain ⟨h1, h2, h3, h4, h5⟩ := c
      cases h
      exact ⟨h1, h2, e, h3, h4, h5⟩
    · cases h
  · cases h

theorem here_some {s : State} {core n : Nat} {a : Word} (h : (hereAt s core a n).isSome = true) : ∃ fs, s.Here core a n fs :=
  let ⟨fs, e⟩ := Option.isSome_iff_exists.1 h
  ⟨fs, here_of e⟩

/-- The command's cell stands here. -/
def cellAt (s : State) (c : Cmd) : Bool :=
  match c.cell with
  | some r => (hereAt s c.core r.addr 16).isSome && decide (r.addr.toNat % 16 = 0 ∧ (c.hid = 0 ∨ r.unv = true))
  | none => false

theorem cell_of {s : State} {c : Cmd} (h : cellAt s c = true) : s.CellHere c := by
  unfold cellAt at h
  split at h
  · next r e =>
    simp only [Bool.and_eq_true, decide_eq_true_eq] at h
    obtain ⟨fs, hf⟩ := here_some h.1
    exact ⟨r, fs, e, hf, h.2⟩
  · cases h

/-- An access of a partition without budgets. -/
theorem mapped_of {s : State} {part va : Nat} {kind : TKind} {host : Bool} {p : Partition} {e : TlbEntry}
    (h : tget s.parts part = some p ∧ (s.cluster (p.homeOf va)).tlb.find? (fun t => t.covers part va) = some e ∧
      hostDenied e.pte kind host = false ∧ leafDenied e.pte kind = none ∧ pteTgt e.pte = 0 ∧ (kind.writes = true → e.dty = true))
    (b : p.budgets = [] ∧ p.memBudgets = [] := by exact ⟨rfl, rfl⟩) : s.Mapped part va kind host p e := by
  obtain ⟨h1, h2, h3, h4, h5, h6⟩ := h
  refine ⟨h1, h2, h3, h4, h5, h6, fun _ => ?_⟩
  rw [b.1, b.2]
  exact ⟨rfl, rfl⟩

/-- The scope `.mod` without `.rel`, and with it. -/
def cx : Cx := ⟨.mod, false⟩
def cxRel : Cx := ⟨.mod, true⟩

/-! ## Integer, capability and floating-point instructions -/

theorem wit_IntegerResult : (Instr.add 0 .wz 1 2).wellFormed = true ∧ (st (th [num 0xFFFFFFFF, num 1])).Issues (th [num 0xFFFFFFFF, num 1]) (.add 0 .wz 1 2) ∧
    Spec.intResult (.add 0 .wz 1 2) (th [num 0xFFFFFFFF, num 1]) = some (0, Reg.zero) := by decide +kernel

theorem wit_IntegerResult_shift : (Instr.rori 31 .d 1 63).wellFormed = true ∧ (st (th [num 1])).Issues (th [num 1]) (.rori 31 .d 1 63) ∧
    Spec.intResult (.rori 31 .d 1 63) (th [num 1]) = some (31, num 2) := by decide +kernel

theorem wit_CapabilityResult_get : (st (th [buffer])).Issues (th [buffer]) (.cgetlen 2 1) ∧
    Spec.capResult (.cgetlen 2 1) (th [buffer]) 2 (num 0x3000) := by
  refine ⟨by decide +kernel, rfl, ?_⟩
  unfold Spec.capNumber
  decide +kernel

theorem wit_CapabilityResult_move : (st (th [buffer, num 0x2FFFF0])).Issues (th [buffer, num 0x2FFFF0]) (.cinc 3 1 2) ∧
    Spec.capResult (.cinc 3 1 2) (th [buffer, num 0x2FFFF0]) 3 ⟨0x000C0004000040000000000100301000, false⟩ :=
  ⟨by decide +kernel, rfl, fun _ => by decide +kernel, by decide +kernel⟩

theorem wit_CapabilityResult_bounds : (st (th [cap 0x1000000123, num 0x500000])).Issues (th [cap 0x1000000123, num 0x500000]) (.csetbnd 3 1 2) ∧
    Spec.capResult (.csetbnd 3 1 2) (th [cap 0x1000000123, num 0x500000]) 3 (Spec.bounded (cap 0x1000000123) 0x500000) :=
by
  refine ⟨?_, rfl, ⟨?_, ?_, ?_, ?_, ?_, ?_, ?_⟩, ?_⟩ <;> decide +kernel

/-- A sealed copy of a capability. -/
def sealOf (c : Reg) : Reg := ⟨c.bits ||| 1#128 <<< 127, true⟩

theorem wit_CapabilityResult_seal : (st (th [cap 0x40])).Issues (th [cap 0x40]) (.cseal 2 1) ∧
    Spec.capResult (.cseal 2 1) (th [cap 0x40]) 2 (sealOf (cap 0x40)) :=
by
  refine ⟨?_, rfl, ?_, ?_, ?_, rfl⟩ <;> decide +kernel

theorem wit_CapabilityResult_unseal : (st (th [sealOf (cap 0x40), cap 0x40])).Issues (th [sealOf (cap 0x40), cap 0x40]) (.cunseal 3 1 2) ∧
    Spec.capResult (.cunseal 3 1 2) (th [sealOf (cap 0x40), cap 0x40]) 3 (cap 0x40) :=
by
  refine ⟨?_, rfl, ?_, ?_, ?_, ?_, ?_, ?_, ?_, ?_, ?_⟩ <;> decide +kernel

theorem wit_CapabilityFaults : ∀ e ∈ ([(.cinci 3 1 1, sealOf (cap 0x40), 0x06), (.csetbndi 3 1 0x40, num 5, 0x05), (.csetbndi 3 1 0x40, sealOf (cap 0x40), 0x06),
      (.csetbndi 3 1 0x3001, buffer.withCursor 0x100001000, 0x07), (.cseal 3 1, num 5, 0x05), (.cseal 3 1, sealOf (cap 0x40), 0x06),
      (.cseal 3 1, makeCap 0x7E00000000000000 16 1, 0x08), (.cunseal 3 1 2, num 5, 0x05), (.cunseal 3 1 2, cap 0x40, 0x06),
      (.cunseal 3 1 2, sealOf (cap 0x40), 0x05)] : List (Instr × Reg × Byte)),
    (st (th [e.2.1])).Issues (th [e.2.1]) e.1 ∧ (th [e.2.1]).window = [] ∧ Spec.capFault e.1 (th [e.2.1]) = some e.2.2 := by decide +kernel

theorem wit_TrapFaults : (st (th [])).Issues (th []) (.trap 0xFFFF) := by decide +kernel

theorem wit_FloatResult : (st (th [num 0x3F800000, num 0])).Issues (th [num 0x3F800000, num 0]) (.fdiv 3 .f32 1 2) ∧
    ∃ o, Spec.fpResult (.fdiv 3 .f32 1 2) (th [num 0x3F800000, num 0]) ((st (th [num 0x3F800000, num 0])).cur % 256) = some o :=
  ⟨by decide +kernel, _, rfl⟩

/-! ## Control registers -/

theorem wit_ControlRead : ∀ k ∈ [KReg.tid, .lcore, .seed, .hyp, .fpcsr, .faultrec, .ctx, .auth, .prio, .wake, .carve, .cycle],
    (st (th [])).Issues (th []) (.kget 1 k) := by decide +kernel

theorem wit_ControlWrite_fpcsr : (st (th [num 0x51F])).Issues (th [num 0x51F]) (.kputFpcsr 1) ∧
    (((th [num 0x51F]).reg 1).lo.extractLsb' 8 3).toNat < 6 := by decide +kernel

theorem wit_ControlWrite_faultrec : let t := th [makeCap 0x40 64 permST]
    (st t).Issues t (.kputFaultrec 1) ∧ (t.reg 1).tag = true ∧ (t.reg 1).sealed_ = false ∧ (t.reg 1).has permST = true ∧
      (boundsOf (t.reg 1)).1 ≤ (t.reg 1).lo.toNat ∧ ((t.reg 1).lo.toNat + 64 : Int) ≤ (boundsOf (t.reg 1)).2 ∧ (t.reg 1).lo.toNat % 64 = 0 := by
  decide +kernel

theorem wit_ControlWrite_prio : let t := { th [num 2] with ceil := 2 }
    (st t).Issues t (.kputPrio 1) ∧ (t.reg 1).lo.toNat % 4 ≤ t.ceil := by decide +kernel

theorem wit_ControlWrite_wake : let t := { th [num 0xFF] with fired := 0xFF }
    (st t).Issues t (.kputWake 1) := by decide +kernel

theorem wit_ControlWriteFaults_fpcsr : let t := th [num 0x600]
    (st t).Issues t (.kputFpcsr 1) ∧ 6 ≤ ((t.reg 1).lo.extractLsb' 8 3).toNat := by decide +kernel

theorem wit_ControlWriteFaults_prio : let t := { th [num 3] with ceil := 2 }
    (st t).Issues t (.kputPrio 1) ∧ t.ceil < (t.reg 1).lo.toNat % 4 := by decide +kernel

theorem wit_ControlWriteFaults_faultrec : let t := th [cap 0x41]
    (st t).Issues t (.kputFaultrec 1) ∧ (t.reg 1).tag = true ∧ (t.reg 1).sealed_ = false ∧ (t.reg 1).has permST = true ∧
      (boundsOf (t.reg 1)).1 ≤ (t.reg 1).lo.toNat ∧ ((t.reg 1).lo.toNat + 64 : Int) ≤ (boundsOf (t.reg 1)).2 ∧ (t.reg 1).lo.toNat % 64 ≠ 0 := by
  decide +kernel

/-- An authority entry of kind 2 over core 0 of the own module with every right (05 R140). -/
def carver : Thread := { th [num 0x81A1] with auth := (0x01FF0000000002FF : Word) :: List.replicate 31 0 }

theorem wit_CarveWrite : let s := st carver
    let v := (carver.reg 1).lo
    s.Issues carver (.kputCarve 1) ∧ v.toNat < 2 ^ 17 ∧ v.toNat % 16 + v.toNat / 16 % 16 + v.toNat / 256 % 16 = 12 ∧ v.toNat % 16 ≠ 0 ∧
      v.toNat / 256 % 16 ≠ 0 ∧ v.toNat / 4096 % 16 ≤ 12 ∧ v.toNat / 4096 % 16 ≤ 8 * (v.toNat % 16) ∧
      carver.mayOverCore s.bridge.chip (coreOf s.cur) rREWRITE = true ∧
      ((s.core (coreOf s.cur)).warm.filter Option.isSome).length ≤ s.parkFree (clusterOf (coreOf s.cur)) := by decide +kernel

theorem wit_Retirement : let s1 := (st (th [])).modThread 0 (fun t => t.setReg 1 (num 5))
    s1.cur = (st (th [])).cur ∧ ∃ t1, s1.thread? (st (th [])).cur = some t1 := ⟨rfl, _, rfl⟩

/-! ## Waiting -/

/-- A store of this thread that has not settled. -/
def outstanding : List StoreOut := [⟨7, 0, 0⟩]

theorem wit_NothingToWaitFor : let t := th []
    (st t).Issues t .nop ∧ ((st t).Issues t (.fence 15 .sys) ∧ t.stores = []) ∧ ((st t).Issues t .fenceRs ∧ ((st t).core 0).unack = 0) ∧
      ((st t).Issues t .drain ∧ t.stores = []) ∧ ((st t).Issues t (.wdis 7) ∧ (t.watch.getD 7 ⟨false, 0, 0⟩).armed = false) := by decide +kernel

theorem wit_NothingToWaitFor_loads : let t := { th [] with stores := outstanding }
    (st t).Issues t (.fence 3 .sys) ∧ ((3 : BitVec 4).getLsbD 2 = false ∧ (3 : BitVec 4).getLsbD 3 = false) := by decide +kernel

/-- A thread with a store unsettled and slot 7 armed, on a core with a window store unacknowledged. -/
def waiter : Thread := { th [] with stores := outstanding, watch := lput ⟨false, 0, 0⟩ Thread.blank.watch 7 ⟨true, 1, 0⟩ }
def waiting : State := (st waiter).setCore 0 { (st waiter).core 0 with unack := 1 }

theorem wit_WaitingInstructions : waiting.Issues waiter .exit ∧ (waiting.Issues waiter .drain ∧ waiter.stores ≠ []) ∧
    (waiting.Issues waiter .fenceRs ∧ (waiting.core (coreOf waiting.cur)).unack ≠ 0) ∧
    (waiting.Issues waiter (.wdis 7) ∧ (waiter.watch.getD 7 ⟨false, 0, 0⟩).armed = true) ∧
    (waiting.Issues waiter .sleep ∧ waiter.pend = false) := by decide +kernel

theorem wit_WaitingInstructions_pend : let t := { th [] with pend := true }
    (st t).Issues t .sleep ∧ t.pend = true := by decide +kernel

theorem wit_WaitsEnd : ∀ t ∈ [{ th [] with wait := .drain }, { th [] with wait := .fenceRs }, { th [] with wait := .sleep, state := .sleeping, pend := true }],
    (st t).thread? 0 = some t ∧ t.fault = none ∧ t.stores = [] ∧ ((st t).core (coreOf 0)).unack = 0 ∧ (t.wait = .sleep → t.pend = true) ∧ t.held = false := by
  decide +kernel

theorem wit_YieldStandsAside : (st (th [])).Issues (th []) .yield := by decide +kernel

/-- A second thread, ready in the park region, lets the first leave at its `yield`. -/
theorem wit_YieldStandsAside_leaves : let s := (st (th [])).setThread 1 Thread.blank
    s.Issues (th []) .yield ∧ ∃ s' t', exec .yield s = .next s' ∧ s'.thread? 0 = some t' ∧ t'.leaving = true :=
  ⟨by decide +kernel, _, _, rfl, rfl, by decide +kernel⟩

/-! ## Transfers -/

theorem wit_BranchNotTaken : ∀ i ∈ [Instr.beq 1 2 3, .bltu 2 1 3, .bgeu 1 2 3, .btag 1 3], let t := th [num 0, num 0xFFFFFFFFFFFFFFFF]
    (st t).Issues t i ∧ Spec.branchOf i t = some (false, 3) := by decide +kernel

/-- An entry that ends well. -/
def entered : Entry → Bool
  | .ok _ => true
  | _ => false

theorem entry_ok {r : State × Entry} (h : entered r.2 = true) : ∃ s1 l, r = (s1, .ok l) := by
  obtain ⟨s1, a⟩ := r
  cases a with
  | ok a => exact ⟨s1, a, rfl⟩
  | fault c _ => cases h
  | hold => cases h

/-- The thread of the transfers: c1 enters the line at its last instruction. -/
def jumper : Thread := th [cap 0x1003E, num 1]

theorem wit_TransferTaken : ∀ e ∈ ([(.beq 3 4 31, 0x1003E, jumper.pcc, none), (.jmp 31, 0x1003E, jumper.pcc, none), (.call 0 31, 0x1003E, jumper.pcc, some 0),
      (.jr 1, 0x1003E, cap 0x1003E, none), (.callr 1 1, 0x1003E, cap 0x1003E, some 1)] : List (Instr × Word × Reg × Option RegNo)),
    (pst jumper).Issues jumper e.1 ∧ Spec.transferOf e.1 jumper = some (e.2.1, e.2.2.1, e.2.2.2) ∧ e.2.1.getLsbD 0 = false ∧
      entered ((pst jumper).enterLine (pst jumper).cur jumper e.2.2.1 e.2.1).2 = true := by decide +kernel

theorem wit_TransferTaken_holds : Spec.transfers (.beq 3 4 31) jumper ∧ Spec.transfers (.jmp 31) jumper ∧ Spec.transfers (.call 0 31) jumper ∧
    Spec.transfers (.jr 1) jumper ∧ Spec.transfers (.callr 1 1) jumper ∧
    ∃ s1 l, (pst jumper).enterLine (pst jumper).cur jumper jumper.pcc 0x1003E = (s1, .ok l) := by
  refine ⟨?_, trivial, trivial, ?_, ?_, entry_ok (by decide +kernel)⟩
  · show (Spec.branchOf (.beq 3 4 31) jumper).map Prod.fst = some true
    decide +kernel
  · show (jumper.reg 1).tag = true ∧ (jumper.reg 1).sealed_ = false ∧ (jumper.reg 1).has permEX = true
    decide +kernel
  · show (jumper.reg 1).tag = true ∧ (jumper.reg 1).sealed_ = false ∧ (jumper.reg 1).has permEX = true
    decide +kernel

/-- Index 0 of a line is no instruction: the transfer faults with 0x04. -/
theorem wit_TransferFaults : (pst jumper).Issues jumper (.jmp 0) ∧ jumper.window = [] ∧ Spec.transferOf (.jmp 0) jumper = some (0x10000, jumper.pcc, none) ∧
    (0x10000 : Word).getLsbD 0 = false ∧ ((pst jumper).enterLine 0 jumper jumper.pcc 0x10000).2 = .fault 0x04 0xF800 := by decide +kernel

theorem wit_JumpRegisterFaults : ∀ c ∈ [num 0x10004, sealOf (cap 0x10004), makeCap 0x10000 64 permLD, cap 0x10005], let t := th [c]
    (st t).Issues t (.callr 2 1) ∧ t.window = [] ∧
      ((t.reg 1).tag = false ∨ (t.reg 1).sealed_ = true ∨ (t.reg 1).has permEX = false ∨ (t.reg 1).lo.getLsbD 0 = true) := by decide +kernel

end Sys2Proof.Tests
end

