-- ==== Sys2Proof/Tests/WitnessMemory.lean ====
section
/-!
SUPPORT. Sys2Proof/Tests/WitnessMemory.lean: for each statement about accesses to memory and the slices, a state and operands
that meet its hypotheses together, clause by clause.
-/
set_option Elab.async false -- one test at a time: each waits for the kernel and holds a thread while it waits
namespace Sys2Proof.Tests
open Sys2Proof Sys2Proof.Machine

/-- The root capability without UNV, HOST and STC. -/
def plainCap (a : Word) : Reg := ⟨0x0DEF#14 ++ (cap a).bits.extractLsb' 0 114, true⟩

/-- A window address of a core or cluster of the own module, and of a core of another module. -/
def coreWin (c off : Nat) : Word := BitVec.ofNat 64 (0xBFE0000000000000 + c * 2 ^ 33 + off)
def cluWin (k off : Nat) : Word := BitVec.ofNat 64 (0xFFE0000000000000 + k * 2 ^ 39 + off)
def farWin (chip off : Nat) : Word := BitVec.ofNat 64 (0x8000000000000000 + chip * 2 ^ 53 + off)

/-- The module with one link up, and module 5 behind it. -/
def linked (s : State) : State := { s with bridge := { s.bridge with links := 1, peers := [(5, 1)] } }

/-! ## Loads and stores -/

/-- The hypotheses of LoadLocal but for the form, at the address the load reaches. -/
abbrev loadHere (i : Instr) (f : Spec.LoadForm) (c : Word) (p : Place) : Prop :=
  let t := th [cap c]
  let s := st t
  let x : Int := c.toNat + f.off.toInt
  s.Issues t i ∧ s.cur < 2 ^ 28 ∧ Spec.loadPasses s t f x ∧ placeOf s.bridge.chip (coreOf s.cur) (BitVec.ofInt 64 x) = p ∧
    (Spec.localBytes s p f.bytes).map s.poisonedAt = some false

/-- The last byte of the TCM below the warm-context area (4 contexts of 1 KiB at its top). -/
theorem wit_LoadLocal_byte : Spec.loadForm (.ldB 2 1 0 false none .none) = some ⟨1, true, 2, 1, 0, none, .none⟩ ∧
    loadHere (.ldB 2 1 0 false none .none) ⟨1, true, 2, 1, 0, none, .none⟩ (tcm 0x6FFF) (.core 0 0x6FFF) ∧
    Spec.ownPlace (st (th [cap (tcm 0x6FFF)])) (.core 0 0x6FFF) := ⟨rfl, by decide +kernel, rfl⟩

theorem wit_LoadLocal_quad : Spec.loadForm (.ldQ 2 1 (-16) (some .clu) .s) = some ⟨16, false, 2, 1, -16, some .clu, .s⟩ ∧
    loadHere (.ldQ 2 1 (-16) (some .clu) .s) ⟨16, false, 2, 1, -16, some .clu, .s⟩ (tcm 0x7000) (.core 0 0x6FF0) := ⟨rfl, by decide +kernel⟩

/-- The last word of the cluster's scratchpad: 64 shares of 32 KiB. -/
theorem wit_LoadLocal_scratch : Spec.loadForm (.ldW 0 1 4 true none .k) = some ⟨4, false, 0, 1, 4, none, .k⟩ ∧
    loadHere (.ldW 0 1 4 true none .k) ⟨4, false, 0, 1, 4, none, .k⟩ (scratch 0x1FFFF8) (.clu 0 0x1FFFFC) ∧
    Spec.ownPlace (st (th [cap (scratch 0x1FFFF8)])) (.clu 0 0x1FFFFC) := ⟨rfl, by decide +kernel, rfl⟩

/-- A load's form for the witnesses of the ways it can leave. -/
def sentForm : Spec.LoadForm := ⟨8, false, 2, 1, 8, some .sys, .b⟩
def sentLoad : Instr := .ldD 2 1 8 (some .sys) .b

abbrev loadLeaves (a : Word) (p : Place) : Prop :=
  let t := th [cap a]
  let s := linked (pst t)
  let x : Int := a.toNat + sentForm.off.toInt
  s.Issues t sentLoad ∧ Spec.loadPasses s t sentForm x ∧ placeOf s.bridge.chip (coreOf s.cur) (BitVec.ofInt 64 x) = p ∧ s.reachable 5 = true ∧
    (s.core (coreOf s.cur)).copy? t.part (0x10008 / 64) t.hid = none ∧ s.poolHit (coreOf s.cur) t.part (0x10008 / 64) t.hid sentForm.hint = none ∧
    touchesAgent (BitVec.ofInt 64 x) sentForm.bytes = false

theorem wit_LoadSent : Spec.loadForm sentLoad = some sentForm ∧ loadLeaves 0x10000 (.glob 0x10008) ∧ loadLeaves (coreWin 1 0x40) (.core 1 0x48) ∧
    loadLeaves (cluWin 1 0x40) (.clu 1 0x48) ∧ loadLeaves (farWin 5 0x40) (.far 5) :=
by
  refine ⟨rfl, ?_, ?_, ?_, ?_⟩ <;> decide +kernel

/-- Capabilities that each fail one check of a doubleword load at their cursor. -/
def badLoads : List (Reg × Byte) :=
  [(num 0x40, 0x05), (sealOf (cap 0x40), 0x06), (makeCap 0x40 64 permST, 0x08), (makeCap 0x40 7 permLD, 0x07), (cap 0x44, 0x09), (cap 0x7000000000000000, 0x16)]

theorem wit_LoadFaults : Spec.loadForm (.ldD 2 1 0 none .none) = some ⟨8, false, 2, 1, 0, none, .none⟩ ∧ ∀ e ∈ badLoads,
    let t := th [e.1]
    let c := t.reg 1
    let x : Int := c.lo.toNat + (0 : BitVec 17).toInt
    (st t).Issues t (.ldD 2 1 0 none .none) ∧ t.window = [] ∧
    (if c.tag = false then some 0x05 else if c.sealed_ then some 0x06 else if c.has permLD = false then some 0x08
      else if x < (boundsOf c).1 ∨ (boundsOf c).2 < x + 8 then some 0x07
      else if (BitVec.ofInt 64 x).toNat % 8 ≠ 0 then some 0x09
      else if canonical (BitVec.ofInt 64 x) = false then some 0x16 else none) = some e.2 := ⟨rfl, by decide +kernel⟩

abbrev storeHere (i : Instr) (f : Spec.StoreForm) (c : Word) (v : Reg) (p : Place) : Prop :=
  let t := th [cap c, v]
  let s := st t
  let x : Int := c.toNat + f.off.toInt
  s.Issues t i ∧ s.cur < 2 ^ 28 ∧ Spec.storeFree t f ∧ Spec.storePasses s t f x ∧ placeOf s.bridge.chip (coreOf s.cur) (BitVec.ofInt 64 x) = p ∧
    ((Spec.localBytes s p f.bytes).map (s.localHeld s.cur)) = some false

theorem wit_StoreLocal_tagged : Spec.storeForm (.stQ 2 1 0 none .none) = some ⟨16, 2, 1, 0, none, .none⟩ ∧ (st (th [cap (tcm 0x6FF0), cap 0x40])).Canonical ∧
    storeHere (.stQ 2 1 0 none .none) ⟨16, 2, 1, 0, none, .none⟩ (tcm 0x6FF0) (cap 0x40) (.core 0 0x6FF0) := ⟨rfl, st_canonical _, by decide +kernel⟩

theorem wit_StoreLocal_scratch : Spec.storeForm (.stD 2 1 (-8) (some .mod) .k) = some ⟨8, 2, 1, -8, some .mod, .k⟩ ∧ (st (th [cap (scratch 8), num 0x40])).Canonical ∧
    storeHere (.stD 2 1 (-8) (some .mod) .k) ⟨8, 2, 1, -8, some .mod, .k⟩ (scratch 8) (num 0x40) (.clu 0 0) := ⟨rfl, st_canonical _, by decide +kernel⟩

def sentStore : Instr := .stW 2 1 4 (some .dom) .s
def sentStoreForm : Spec.StoreForm := ⟨4, 2, 1, 4, some .dom, .s⟩

/-- The core has 1,023 window stores unacknowledged: one more may leave. -/
def nearlyFull (s : State) : State := s.setCore 0 { s.core 0 with unack := 1023 }

abbrev storeLeaves (a : Word) (p : Place) : Prop :=
  let t := th [cap a, num 5]
  let s := nearlyFull (linked (pst t))
  let x : Int := a.toNat + sentStoreForm.off.toInt
  s.Issues t sentStore ∧ Spec.storeFree t sentStoreForm ∧ Spec.storePasses s t sentStoreForm x ∧
    placeOf s.bridge.chip (coreOf s.cur) (BitVec.ofInt 64 x) = p ∧ s.reachable 5 = true ∧ (s.core (coreOf s.cur)).unack < 1024 ∧
    (s.core (coreOf s.cur)).copy? t.part (0x10004 / 64) 0 = none

theorem wit_StoreSent : Spec.storeForm sentStore = some sentStoreForm ∧ storeLeaves 0x10000 (.glob 0x10004) ∧ storeLeaves (coreWin 1 0x40) (.core 1 0x44) ∧
    storeLeaves (cluWin 1 0x40) (.clu 1 0x44) ∧ storeLeaves (farWin 5 0x40) (.far 5) :=
by
  refine ⟨rfl, ?_, ?_, ?_, ?_⟩ <;> decide +kernel

/-- Capabilities, values and hypotheses with which a quad store fails one check each. -/
def badStores : List (Reg × Reg × Nat × Byte) :=
  [(num 0x40, num 1, 0, 0x05), (sealOf (cap 0x40), num 1, 0, 0x06), (makeCap 0x40 64 permLD, num 1, 0, 0x08), (makeCap 0x40 15 permST, num 1, 0, 0x07),
   (cap 0x48, num 1, 0, 0x09), (cap 0x7000000000000000, num 1, 0, 0x16), (plainCap 0x40, cap 0x40, 0, 0x08), (plainCap (tcm 0x40), num 1, 3, 0x20)]

theorem wit_StoreFaultQueued : Spec.storeForm (.stQ 2 1 0 none .none) = some ⟨16, 2, 1, 0, none, .none⟩ ∧ ∀ e ∈ badStores,
    let t := { th [e.1, e.2.1] with hid := e.2.2.1 }
    let s := st t
    let f : Spec.StoreForm := ⟨16, 2, 1, 0, none, .none⟩
    let c := t.reg f.a
    let x : Int := c.lo.toNat + f.off.toInt
    s.Issues t (.stQ 2 1 0 none .none) ∧ Spec.storeFree t f ∧
    (if c.tag = false then some 0x05 else if c.sealed_ then some 0x06 else if c.has permST = false then some 0x08
      else if x < (boundsOf c).1 ∨ (boundsOf c).2 < x + f.bytes then some 0x07
      else if (BitVec.ofInt 64 x).toNat % f.bytes ≠ 0 then some 0x09
      else if canonical (BitVec.ofInt 64 x) = false then some 0x16
      else if f.bytes = 16 ∧ (t.reg f.d).tag = true ∧ Spec.mayTag s c (t.reg f.d) (BitVec.ofInt 64 x) = false then some 0x08
      else if t.hid ≠ 0 ∧ (BitVec.ofInt 64 x).getLsbD 63 = true ∧ c.unv = false then some 0x20 else none) = some e.2.2.2 := ⟨rfl, by decide +kernel⟩

/-- The agent registers of the own core: the state word of slot 0, which needs READ, and a word beyond them. -/
theorem wit_AgentRegisterLoad : Spec.loadForm (.ldD 2 1 0 none .none) = some ⟨8, false, 2, 1, 0, none, .none⟩ ∧
    (let t := { th [cap (coreWin 0 0x100000000)] with auth := (0x01FF0000000002FF : Word) :: List.replicate 31 0 }
     let s := st t
     s.Issues t (.ldD 2 1 0 none .none) ∧ t.window = [] ∧ Spec.loadPasses s t ⟨8, false, 2, 1, 0, none, .none⟩ (coreWin 0 0x100000000).toNat ∧
      placeOf s.bridge.chip (coreOf s.cur) (coreWin 0 0x100000000) = .core 0 0x100000000 ∧ touchesAgent (coreWin 0 0x100000000) 8 = true ∧
      (s.agentWord s.cur 0 (0x100000000 - 2 ^ 32)).toOption.isSome = true) := ⟨rfl, by decide +kernel⟩

theorem wit_AgentRegisterLoad_right : let t := th [cap (coreWin 0 0x100000000)]
    let s := st t
    s.Issues t (.ldD 2 1 0 none .none) ∧ Spec.loadPasses s t ⟨8, false, 2, 1, 0, none, .none⟩ (coreWin 0 0x100000000).toNat ∧
      (s.agentWord s.cur 0 (0x100000000 - 2 ^ 32)).toOption = none := by decide +kernel

theorem wit_AgentRegisterLoad_other : (Spec.loadForm (.ldW 2 1 0 false none .none) = some ⟨4, true, 2, 1, 0, none, .none⟩ ∧
    let t := th [cap (coreWin 0 0x100000FFC)]
    let s := st t
    s.Issues t (.ldW 2 1 0 false none .none) ∧ Spec.loadPasses s t ⟨4, true, 2, 1, 0, none, .none⟩ (coreWin 0 0x100000FFC).toNat ∧
      placeOf s.bridge.chip (coreOf s.cur) (coreWin 0 0x100000FFC) = .core 0 0x100000FFC ∧ touchesAgent (coreWin 0 0x100000FFC) 4 = true) ∧
    (let t := th [cap (coreWin 7 0x100000000)]
     let s := st t
     s.Issues t (.ldD 2 1 0 none .none) ∧ Spec.loadPasses s t ⟨8, false, 2, 1, 0, none, .none⟩ (coreWin 7 0x100000000).toNat ∧
      placeOf s.bridge.chip (coreOf s.cur) (coreWin 7 0x100000000) = .core 7 0x100000000 ∧ touchesAgent (coreWin 7 0x100000000) 8 = true) :=
  ⟨⟨rfl, by decide +kernel⟩, by decide +kernel⟩

/-! ## Atomics -/

abbrev atomicHere (i : Instr) (f : Spec.AtomicForm) (t : Thread) (p : Place) : Prop :=
  let s := st t
  s.Issues t i ∧ s.cur < 2 ^ 28 ∧ Spec.atomicPasses s t f ∧ placeOf s.bridge.chip (coreOf s.cur) (t.reg f.a).lo = p ∧
    (Spec.localBytes s p f.bytes).map (fun fs => s.localHeld s.cur fs || s.poisonedAt fs) = some false

theorem wit_AtomicLocal_amo : Spec.atomicForm (.amoFadd 3 1 2 ⟨.clu, true, true⟩) (th [cap (scratch 0x40), num 0x3F800000]) =
      some ⟨.amo 9, 4, 3, 1, ⟨0x3F800000, false⟩, permLD ||| permST ||| permAMO, ⟨.clu, true, true⟩⟩ ∧ (st (th [cap (scratch 0x40), num 0x3F800000])).Canonical ∧
    atomicHere (.amoFadd 3 1 2 ⟨.clu, true, true⟩) ⟨.amo 9, 4, 3, 1, ⟨0x3F800000, false⟩, permLD ||| permST ||| permAMO, ⟨.clu, true, true⟩⟩
      (th [cap (scratch 0x40), num 0x3F800000]) (.clu 0 0x40) := ⟨rfl, st_canonical _, by decide +kernel⟩

theorem wit_AtomicLocal_swap : Spec.atomicForm (.amoSwap .q 3 1 2 ⟨.mod, false, false⟩) (th [cap (tcm 0x6FF0), cap 0x40]) =
      some ⟨.amo 8, 16, 3, 1, cap 0x40, permLD ||| permST ||| permAMO, ⟨.mod, false, false⟩⟩ ∧
    atomicHere (.amoSwap .q 3 1 2 ⟨.mod, false, false⟩) ⟨.amo 8, 16, 3, 1, cap 0x40, permLD ||| permST ||| permAMO, ⟨.mod, false, false⟩⟩
      (th [cap (tcm 0x6FF0), cap 0x40]) (.core 0 0x6FF0) := ⟨rfl, by decide +kernel⟩

/-- A `cas` that finds what it expects (zeros), `lres`, and a `scond` whose reservation stands. -/
theorem wit_AtomicLocal_cas : Spec.atomicForm (.cas .d 3 1 2 ⟨.mod, false, false⟩) (th [cap (tcm 0x40), num 9]) =
      some ⟨.cas 0 false, 8, 3, 1, num 9, permLD ||| permST ||| permAMO, ⟨.mod, false, false⟩⟩ ∧
    atomicHere (.cas .d 3 1 2 ⟨.mod, false, false⟩) ⟨.cas 0 false, 8, 3, 1, num 9, permLD ||| permST ||| permAMO, ⟨.mod, false, false⟩⟩
      (th [cap (tcm 0x40), num 9]) (.core 0 0x40) := ⟨rfl, by decide +kernel⟩

theorem wit_AtomicLocal_lres : Spec.atomicForm (.lres .d 3 1 .mod true) (th [cap (tcm 0x40)]) =
      some ⟨.lres, 8, 3, 1, Reg.zero, permLD ||| permAMO, ⟨.mod, true, false⟩⟩ ∧
    atomicHere (.lres .d 3 1 .mod true) ⟨.lres, 8, 3, 1, Reg.zero, permLD ||| permAMO, ⟨.mod, true, false⟩⟩ (th [cap (tcm 0x40)]) (.core 0 0x40) :=
  ⟨rfl, by decide +kernel⟩

/-- A reservation of the doubleword at 0x40 of the own TCM. -/
def holder : Thread := { th [cap (tcm 0x40), num 9] with resv := some ⟨tcm 0x40, 8, 0, false, flatTcm 0 0x40, 16, 0, 128⟩ }

theorem wit_AtomicLocal_scond : Spec.atomicForm (.scond .d 3 1 2 .mod false) holder = some ⟨.scond, 8, 3, 1, num 9, permST ||| permAMO, ⟨.mod, false, false⟩⟩ ∧
    Spec.reserved holder (holder.reg 1).lo 8 = true ∧
    atomicHere (.scond .d 3 1 2 .mod false) ⟨.scond, 8, 3, 1, num 9, permST ||| permAMO, ⟨.mod, false, false⟩⟩ holder (.core 0 0x40) :=
  ⟨rfl, by decide +kernel, by decide +kernel⟩

def sentAmo : Spec.AtomicForm := ⟨.amo 0, 4, 3, 1, ⟨9, false⟩, permLD ||| permST ||| permAMO, ⟨.sys, true, true⟩⟩

abbrev atomicLeaves (a : Word) (p : Place) : Prop :=
  let t := th [cap a, num 9]
  let s := linked (pst t)
  s.Issues t (.amoAdd .w 3 1 2 ⟨.sys, true, true⟩) ∧ Spec.atomicPasses s t sentAmo ∧ placeOf s.bridge.chip (coreOf s.cur) (t.reg 1).lo = p ∧
    s.reachable 5 = true

theorem wit_AtomicSent : Spec.atomicForm (.amoAdd .w 3 1 2 ⟨.sys, true, true⟩) (th [cap 0x10000, num 9]) = some sentAmo ∧ atomicLeaves 0x10000 (.glob 0x10000) ∧
    atomicLeaves (coreWin 1 0x40) (.core 1 0x40) ∧ atomicLeaves (cluWin 1 0x40) (.clu 1 0x40) ∧ atomicLeaves (farWin 5 0x40) (.far 5) :=
by
  refine ⟨rfl, ?_, ?_, ?_, ?_⟩ <;> decide +kernel

/-- Capabilities, values and hypotheses with which a quad `swap` fails one check each. -/
def badAtomics : List (Reg × Reg × Nat × Byte) :=
  [(num 0x40, num 1, 0, 0x05), (sealOf (cap 0x40), num 1, 0, 0x06), (makeCap 0x40 64 permLD, num 1, 0, 0x08),
   (makeCap 0x40 15 (permLD ||| permST ||| permAMO), num 1, 0, 0x07), (cap 0x48, num 1, 0, 0x09), (cap 0x7000000000000000, num 1, 0, 0x16),
   (cap (coreWin 0 0x100000000), num 1, 0, 0x28), (cap (scratch 0x40), num 1, 0, 0x09), (plainCap 0x40, cap 0x40, 0, 0x08),
   (plainCap (tcm 0x40), num 1, 3, 0x20)]

theorem wit_AtomicFaults : ∀ e ∈ badAtomics,
    let t := { th [e.1, e.2.1] with hid := e.2.2.1 }
    let s := st t
    let f : Spec.AtomicForm := ⟨.amo 8, 16, 3, 1, ⟨(t.reg 2).bits, (t.reg 2).tag && (8 : Nat) == 8⟩, permLD ||| permST ||| permAMO, ⟨.mod, false, false⟩⟩
    let c := t.reg f.a
    s.Issues t (.amoSwap .q 3 1 2 ⟨.mod, false, false⟩) ∧ t.window = [] ∧ t.stores = [] ∧
    (if c.tag = false then some 0x05 else if c.sealed_ then some 0x06 else if c.has f.perms = false then some 0x08
      else if (c.lo.toNat : Int) < (boundsOf c).1 ∨ (boundsOf c).2 < c.lo.toNat + f.bytes then some 0x07
      else if c.lo.toNat % f.bytes ≠ 0 then some 0x09
      else if canonical c.lo = false then some 0x16
      else if touchesAgent c.lo f.bytes then some 0x28
      else if c.lo.getLsbD 63 ∧ c.lo.getLsbD 62 ∧ f.bytes ≠ 4 then some 0x09
      else if f.bytes = 16 ∧ f.value.tag = true ∧ Spec.mayTag s c f.value c.lo = false then some 0x08
      else if t.hid ≠ 0 ∧ c.lo.getLsbD 63 ∧ c.unv = false then some 0x20 else none) = some e.2.2.2 := by decide +kernel

theorem wit_AtomicFaults_form : ∀ t : Thread, Spec.atomicForm (.amoSwap .q 3 1 2 ⟨.mod, false, false⟩) t =
    some ⟨.amo 8, 16, 3, 1, ⟨(t.reg 2).bits, (t.reg 2).tag && (8 : Nat) == 8⟩, permLD ||| permST ||| permAMO, ⟨.mod, false, false⟩⟩ := fun _ => rfl

/-! ## Answers -/

/-- A request of thread 0 with this kind and phase. -/
def req (k : ReqKind) (a : Word) (n : Nat) (g : Target) (ph : Phase) : Req :=
  { tid := 0, order := 0, part := 0, kind := k, target := g, addr := a, len := n, data := 5, tag := false, hid := 0, depth := 0, host := false
    unv := false, ldc := false, signed := true, hint := .none, scope := .mod, acq := false, rel := false, counted := true, sentAt := 0, fill := none
    pos := 0, got := 0, phase := ph }

/-- The state with this request, numbered 4, on its way. -/
def withReq (s : State) (r : Req) : State := { s with reqs := [(4, r)], nextReq := 5 }

/-- A thread whose load, request 4, has not retired. -/
def loader : Thread := { th [] with window := [⟨4, 2, 0, false, none, (th []).checkpoint⟩], order := 1 }

theorem wit_LoadReply : ∀ ph ∈ [Phase.done 0x80 false 0, Phase.fault 0x11],
    let r := req .load 0x10000 1 (.home 0) ph
    let s := withReq (st loader) r
    tget s.reqs 4 = some r ∧ r.kind.returns = true ∧ s.thread? r.tid = some loader ∧ (∃ u ∈ loader.window, loader.window = [u] ∧ u.req = 4 ∧
      u.arrived = false ∧ u.fault = none) ∧ loader.wait = .none ∧ s.replyBehind 4 r = false ∧ r.fill = none := by decide +kernel

theorem wit_LoadReply_canonical : (withReq (st loader) (req .load 0x10000 1 (.home 0) (.fault 0x11))).Canonical := ⟨rfl, rfl, rfl, fun _ h => nomatch h⟩

/-- A thread with a store, request 4, unsettled, and four faults in its queue. -/
def storer : Thread := { th [] with stores := [⟨4, 9, 0⟩], sfq := List.replicate 4 ⟨1, 0, 0, false, 0, 0x11, 0, 0⟩ }

theorem wit_StoreAcknowledged : let r := req .store (coreWin 1 0) 1 (.core 1) (.done 0 false 0)
    let s := withReq (st storer) r
    tget s.reqs 4 = some r ∧ r.kind = .store ∧ s.thread? r.tid = some storer ∧ s.replyBehind 4 r = false := by decide +kernel

theorem wit_StoreFaultArrives : let r := req .store 0x20000 1 (.home 0) (.fault 0x11)
    (let s := withReq (st storer) r
     tget s.reqs 4 = some r ∧ r.kind = .store ∧ r.phase = .fault 0x11 ∧ s.thread? r.tid = some storer ∧ storer.fault = none ∧ storer.state = .running ∧
      storer.window = [] ∧ storer.wait = .none ∧ s.replyBehind 4 r = false ∧ storer.stores.any (fun x => x.req = 4) = true) ∧
    (let t := { storer with state := TState.faulted }
     let s := withReq (st t) r
     s.thread? r.tid = some t ∧ t.fault = none ∧ t.state = .faulted ∧ s.replyBehind 4 r = false ∧ t.stores.any (fun x => x.req = 4) = true) := by decide +kernel

theorem wit_WindowServed : ∀ k ∈ [ReqKind.load, .store, .amo 0],
    let r := req k (coreWin 1 0x6FFC) 4 (.core 1) .sent
    let s := withReq (st storer) r
    tget s.reqs 4 = some r ∧ r.phase = .sent ∧ s.windowBehind 4 r = false ∧ r.target = .core 1 ∧ placeOf s.bridge.chip (coreOf r.tid) r.addr = .core 1 0x6FFC ∧
      0 < r.len ∧ r.pos = 0 ∧ r.got = 0 ∧ touchesAgent r.addr r.len = false ∧
      (Spec.localBytes s (.core 1 0x6FFC) r.len).map (fun fs => s.localHeld r.tid fs || s.poisonedAt fs) = some false ∧ 1 < 2 ^ 20 := by
  decide +kernel

end Sys2Proof.Tests
end

