-- ==== Sys2Proof/Tests/WitnessSlice.lean ====
section
/-!
SUPPORT. Sys2Proof/Tests/WitnessSlice.lean: for each statement about watches, home slices, translation and the overflow queue, a
state and operands that meet its hypotheses together, clause by clause.
-/
set_option Elab.async false -- one test at a time: each waits for the kernel and holds a thread while it waits
namespace Sys2Proof.Tests
open Sys2Proof Sys2Proof.Machine

/-! ## Watches -/

abbrev watchHere (i : Instr) (n : Nat) (a : Word) (p : Place) : Prop :=
  let t := th [cap a, num 1]
  let s := pst t
  s.Issues t i ∧ Spec.watchPasses (t.reg 1) n ∧ (t.watch.getD 7 ⟨false, 0, 0⟩).armed = false ∧ s.firings = [] ∧
    placeOf s.bridge.chip (coreOf s.cur) (t.reg 1).lo = p ∧ (s.core 0).quarantined = false ∧ 0x6FFF < (s.core 0).tcmPlain ∧
    s.poisonedAt ((List.range 8).map (fun j => flatTcm 0 0x6FF8 + j)) = false ∧ s.ownStoreOver s.cur t (t.reg 1).lo n = false ∧
    s.releasePending t = false ∧ tget s.reqs s.nextReq = none

theorem wit_WatchArms : watchHere (.warm 3 1 7) 1 (tcm 0x6FFF) (.core 0 0x6FFF) ∧ watchHere (.warm 3 1 7) 1 (coreWin 1 0x40) (.core 1 0x40) ∧
    watchHere (.warm 3 1 7) 1 0x10000 (.glob 0x10000) := ⟨by decide +kernel, by decide +kernel, by decide +kernel⟩

/-- Zeros in the TCM: the thread sleeps for the value 1, and goes on for the value 0. -/
theorem wit_WaitForValue : watchHere (.waitge 1 2 .mod) 8 (tcm 0x6FF8) (.core 0 0x6FF8) ∧ watchHere (.waitge 1 2 .mod) 8 0x10000 (.glob 0x10000) ∧
    (let t := th [cap (tcm 0x6FF8), num 1]
     0x6FF8 + 8 ≤ ((pst t).core 0).tcmPlain ∧ ¬((t.reg 2).lo.toNat ≤ leNat ((List.range 8).map (fun j => (pst t).byteAt (flatTcm 0 0x6FF8 + j)))) ∧
      (t.reg 3).lo.toNat ≤ leNat ((List.range 8).map (fun j => (pst t).byteAt (flatTcm 0 0x6FF8 + j)))) :=
  ⟨by decide +kernel, by decide +kernel, by decide +kernel⟩

theorem wit_WatchFaults : ∀ e ∈ ([(num 0x40, 0x05), (sealOf (cap 0x40), 0x06), (makeCap 0x40 64 permLD, 0x08), (makeCap 0x40 7 (permLD ||| permWATCH), 0x07),
      (cap 0x44, 0x09), (cap 0x7000000000000000, 0x16), (cap (coreWin 0 0x100000000), 0x08)] : List (Reg × Byte)),
    let t := th [e.1]
    let c := t.reg 1
    (st t).Issues t (.waitge 1 2 .mod) ∧
    (if c.tag = false then some 0x05 else if c.sealed_ then some 0x06 else if c.has (permLD ||| permWATCH) = false then some 0x08
      else if (c.lo.toNat : Int) < (boundsOf c).1 ∨ (boundsOf c).2 < c.lo.toNat + 8 then some 0x07
      else if c.lo.toNat % 8 ≠ 0 then some 0x09
      else if canonical c.lo = false then some 0x16
      else if touchesAgent c.lo 8 then some 0x08 else none) = some e.2 := by decide +kernel

/-- Slot 7 armed on line 1; the thread in this wait. -/
def watcher (w : Wait) (x : TState) : Thread := { waiter with stores := [], wait := w, state := x }

theorem wit_WatchEvents_fire : let t := watcher .sleep .sleeping
    let s : State := { st t with firings := [⟨0, 7, false, 1⟩] }
    s.thread? 0 = some t ∧ t.fault = none ∧ s.firings[0]? = some ⟨0, 7, false, 1⟩ ∧ t.watch[7]? = some ⟨true, 1, 0⟩ ∧ t.wait = .sleep := by decide +kernel

theorem wit_WatchEvents_hidden : let t := watcher (.waitge 4 true) .sleeping
    let s : State := { st t with firings := [⟨0, 0, true, 1⟩] }
    s.thread? 0 = some t ∧ t.fault = none ∧ s.firings[0]? = some ⟨0, 0, true, 1⟩ ∧ t.wait = .waitge 4 true ∧ t.state = .sleeping := by decide +kernel

theorem wit_WatchEvents_armReply : let t := watcher (.warm 4 3 7) .running
    let r := req (.watch 7 false) 0x10000 1 (.home 0) (.done 9 false 0)
    let s := withReq (st t) r
    s.thread? 0 = some t ∧ t.fault = none ∧ t.wait = .warm 4 3 7 ∧ tget s.reqs 4 = some r ∧ r.phase = .done 9 false 0 ∧ s.replyBehind 4 r = false := by decide +kernel

theorem wit_WatchEvents_peerReply : let t := { watcher (.warm 4 3 7) .running with watch := [] }
    let r := req (.watch 7 false) 0x10000 1 (.home 0) .atHost
    let s := withReq (st t) r
    s.thread? 0 = some t ∧ t.fault = none ∧ t.wait = .warm 4 3 7 ∧ tget s.reqs 4 = some r ∧ r.phase = .atHost ∧
      s.replyBehind 4 r = false ∧ s.sentToHost 4 = false ∧ (t.watch.getD 7 ⟨false, 0, 0⟩).armed = false ∧ s.firings = [] := by decide +kernel

theorem wit_WatchEvents_peerFire : let t := watcher .sleep .sleeping
    (st t).thread? 0 = some t ∧ t.fault = none ∧ t.watch[(7 : BitVec 3).toNat]? = some ⟨true, 1, 0⟩ ∧
      (st t).hasRecord (fun x => x.isOf (st t).bridge.chip 0 7 false) = false := by decide +kernel

/-- The word read has the value waited for, 5, or one less. -/
theorem wit_WatchEvents_waitge : let t := watcher (.waitge 4 false) .running
    let r (v : Quad) := req (.watch 0 true) 0x10000 8 (.home 0) (.done v false 0)
    (withReq (st t) (r 5)).thread? 0 = some t ∧ t.wait = .waitge 4 false ∧ tget (withReq (st t) (r 5)).reqs 4 = some (r 5) ∧
      tget (withReq (st t) (r 4)).reqs 4 = some (r 4) ∧ (withReq (st t) (r 4)).thread? 0 = some t ∧ t.hidden = none ∧
      (withReq (st t) (r 5)).replyBehind 4 (r 5) = false ∧ (withReq (st t) (r 4)).replyBehind 4 (r 4) = false := by decide +kernel

theorem wit_WatchEvents_wdis : let t := watcher (.wdis 7 9) .running
    let s : State := (st t).setCluster 0 { Cluster.reset with watches := [⟨0, 1, 0, [⟨0, 0, 7, false, 0, 0⟩]⟩] }
    s.thread? 0 = some t ∧ t.fault = none ∧ t.wait = .wdis 7 9 ∧ s.sentBefore (coreOf 0) 9 (s.watchCores 0 t 7) = false ∧ s.firings = [] ∧ t.watch[7]? = some ⟨true, 1, 0⟩ ∧
      s.hasRecord (fun x => x.isOf s.bridge.chip 0 7 false) = true := by decide +kernel

theorem wit_WatchEvents_recheck : let t := { watcher (.waitge 4 true) .running with hiddenFired := true }
    let r := req (.watch 0 true) 0x10000 8 (.home 0) (.done 4 false 0)
    let s := withReq (pst t) r
    s.thread? 0 = some t ∧ t.fault = none ∧ t.wait = .waitge 4 true ∧ t.hiddenFired = true ∧ t.state = .running ∧ tget s.reqs 4 = some r ∧
      placeOf s.bridge.chip (coreOf 0) r.addr = .glob 0x10000 := by decide +kernel

theorem wit_WatchEvents_recheck_target : ∀ chip, (req (.watch 0 true) 0x10000 8 (.home 0) (.done 4 false 0)).target ≠ .peer chip := nofun

theorem wit_WatchEvents_hold : (st holder).thread? 0 = some holder ∧ holder.fault = none ∧ ∃ r, holder.resv = some r := ⟨by decide +kernel, rfl, _, rfl⟩

/-! ## The home slice -/

/-- The flat address of the mapped page; a location on it, cached or not. -/
def here (c : Bool) : Loc := ⟨0, 0x10000, 0, 0x10000, c⟩

/-- The state with another entry for the page. -/
def paged (s : State) (e : Nat) : State := { s with mem := memPutAll s.mem 0x5080 (leBytes 8 e) }

/-- Writable and not cacheable; held for a move; absent with a request asked. -/
def ncPage : Nat := 0x0100000000010227
def migPage : Nat := 0x01000000000100A7
def askPage : Nat := 2
/-- A host page over CXL, not cacheable. -/
def hostPage : Nat := 0x0100000000010627

theorem canon_of {s : State} (h : Memory.wf s.mem = true ∧ rising s.tags = true ∧ rising (s.dirty.map Prod.fst) = true ∧
    ∀ x ∈ s.dirty, x.2.bytes.length = 64 ∧ x.2.tags.length = 4) : s.Canonical := ⟨h.1, h.2.1, h.2.2.1, h.2.2.2⟩

abbrev findsAt (s : State) (r : Req) (dty : Bool) (l : Loc × Bool) : Prop :=
  tget s.reqs 4 = some r ∧ r.target = .home 0 ∧ s.homeReady 4 r = true ∧ (s.homeFind 4 r 0 dty).2 = some l

theorem wit_HomeRead_cached : let r := req .load 0x10FFF 1 (.home 0) .sent
    let s := withReq (pst loader) r
    let l : Loc := ⟨0, 0x10FFF, 0, 0x10FFF, true⟩
    let s1 := (s.homeFind 4 r 0 false).1
    let s2 := (s1.seeUnit 0 l.part l.line true).makesRoom 4 r l (s1.needsEntry l (coreOf r.tid) (s1.noE l r.hid))
    findsAt s r false (l, false) ∧ r.hint ≠ .b ∧ r.firstHalf l = false ∧ s1.poison = [] ∧ s2.2 = true ∧
      s2.1.ownerInWay l (coreOf r.tid) (s1.noE l r.hid) = none := by decide +kernel

/-- The last byte of a page that is not cached, sound, then marked poisoned; the first half of a quad of a host page. -/
theorem wit_HomeRead_direct : let r := req .load 0x10FFF 1 (.home 0) .sent
    let s := withReq (paged (pst loader) ncPage) r
    let l : Loc := ⟨0, 0x10FFF, 0, 0x10FFF, false⟩
    findsAt s r false (l, false) ∧ r.firstHalf l = false ∧ r.pos = 0 ∧ r.got = 0 ∧ (s.homeFind 4 r 0 false).1.viewPoisoned l r.hid r.len = false ∧
      findsAt (s.spoiled 0x10FFF 1) r false (l, false) ∧ ((s.spoiled 0x10FFF 1).homeFind 4 r 0 false).1.viewPoisoned l r.hid r.len = true := by
  decide +kernel

theorem wit_HomeRead_half : let r := { req .load 0x10FF0 16 (.home 0) .sent with host := true }
    let s : State := { withReq (paged (pst loader) hostPage) r with bridge := { (pst loader).bridge with hostUp := true } }
    let l : Loc := ⟨0, 0x10FF0, 0, flatHost 0x10FF0, false⟩
    findsAt s r false (l, false) ∧ r.firstHalf l = true ∧ (s.homeFind 4 r 0 false).1.viewPoisoned l r.hid 8 = false := by decide +kernel

/-- The state after its slice has looked the request up once: the translation is cached. -/
def looked (s : State) (r : Req) (dty : Bool) : State := { (s.homeFind 4 r 0 dty).1 with reqs := s.reqs }
def entryIn (s : State) : TlbEntry := (s.cluster 0).tlb.headD ⟨0, 0, 0, 0, 0, false⟩

abbrev mappedReady (s : State) (r : Req) (l : Loc) : Prop :=
  tget s.reqs 4 = some r ∧ r.target = .home 0 ∧ s.homeReady 4 r = true ∧ placedPart.homeOf r.addr.toNat = 0 ∧ s.refuted r.part r.hid = false ∧
    r.pos = 0 ∧ r.got = 0 ∧ r.hid = 0 ∧ placedPart.found (entryIn s) r.part r.addr.toNat = l ∧ r.firstHalf l = false ∧ s.viewPoisoned l 0 r.len = false ∧
    s.heldByOther (some r.tid) (s.resvOnLine l.part l.line l.flat) = false ∧ s.ovfFull l = false ∧ (s.cluster 0).unit? l.part l.line = none ∧
    (s.cluster 0).recordCount < 65536

theorem wit_HomeRead_mapped : let r := req .load 0x10FFF 1 (.home 0) .sent
    let s := looked (withReq (paged (pst loader) ncPage) r) r false
    s.Mapped r.part r.addr.toNat .read r.host placedPart (entryIn s) ∧ mappedReady s r ⟨0, 0x10FFF, 0, 0x10FFF, false⟩ :=
  ⟨mapped_of (by decide +kernel), by decide +kernel⟩

theorem wit_HomeWatch_mapped : let r := req (.watch 7 false) 0x10FFF 1 (.home 0) .sent
    let s := looked (withReq (pst (th [])) r) r false
    s.Mapped r.part r.addr.toNat .watch r.host placedPart (entryIn s) ∧ mappedReady s r ⟨0, 0x10FFF, 0, 0x10FFF, true⟩ ∧
      s.thread? r.tid = some (th []) ∧ ((th []).watch.getD 7 ⟨false, 0, 0⟩).armed = false ∧ s.firings = [] :=
  ⟨mapped_of (by decide +kernel), by decide +kernel⟩

theorem wit_HomeWatch : let r := req (.watch 7 false) 0x10000 1 (.home 0) .sent
    let s := withReq (pst (th [])) r
    findsAt s r false (here true, false) ∧ (s.homeFind 4 r 0 false).1.ownerInWay (here true) (coreOf r.tid) true = none ∧
      (((s.homeFind 4 r 0 false).1.seeUnit 0 0 0x400 true).givenUp 4 r (here true)).2 = true ∧ (((s.homeFind 4 r 0 false).1.disarm 0 7).bind (fun s2 => s2.placeGlobal 0 0 0x400 (r.watchRec s.bridge.chip 7 false))).isSome = true := by
  decide +kernel


abbrev storeReady (s : State) (r : Req) (l : Loc) : Prop :=
  findsAt s r true (l, false) ∧
    (let s1 := (s.homeFind 4 r 0 true).1
     s1.heldByOther (some r.tid) (s1.resvOnLine l.part l.line l.flat) = false ∧ s1.ovfFull l = false ∧ (s1.cluster l.cl).unit? l.part l.line = none ∧
      s1.effective r.part r.hid = 0 ∧ r.pos = 0 ∧ s1.viewPoisoned l r.hid r.len = false ∧ r.firstHalf l = false ∧ s1.dirty = [])

/-- The last word of the page, not cacheable, then cacheable. -/
theorem wit_HomeStore : storeReady (withReq (paged (pst storer) ncPage) (req .store 0x10FFC 4 (.home 0) .sent)) (req .store 0x10FFC 4 (.home 0) .sent)
    ⟨0, 0x10FFC, 0, 0x10FFC, false⟩ := by decide +kernel

theorem wit_HomeStore_mapped : let r := req .store 0x10FFC 4 (.home 0) .sent
    let s := looked (withReq (paged (pst storer) ncPage) r) r true
    s.Mapped r.part r.addr.toNat .write r.host placedPart (entryIn s) ∧ mappedReady s r ⟨0, 0x10FFC, 0, 0x10FFC, false⟩ ∧ s.Canonical :=
  ⟨mapped_of (by decide +kernel), by decide +kernel, canon_of (by decide +kernel)⟩

theorem wit_HomeAtomic_mapped : let r := req (.amo 9) 0x10FFC 4 (.home 0) .sent
    let s := looked (withReq (paged (pst loader) ncPage) r) r true
    s.Mapped r.part r.addr.toNat .amo r.host placedPart (entryIn s) ∧ mappedReady s r ⟨0, 0x10FFC, 0, 0x10FFC, false⟩ ∧ s.Canonical :=
  ⟨mapped_of (by decide +kernel), by decide +kernel, canon_of (by decide +kernel)⟩

/-- Of 16 bytes to a host page the lower half comes first. -/
theorem wit_HomeStore_half : let r := { req .store 0x10FF0 16 (.home 0) .sent with host := true }
    let s : State := { withReq (paged (pst storer) hostPage) r with bridge := { (pst storer).bridge with hostUp := true } }
    findsAt s r true (⟨0, 0x10FF0, 0, flatHost 0x10FF0, false⟩, false) ∧ r.firstHalf ⟨0, 0x10FF0, 0, flatHost 0x10FF0, false⟩ = true := by
  decide +kernel

theorem wit_HomeStore_canonical : ((withReq (paged (pst storer) ncPage) (req .store 0x10FFC 4 (.home 0) .sent)).homeFind 4
    (req .store 0x10FFC 4 (.home 0) .sent) 0 true).1.Canonical := canon_of (by decide +kernel)

theorem wit_HomeCachedStore : storeReady (withReq (pst storer) (req .store 0x10FFC 4 (.home 0) .sent)) (req .store 0x10FFC 4 (.home 0) .sent)
    ⟨0, 0x10FFC, 0, 0x10FFC, true⟩ ∧ 0x10FFC % 64 + 4 ≤ 64 := ⟨by decide +kernel, by decide⟩

theorem wit_HomeCachedStore_canonical : ((withReq (pst storer) (req .store 0x10FFC 4 (.home 0) .sent)).homeFind 4
    (req .store 0x10FFC 4 (.home 0) .sent) 0 true).1.Canonical := canon_of (by decide +kernel)

theorem wit_HomeAtomic : storeReady (withReq (paged (pst loader) ncPage) (req (.amo 9) 0x10FFC 4 (.home 0) .sent)) (req (.amo 9) 0x10FFC 4 (.home 0) .sent)
    ⟨0, 0x10FFC, 0, 0x10FFC, false⟩ := by decide +kernel

theorem wit_HomeAtomic_canonical : ((withReq (paged (pst loader) ncPage) (req (.amo 9) 0x10FFC 4 (.home 0) .sent)).homeFind 4
    (req (.amo 9) 0x10FFC 4 (.home 0) .sent) 0 true).1.Canonical := canon_of (by decide +kernel)

theorem some_some {α β : Type} {r : α × Option β} {b : β} (h : r.2 = some b) : ∃ s1, r = (s1, some b) := some_pair h

/-! ## Slice events -/

/-- The request of a store that the slice keeps in this phase, at a cycle past every limit. -/
def kept (ph : Phase) : State := { withReq (pst storer) (req .store 0x10000 4 (.home 0) ph) with cycle := 2 ^ 40 }

theorem wit_SliceEvents_phases : ∀ ph ∈ [Phase.retry (2 ^ 40), .migrating 0, .version 0],
    tget (kept ph).reqs 4 = some (req .store 0x10000 4 (.home 0) ph) ∧ (kept ph).holdLimit 0 ≤ (kept ph).cycle - 0 ∧ 2 ^ 40 ≤ (kept ph).cycle := by decide +kernel

theorem wit_SliceEvents_probe : let s : State := { kept .probing with probes := [⟨0, 0, 0x400, false, 4⟩] }
    (tget s.reqs 4).isSome = true ∧ s.probes[0]? = some ⟨0, 0, 0x400, false, 4⟩ ∧ s.fillOnWay 0 0 0x400 = false := by decide +kernel

theorem wit_SliceEvents_ticket : let s : State := (kept (.ticket 9)).setCluster 0 { Cluster.reset with tickets := [⟨9, 4, 0, 0x400, 0, 2 ^ 40 - 2 ^ 20⟩] }
    (tget s.reqs 4).isSome = true ∧ (s.cluster 0).tickets.find? (fun t => t.id = 9) = some ⟨9, 4, 0, 0x400, 0, 2 ^ 40 - 2 ^ 20⟩ ∧
      2 ^ 40 - 2 ^ 20 + 2 ^ 20 ≤ s.cycle ∧ (s.cluster 0).ovfQ.length < 1024 := by decide +kernel

theorem wit_SliceEvents_merge : let s : State := (kept .sent).setCluster 0 { Cluster.reset with
      dir := [⟨0, 0x400, 0, .owned 3, 0, 0⟩, ⟨0, 0x401, 0, .owned 3, 0, 0⟩] }
    (tget s.reqs 4).isSome = true ∧ 0x400 < 0x401 ∧ 0x400 % 2 = 0 ∧
      (s.cluster 0).dir = [⟨0, 0x400, 0, .owned 3, 0, 0⟩, ⟨0, 0x401, 0, .owned 3, 0, 0⟩] ∧ 65536 ≤ s.cycle := by decide +kernel

theorem wit_SliceEvents_grant : let s := kept (.version (2 ^ 40))
    tget s.reqs 4 = some (req .store 0x10000 4 (.home 0) (.version s.cycle)) ∧ s.reqs = [(4, req .store 0x10000 4 (.home 0) (.version s.cycle))] ∧
      s.needsRoom ⟨0, 0x10000, 0, 0, true⟩ (s.effective 0 0) = false := by decide +kernel

/-! ## Cache control -/

/-- Operands of a command: c1, c2 and the cell in c3. -/
def cmdThread (a b : Reg) : Thread := th [a, b, cap (tcm 0x40)]

abbrev ccGo (s : State) (t : Thread) (i : Instr) (op : CcOp) : Prop :=
  s.Issues t i ∧ Spec.okRel cxRel t ∧ Spec.ccPasses t op 1 2 3

/-- How far a range of `n` bytes at the operand's cursor gets. -/
def ccEnd (s : State) (t : Thread) (op : CcOp) (n : Nat) : Acc Unit :=
  (s.ccFrom op (t.cmd s.cur cxRel (t.reg 3)).party (t.reg 1).hostBit .none (((t.reg 1).lo.toNat + n - 1) / 64 - (t.reg 1).lo.toNat / 64 + 1)
    ((t.reg 1).lo.toNat / 64)).2.1

theorem wit_CacheControl_forms : Spec.ccForm (.ccFls 1 2 3 cxRel) = some (.fls, .none, 1, 2, 3, cxRel) ∧
    Spec.ccForm (.ccInv 1 2 3 cxRel) = some (.inv, .none, 1, 2, 3, cxRel) := ⟨rfl, rfl⟩

theorem wit_CacheControl_nothing : let t := cmdThread (cap 0x10000) (num 0)
    let w := cmdThread (cap (tcm 0)) (num (2 ^ 32))
    ccGo (pst t) t (.ccFls 1 2 3 cxRel) .fls ∧ (t.reg 2).bits.toNat = 0 ∧ ccGo (pst w) w (.ccFls 1 2 3 cxRel) .fls ∧ (w.reg 1).lo.getLsbD 63 = true := by
  decide +kernel

/-- Both lines of 65 bytes that cross a line's end; a page that is absent; a page held for a move. -/
theorem wit_CacheControl_done : let t := cmdThread (cap 0x10000) (num 65)
    ccGo (pst t) t (.ccFls 1 2 3 cxRel) .fls ∧ (t.reg 1).lo.getLsbD 63 = false ∧ isOk (ccEnd (pst t) t .fls 65) = true := by decide +kernel

theorem wit_CacheControl_fault : let t := cmdThread (cap 0x11000) (num 64)
    ccGo (pst t) t (.ccFls 1 2 3 cxRel) .fls ∧ ccEnd (pst t) t .fls 64 = .fault 0x10 := by decide +kernel

theorem wit_CacheControl_hold : let t := cmdThread (cap 0x10000) (num 65)
    ccGo (paged (pst t) migPage) t (.ccInv 1 2 3 cxRel) .inv ∧ ccEnd (paged (pst t) migPage) t .inv 65 = .hold := by decide +kernel

theorem wit_CacheLineEffect : (pst (th [])).Canonical ∧ (pst (th [])).NoStale := ⟨pst_canonical _, fun _ h => nomatch h⟩

/-! ## The darner -/

abbrev darns (t : Thread) : Prop := Spec.okRel cxRel t ∧ Spec.okCell (t.reg 3) ∧ (t.reg 3).has permDIRH = true ∧ (t.hid = 0 ∨ (t.reg 3).unv = true)

/-- Slice 0 with this darner, `dx.next` and tickets. -/
def slice (t : Thread) (d : Option Nat) (w : Option (Cmd × Nat × Reg)) (tk : List Ticket) : State :=
  (st t).setCluster 0 { Cluster.reset with darner := d, dxWait := w, tickets := tk }

theorem wit_DarnerCommands_next : let t := cmdThread (cap 0x10020) (num 1024)
    let w := (t.cmd 0 cx (t.reg 3), 1, t.reg 1)
    darns t ∧ (slice t none none []).Issues t (.dxNext 1 2 3 cxRel) ∧ 1 ≤ (t.reg 2).bits.toNat ∧ (t.reg 2).bits.toNat ≤ 1024 ∧
      Spec.okOperand (t.reg 1) (permST ||| permENG) (32 * (t.reg 2).bits.toNat) ∧ (t.reg 1).lo.toNat % 32 = 0 ∧
      (slice t (some 1) none []).Issues t (.dxNext 1 2 3 cxRel) ∧ ((slice t (some 1) none []).cluster 0).darner = some 1 ∧
      (slice t (some 0) (some w) []).Issues t (.dxNext 1 2 3 cxRel) ∧ ((slice t (some 0) (some w) []).cluster 0).dxWait.isSome = true ∧
      ((slice t none none []).cluster 0).darner = none ∧ ((slice t none none []).cluster 0).dxWait = none := by decide +kernel

theorem wit_DarnerCommands_done : let t := cmdThread (num 0xFFFF) (num 0)
    darns t ∧ (slice t none none []).Issues t (.dxDone 1 2 3 cxRel) ∧ (t.reg 1).bits.toNat < 2 ^ 16 ∧ (t.reg 2).bits = 0 ∧
      ((slice t none none []).cluster 0).darner ≠ some (slice t none none []).cur ∧
      (slice t (some 0) none [⟨0xFFFF, 4, 0, 0, 0, 0⟩]).Issues t (.dxDone 1 2 3 cxRel) ∧
      ((slice t (some 0) none [⟨0xFFFF, 4, 0, 0, 0, 0⟩]).cluster 0).tickets.find? (fun u => u.id = (t.reg 1).bits.toNat) = some ⟨0xFFFF, 4, 0, 0, 0, 0⟩ ∧
      (∀ u ∈ ((slice t (some 0) none [⟨1, 4, 0, 0, 0, 0⟩]).cluster 0).tickets, u.id ≠ (t.reg 1).bits.toNat) := by decide +kernel

/-- An invalidation of the largest unit at core 0, and a wake of the hidden watch of thread 5. -/
theorem wit_DarnerCommands_inv : let t := cmdThread (num 0x0000001FF0000000) (num 0x1000A)
    let w := cmdThread (num 0x1800000000000005) (num 0x10000)
    darns t ∧ (slice t (some 0) none []).Issues t (.dxInvInvalidate 1 2 3 cxRel) ∧ (slice t (some 0) none []).dxInvBad (t.reg 1).bits (t.reg 2).bits = false ∧
      dxOp (t.reg 1).bits = 0 ∧ (slice w (some 0) none []).Issues w (.dxInvWake 1 2 3 cxRel) ∧
      (slice w (some 0) none []).dxInvBad (w.reg 1).bits (w.reg 2).bits = false ∧ dxOp (w.reg 1).bits = 1 ∧
      ((slice t none none []).Issues t (.dxInvInvalidate 1 2 3 cxRel) ∧ ((slice t none none []).cluster 0).darner ≠ some 0) := by decide +kernel

/-! ## Translation -/

abbrev xlats (t : Thread) : Prop := Spec.okRel cxRel t ∧ Spec.okCell (t.reg 3) ∧ (t.hid = 0 ∨ (t.reg 3).unv = true)

theorem wit_TranslationCommands_xinv : let t := cmdThread (cap 0) (num (2 ^ 48))
    let z := cmdThread (cap 0) (num 0)
    (xlats t ∧ (pst t).Issues t (.xinv 1 2 3 cxRel) ∧ Spec.okRange (t.reg 1) (t.reg 2).bits.toNat ∧ (pst t).reqs = []) ∧
      xlats z ∧ (pst z).Issues z (.xinv 1 2 3 cxRel) ∧ (z.reg 2).bits = 0 ∧ Spec.authorises (z.reg 1) permXLAT 0 (2 ^ 57) ∧
      canonical (z.reg 1).lo = true ∧ (z.reg 1).lo.getLsbD 63 = false := by decide +kernel

theorem wit_TranslationCommands_xprobe : let t := cmdThread (cap 0x10FFF) (cap (tcm 0x80))
    let s := pst t
    xlats t ∧ s.Issues t (.xprobe 1 2 3 cxRel) ∧ Spec.okOperand (t.reg 1) permXLAT 1 ∧ (t.reg 1).lo.getLsbD 63 = false ∧
      Spec.okOperand (t.reg 2) (permST ||| permENG) 32 ∧ (t.reg 2).lo.toNat % 32 = 0 ∧ tget s.parts t.part = some placedPart ∧
      isOk ((s.probe placedPart t.part 0x10FFF).1.engWrite (t.cmd s.cur cxRel (t.reg 3)).party (t.reg 2).lo (s.probe placedPart t.part 0x10FFF).2
        (t.reg 2).hostBit (t.reg 2).unv false).2 = true ∧ (hereAt s (coreOf s.cur) (t.reg 2).lo 32).isSome = true := by decide +kernel

/-- The leaf of the mapped page, the whole range of a command. -/
def leafHere : Leaf := ⟨0, 12, 0, 0x0100000000010027, 0x5080⟩

/-- The state with a request to the page on its way. -/
def passing (s : State) : State := withReq s (req .load 0x10000 4 (.home 0) .atHost)

theorem wit_PageCommands_pgdisc : let t := cmdThread (cap 0x10000) (num 4096)
    let s := pst t
    let r := leafHere.span t.part 0x10000
    let gone := ((passing s).markLeaf leafHere r 0x100#64).releaseHeld r
    xlats t ∧ s.Issues t (.pgdisc 1 2 3 cxRel) ∧ (t.reg 2).bits.toNat = 4096 ∧ Spec.okPages (t.reg 1) 4096 ∧
      s.leafIn t.part 0x10000 4096 0 = .inl leafHere ∧ Spec.quiet s r ∧ leafHere.next = 4096 ∧
      (passing s).leafIn t.part 0x10000 4096 0 = .inl leafHere ∧ gone.unperformed r gone.nextReq = true := by decide +kernel

/-- A page that no leaf maps; half of a 64 KiB leaf. -/
theorem wit_PageCommands_ends : let t := cmdThread (cap 0x11000) (num 4096)
    let s := pst t
    (xlats t ∧ s.Issues t (.pgdisc 1 2 3 cxRel) ∧ (t.reg 2).bits.toNat = 4096 ∧ Spec.okPages (t.reg 1) 4096 ∧
      s.leafIn t.part 0x11000 4096 0 = .inr (0x10, 0)) ∧
    (paged s 0x0100000000010067).leafIn t.part 0x10000 4096 0 = .inr (0x30, 0) := by decide +kernel

/-- The same page moved to device page 0x20 under key 1. -/
theorem wit_PageCommands_pgmig : let t := cmdThread (cap 0x10000) ⟨4096#64 ++ 0x0100000000020000#64, false⟩
    let s := pst t
    let r := leafHere.span t.part 0x10000
    let moving := (passing s).markLeaf leafHere r 0x80#64
    xlats t ∧ s.Issues t (.pgmig 1 2 3 cxRel) ∧ (t.reg 2).bits.toNat / 2 ^ 64 = 4096 ∧ (t.reg 2).bits.toNat % 2 ^ 9 = 0 ∧ Spec.okPages (t.reg 1) 4096 ∧
      s.leafIn t.part 0x10000 4096 0 = .inl leafHere ∧ ppnOk (pteTgt (t.reg 2).lo) (ptePpn (t.reg 2).lo) 12 = true ∧ Spec.quiet s r ∧
      leafHere.next = 4096 ∧ pteTgt (t.reg 2).lo = 0 ∧ pteTgt leafHere.e = 0 ∧ s.poison = [] ∧
      (passing s).leafIn t.part 0x10000 4096 0 = .inl leafHere ∧ moving.unperformed r moving.nextReq = true := by decide +kernel

/-- A placement in another module has a page number below 2^31. -/
theorem wit_PageCommands_pgmig_place : ppnOk (pteTgt 0x0100080000000C00#64) (ptePpn 0x0100080000000C00#64) 12 = false := by decide +kernel

theorem wit_DiscardedLeaf : (pst (th [])).Canonical := pst_canonical _

end Sys2Proof.Tests
end

