-- ==== Sys2Proof/Tests/WitnessAgent.lean ====
section
/-!
SUPPORT. Sys2Proof/Tests/WitnessAgent.lean: for each statement about agents, fault records, dispatch, copies and messages, a state
and operands that meet its hypotheses together, clause by clause.
-/
set_option Elab.async false -- one test at a time: each waits for the kernel and holds a thread while it waits
namespace Sys2Proof.Tests
open Sys2Proof Sys2Proof.Machine

/-! ## Agents -/

/-- A thread with every right over core 0 (an entry of kind 2). -/
def chief (a b : Reg) : Thread := { cmdThread a b with auth := (0x01FF0000000002FF : Word) :: List.replicate 31 0 }

/-- The reference of thread 1 of the own module. -/
def ref1 : Reg := num 0x1FF0000001

/-- Beside the current thread, thread 1 of core 0. -/
def duo (t u : Thread) : State := (st t).setThread 1 u

abbrev accepts (i : Instr) (op : AgentOp) (t : Thread) : Prop :=
  let s := duo t { Thread.blank with state := .stopped }
  s.Issues t i ∧ Spec.okRel cxRel t ∧ Spec.agentPasses s t op 1 2 3

theorem wit_AgentCommandAccepted_tstart : Spec.agentForm (.tstart 1 2 3 cxRel) = some (.tstart, 1, 2, 3, cxRel) ∧
    accepts (.tstart 1 2 3 cxRel) .tstart (chief ref1 (num 1)) := by
  refine ⟨rfl, ?_, ?_, ?_, ?_, ?_, ?_, ?_, ?_, ?_, ?_⟩ <;> decide +kernel

theorem wit_AgentCommandAccepted_tread : Spec.agentForm (.tread 1 2 3 cxRel) = some (.tread, 1, 2, 3, cxRel) ∧
    accepts (.tread 1 2 3 cxRel) .tread (chief ref1 (cap (tcm 0x800))) := by
  refine ⟨rfl, ?_, ?_, ?_, ?_, ?_, ?_, ?_, ?_, ?_, ?_⟩ <;> decide +kernel

theorem wit_AgentCommandAccepted_tstatCluster : Spec.agentForm (.tstatCluster 1 2 3 cxRel) = some (.tstat, 1, 2, 3, cxRel) ∧
    (let t := { cmdThread (num 0xC000001FF0000000) (cap (tcm 0x800)) with auth := (0x01FF000000000420 : Word) :: List.replicate 31 0 }
     (duo t Thread.blank).Issues t (.tstatCluster 1 2 3 cxRel) ∧ Spec.okRel cxRel t ∧ Spec.agentPasses (duo t Thread.blank) t .tstat 1 2 3) := by
  refine ⟨rfl, ?_, ?_, ?_, ?_, ?_, ?_, ?_, ?_, ?_, ?_⟩ <;> decide +kernel

theorem wit_AgentCommandAccepted_spawn : Spec.agentForm (.spawn 1 2 3 cxRel) = some (.spawn, 1, 2, 3, cxRel) ∧
    accepts (.spawn 1 2 3 cxRel) .spawn (chief (cap (tcm 0x800)) (num 0xFFFFF)) := by
  refine ⟨rfl, ?_, ?_, ?_, ?_, ?_, ?_, ?_, ?_, ?_, ?_⟩ <;> decide +kernel

/-- A reserved bit of the reference; a cell that is no capability; no authority. -/
theorem wit_AgentCommandFaults : Spec.agentForm (.tstop 1 2 3 cxRel) = some (.tstop, 1, 2, 3, cxRel) ∧
    (∀ t ∈ [chief (num 0x2000000000) (num 0), { chief ref1 (num 0) with regs := regsOfList [ref1, num 0, num 5] }, cmdThread ref1 (num 0)],
      (st t).Issues t (.tstop 1 2 3 cxRel) ∧ Spec.okRel cxRel t) ∧
    refBad .tstop (num 0x2000000000).bits = true ∧ refBad .tstop ref1.bits = false ∧ dataBad .tstop (num 0).bits = false ∧ refChip ref1.bits = 0x1FF ∧
    Spec.okCell ((cmdThread ref1 (num 0)).reg 3) ∧ (st (cmdThread ref1 (num 0))).agentAuthority (cmdThread ref1 (num 0)) .tstop ref1.bits 0 ≠ none :=
by
  refine ⟨rfl, ?_, ?_, ?_, ?_, ?_, ?_, ?_⟩ <;> decide +kernel

/-- An accepted command of thread 0 over thread 1. -/
def asked (op : AgentOp) (b : Reg) : AgentCmd :=
  { cmd := (cmdThread ref1 b).cmd 0 cx (cap (tcm 0x40)), member := op.code, a := ref1, b := b, target := 1, entries := [], accepted := true, phase := 0, sent := 0, peer := none }

abbrev applies (u : Thread) (q : AgentCmd) (op : AgentOp) : Prop :=
  let s := duo (th []) u
  q.peer = none ∧ q.phase = 0 ∧ q.accepted = true ∧ s.refuted q.cmd.part q.cmd.hid = false ∧ s.chipOf (refChip q.a.bits) = s.bridge.chip ∧ refKind q.a.bits = false ∧
    (s.core (coreOf q.target)).quarantined = false ∧ AgentOp.ofCode q.member = op ∧ op ≠ .spawn ∧ q.member < 9 ∧ s.thread? q.target = some u ∧ u.fault = none

theorem wit_AgentEffects_free : let q := asked .arevoke (num 0)
    let s := st (th [])
    q.peer = none ∧ q.phase = 0 ∧ q.accepted = true ∧ s.refuted q.cmd.part q.cmd.hid = false ∧ s.chipOf (refChip q.a.bits) = s.bridge.chip ∧ refKind q.a.bits = false ∧
      (s.core (coreOf q.target)).quarantined = false ∧ AgentOp.ofCode q.member = .arevoke ∧ q.member < 9 ∧ s.thread? q.target = none := by decide +kernel

/-- Four queued faults; the last place of a table of authority free, none free. -/
def fourFaults : List SfEntry := List.replicate 4 ⟨1, 0, 0, false, 0, 0x11, 0, 0⟩
def fullAuth : List Word := List.replicate 32 0x01FF0000000001FF

theorem wit_AgentEffects_start : let rest : Thread := { Thread.blank with state := .stopped }
    applies { Thread.blank with state := .running } (asked .tstart (num 0)) .tstart ∧ applies rest (asked .tstart (num 0)) .tstart ∧ rest.sfq = [] ∧
      (duo (th []) rest).refuted rest.part rest.hid = false ∧ applies { rest with sfq := fourFaults } (asked .tstart (num 1)) .tstart ∧
      (asked .tstart (num 1)).b.bits.getLsbD 0 = true ∧ applies { rest with sfq := fourFaults } (asked .tstart (num 0)) .tstart := by decide +kernel

theorem wit_AgentEffects_stop : applies (th []) (asked .tstop (num 0)) .tstop ∧ (th []).state = .running ∧ (th []).window = [] ∧ (th []).stores = [] ∧
    (th []).wait = .none ∧ (asked .tstop (num 0)).b.bits.getLsbD 0 = false := by decide +kernel

theorem wit_AgentEffects_grant : let u : Thread := { Thread.blank with auth := lset fullAuth 31 0 }
    applies u (asked .agrant (num 0x01FF0000000001FF)) .agrant ∧ (List.range 32).find? (fun j => decide (entKind (u.auth.getD j 0) = 0)) = some 31 := by
  decide +kernel

theorem wit_AgentEffects_grantFull : let u : Thread := { Thread.blank with auth := fullAuth }
    applies u (asked .agrant (num 0x01FF0000000001FF)) .agrant ∧ ∀ j, j < 32 → entKind (u.auth.getD j 0) ≠ 0 := by decide +kernel

theorem wit_AgentEffects_revoke : let u : Thread := { Thread.blank with auth := fullAuth }
    applies u (asked .arevoke (num 0x80000000)) .arevoke ∧ ∃ j, j < 32 ∧ (asked .arevoke (num 0x80000000)).b.bits.getLsbD j = true ∧
      entKind (u.auth.getD j 0) ≠ 0 := by decide +kernel

/-! ## Fault records and ends -/

/-- A thread with this fault pending and its record line. -/
def faulty (line : Word) : Thread := { th [] with fault := some ⟨0x3F, 5, .none, 7, 0x4100, 0x10002, 0, .faulted⟩, faultrec := line }

theorem wit_FaultRecordWritten : let t := faulty (tcm 0x40)
    let u := faulty 0x40
    (st t).thread? 0 = some t ∧ t.stores = [] ∧ isOk ((st t).engWrite (t.agentParty 0) t.faultrec ((st t).recordOf 0 t
        ⟨0x3F, 5, .none, 7, 0x4100, 0x10002, 0, .faulted⟩) true true true).2 = true ∧
      (hereAt (st t) (coreOf 0) t.faultrec 64).isSome = true ∧ t.faultrec.toNat % 64 = 0 ∧ (st u).thread? 0 = some u ∧ ((st u).engWrite (u.agentParty 0) u.faultrec ((st u).recordOf 0 u
        ⟨0x3F, 5, .none, 7, 0x4100, 0x10002, 0, .faulted⟩) true true true).2 = .fault 0x10 := by decide +kernel

theorem wit_FaultRecordLayout : let t := { faulty (tcm 0x40) with hid := 4095, depth := 15, load := 2 ^ 32 - 1, sfq := fourFaults }
    (0x3F : Byte) ≠ 0x18 ∧ 7 < 8 ∧ 2 ^ 28 - 1 < 2 ^ 28 ∧ (st t).bridge.chip < 2 ^ 9 ∧ t.load < 2 ^ 32 ∧ 2 ^ 64 - 1 < 2 ^ 64 ∧ t.hid < 2 ^ 12 ∧ t.depth < 2 ^ 4 := by
  decide +kernel

/-- A thread at an `exit` with nothing outstanding; a thread at a `sleep`, with pend and without. -/
theorem wit_ExitEndsThread_issues : let t := th []
    let u := { th [] with pend := true }
    (st t).Issues t .exit ∧ t.stores = [] ∧ t.sfq = [] ∧ (st t).hasCommands (st t).cur = false ∧ tget (st t).loads t.load = none ∧
      rising (((st t).core (coreOf (st t).cur)).threads.map Prod.fst) = true ∧ (st t).Issues t .sleep ∧ t.pend = false ∧ (st u).Issues u .sleep := by
  decide +kernel

theorem wit_ExitEndsThread : let t := { th [] with wait := .exit }
    (st t).thread? 0 = some t ∧ t.wait = .exit ∧ t.state = .running ∧ t.fault = none ∧ t.window = [] ∧ t.stores = [] ∧ t.sfq = [] ∧
      (st t).hasCommands 0 = false ∧ tget (st t).loads t.load = none ∧ rising (((st t).core (coreOf 0)).threads.map Prod.fst) = true := by decide +kernel

/-! ## Dispatch -/

/-- A queue whose descriptor stands at 0x800 of the TCM of core 0 and whose ring at 0x1000, of 16 slots. -/
def queueAt0 (dev : Bool) (published read : Nat) : Queue :=
  { part := 0, addr := tcm 0x800, mint := rootCap, ring := tcm 0x1000, control := if dev then 0x104 else 0x4, template := 0, read := read
    count := published, parents := [], valid := [], lost := 0, head := none, seen := published, watch := none }

def queued (q : Queue) (t : Thread) : State := { pst t with queues := [(3, q)] }

theorem wit_LaunchQueues_watch : let d := queueAt0 false 0 0
    let s := queued d (th [])
    tget s.queues 3 = some d ∧ d.isDevice = false ∧ s.steward.power = .aster ∧ d.watch.any s.watching = false ∧
      isOk ((s.dropWatch d.watch).fresh.1.engWatch (rootParty d.part) 0 (d.addr + 0x20) 8 true (s.dropWatch d.watch).fresh.2).2 = true ∧
      (hereAt s 0 (d.addr + 0x20) 8).isSome = true ∧ (d.addr + 0x20).toNat % 8 = 0 ∧ (hereAt s 0 (d.addr + 0x20) 8).map (fun fs => leNat (s.bytesOf fs)) = some 0 ∧
      d.read ≤ 0 ∧ 0 ≤ d.read + 2 ^ d.lslots := by decide +kernel

theorem wit_LaunchQueues_restore : let d := queueAt0 true 5 0
    let s := queued d (th [])
    d.isDevice = true ∧ (s.descRead d 0x20).2 = .ok 0 ∧ 0 ≠ d.count ∧ isOk ((s.descRead d 0x20).1.descWrite d 0x20 d.count).2 = true ∧
      (hereAt s 0 (d.addr + 0x20) 8).isSome = true := by decide +kernel

theorem wit_LaunchQueues_accept : let d := queueAt0 true 1 0
    let s := queued d (th [])
    d.head = none ∧ d.read < d.published ∧ isOk (s.engRead (rootParty d.part) (d.slotAt d.read) 128 true).2 = true ∧
      isOk ((s.engRead (rootParty d.part) (d.slotAt d.read) 128 true).1.descWrite d 0x28 (d.read + 1)).2 = true ∧
      (hereAt s 0 (d.slotAt d.read) 64).isSome = true ∧ (hereAt s 0 (d.slotAt d.read + 64) 64).isSome = true ∧ (d.slotAt d.read).toNat % 64 = 0 ∧
      (hereAt s 0 (d.addr + 0x28) 8).isSome = true ∧ (d.addr + 0x28).toNat % 8 = 0 := by decide +kernel

/-- A basket of a packet of zeros, its wait cell at offset 0x80 of the TCM. -/
def basket0 : Basket :=
  { pkt := ⟨lset (List.replicate 16 0) 10 (tcm 0x80), rootCap, rootCap⟩, part := 0, queue := 3, parent := none, scope := .mod, outstanding := 0
    live := 0, failed := 0, admitted := true, placed := [], early := none, done := false }

theorem wit_LaunchQueues_wait : let d := { queueAt0 true 1 0 with head := some ⟨7, true, 0, none, false, none⟩ }
    let s := { queued d (th []) with baskets := [(7, basket0)] }
    tget s.queues 3 = some d ∧ tget s.baskets 7 = some basket0 ∧
      isOk ((s.dropWatch none).fresh.1.engWatch (rootParty 0) 0 (basket0.pkt.word 10) 8 basket0.pkt.data.hostBit (s.dropWatch none).fresh.2).2 = true ∧
      (hereAt s 0 (basket0.pkt.word 10) 8).isSome = true ∧ (basket0.pkt.word 10).toNat % 16 = 0 ∧ (basket0.pkt.word 11).toNat ≤ 0 := by decide +kernel

abbrev publishes (d : Queue) : Prop :=
  let t := cmdThread (cap (tcm 0x800)) (cap (tcm 0x400))
  let s := queued d t
  s.Issues t (.qpub 1 2 3 cxRel) ∧ Spec.okRel cxRel t ∧ Spec.okCell (t.reg 3) ∧ Spec.okOperand (t.reg 1) (permST ||| permENG) 64 ∧ (t.reg 1).lo.toNat % 64 = 0 ∧
    Spec.okOperand (t.reg 2) (permLD ||| permENG) 128 ∧ (t.reg 2).lo.toNat % 64 = 0 ∧ (t.hid = 0 ∨ (t.reg 3).unv = true) ∧
    s.refuted t.part t.hid = false ∧ s.laneBusy ((t.cmd s.cur cxRel (t.reg 3)).inQueue (t.reg 1).lo).lane = false ∧ s.queueAt t.part (t.reg 1).lo = some (3, d) ∧ d.isDevice = true

theorem wit_LaunchQueues_full : publishes (queueAt0 true 16 0) ∧ (queueAt0 true 16 0).count - (queueAt0 true 16 0).read = 2 ^ (queueAt0 true 16 0).lslots := by
  decide +kernel

theorem wit_LaunchQueues_room : let d := queueAt0 true 15 0
    let t := cmdThread (cap (tcm 0x800)) (cap (tcm 0x400))
    let p := (t.cmd 0 cxRel (t.reg 3)).party
    let s1 := ((queued d t).engRead p (t.reg 2).lo 128 (t.reg 2).hostBit).1
    let s2 := (s1.engWrite (rootParty d.part) (d.slotAt d.count) (zeroBytes 128) true true true).1
    let s3 := (s2.descWrite d 0x20 (d.count + 1)).1
    publishes d ∧ d.count - d.read ≠ 2 ^ d.lslots ∧ ((queued d t).engRead p (t.reg 2).lo 128 (t.reg 2).hostBit).2 = .ok (zeroBytes 128) ∧
      (imgWord (zeroBytes 128) 0).toNat / 2 ^ 38 % 4 ≤ t.ceil ∧
      isOk (s1.engWrite (rootParty d.part) (d.slotAt d.count) (zeroBytes 128) true true true).2 = true ∧
      isOk (s2.descWrite d 0x20 (d.count + 1)).2 = true ∧ (s3.basketOf t).isNone = true := by decide +kernel

/-- A load of one member, being pre-empted, whose context block stands in the TCM. -/
def load0 : Load :=
  { basket := 7, index := 0, cluster := 0, core0 := 0, cores := 1, tpc := 1, prio := 0, mtx := false, ring := false, state := .stopping, heldAt := 0
    members := [0], kept := [] }

def stoppingLoad : State :=
  { st { th [] with state := .ready, tier := .parked, held := true, load := 9, ctx := tcm 0x800 } with loads := [(9, load0)], baskets := [(7, basket0)] }

theorem wit_Dispatching_preempt : tget stoppingLoad.loads 9 = some load0 ∧ tget stoppingLoad.baskets load0.basket = some basket0 ∧
    (let s0 := (stoppingLoad.preemptQueue 0 9).endSuspended 0 9
     (load0.members.map coreOf).eraseDups = [0] ∧ load0.members.all s0.settledMember = true ∧
      (s0.thread? 0).isSome = true ∧ (∀ t ∈ s0.thread? 0, t.ctx.toNat % 64 = 0 ∧
        ∀ k, k < 16 → (hereAt s0 (coreOf 0) (t.ctx + BitVec.ofNat 64 (64 * k)) 64).isSome = true) ∧ ∀ t ∈ s0.thread? 0, isOk (s0.engWrite (t.agentParty 0) t.ctx (t.hotImage 0) t.ctxHost true true).2 = true) := by decide +kernel

theorem wit_Dispatching_basket : tget stoppingLoad.baskets 7 = some basket0 ∧ basket0.admitted = true ∧ basket0.live = 0 ∧ basket0.outstanding = 0 ∧
    basket0.done = false ∧ stoppingLoad.publishes 7 = false := by decide +kernel

/-- A held write of a thread's completion cell, and one that has failed at its second word. -/
def cell0 (f : Option (Byte × Nat)) : CellWrite := ⟨(cmdThread ref1 ref1).cmd 0 cx (cap (tcm 0x40)), 0, 1, f, 0, 0, []⟩

theorem wit_Dispatching_cells : let s (f : Option (Byte × Nat)) : State := { st (th []) with cellQ := [cell0 f] }
    (s none).cellQ[0]? = some (cell0 none) ∧ (cell0 none).kind ≠ 20 ∧ (cell0 none).kind ≠ 21 ∧ (cell0 none).failed = none ∧
      cellsWait ((s none).cellQ.take 0) (cell0 none).cmd.lane = false ∧
      (s (some (0x10, 8))).cellQ[0]? = some (cell0 (some (0x10, 8))) ∧ (cell0 (some (0x10, 8))).failed = some (0x10, 8) := by decide +kernel

theorem wit_ContextLeaves : tget ((st (th [])).core 0).threads 0 = some (th []) := by decide +kernel

theorem wit_CoreQuarantined : ((st (th [])).core 0).quarantined = false ∧ (State.reset.core 5).quarantined = false ∧ (State.reset.core 5).threads = [] := by
  decide +kernel

/-! ## Copies -/

/-- c1 destination, c2 source, c3 cell, c4 shape. -/
def copier (d a b : Reg) : Thread := th [a, b, cap (tcm 0x40), d]

abbrev copies (s : State) (t : Thread) (i : Instr) (op : CpOp) : Prop :=
  s.Issues t i ∧ Spec.okRel cxRel t ∧ firstOf (copyChecks t op (t.reg 4) (t.reg 1) (t.reg 2) (t.reg 3)) = none ∧ (s.core 0).waitingCopies = [] ∧
    s.laneBusy (t.cmd s.cur cxRel (t.reg 3)).inCopies.lane = false

/-- Every slot of core 0 taken. -/
def allTaken (s : State) (x : CopySlot) : State := s.setCore 0 { s.core 0 with slots := (List.range 128).map (fun n => (n, x)) }

/-- A transfer of 65 bytes within the TCM. -/
def copier65 : Thread := copier (num 65) (cap (tcm 0x400)) (cap (tcm 0x800))
def slot65 (ph : SlotState) (f : Option (Nat × Byte)) (done : List Nat) : CopySlot :=
  { cmd := copier65.cmd 0 cxRel (copier65.reg 3), member := 0, hint := .none, shape := num 65, a := cap (tcm 0x400), b := cap (tcm 0x800), total := 65
    list := [], state := ph, first := 0, started := 2, done := done, bad := f.toList.map Prod.fst, fault := f, stop := false }

theorem wit_CopyAccepted_empty : Spec.copyForm (.cp1d .k 4 1 2 3 cxRel) = some (.line, .k, 4, 1, 2, 3, cxRel) ∧
    copies (st (copier (num 0) (num 0) (num 0))) (copier (num 0) (num 0) (num 0)) (.cp1d .k 4 1 2 3 cxRel) .line ∧ CpOp.line.total (num 0).bits = 0 :=
  ⟨rfl, by decide +kernel, by decide⟩

theorem wit_CopyAccepted_slot : copies (st copier65) copier65 (.cp1d .k 4 1 2 3 cxRel) .line ∧ ¬(CpOp.line.total (num 65).bits = 0) ∧
    tfree ((st copier65).core 0).slots 128 0 = some 0 := by decide +kernel

theorem wit_CopyAccepted_full : let s := allTaken (st copier65) (slot65 .inFlight none [])
    copies s copier65 (.cp1d .k 4 1 2 3 cxRel) .line ∧ tfree (s.core 0).slots 128 0 = none := by decide +kernel

/-- A gather list of one entry of length 0. -/
theorem wit_CopyAccepted_gather : let t := copier (makeCap (tcm 0x800) 8 (permLD ||| permENG)) (cap (tcm 0x400)) (cap (tcm 0x600))
    copies (st t) t (.cpGat .none 4 1 2 3 cxRel) .gather ∧ (st t).gatherEmpty (t.cmd 0 cxRel (t.reg 3)).party (t.reg 4) = true := by decide +kernel

theorem wit_CopyLineChecks : let t := copier (num (2 ^ 40)) (cap 0) (cap (2 ^ 40))
    let d := t.reg 4
    Spec.okCell (t.reg 3) ∧ d.bits.toNat ≤ 2 ^ 40 ∧ 0 < d.bits.toNat ∧ Spec.authorises (t.reg 1) (permST ||| permENG) (t.reg 1).lo.toNat d.bits.toNat ∧
      Spec.authorises (t.reg 2) (permLD ||| permENG) (t.reg 2).lo.toNat d.bits.toNat ∧
      (∀ r ∈ [t.reg 1, t.reg 2], canonical r.lo = true ∧ canonical (r.lo + BitVec.ofNat 64 (d.bits.toNat - 1)) = true ∧
        otherSpace r.lo (r.lo + BitVec.ofNat 64 (d.bits.toNat - 1)) = false ∧ touchesAgent r.lo d.bits.toNat = false) ∧ t.hid = 0 := by decide +kernel

/-- The state with a transfer in slot 127. -/
def copying (x : CopySlot) : State := (pst copier65).setSlot 0 127 x

theorem wit_CopyChunk : let x := slot65 .inFlight none [0]
    let s := copying x
    tget (s.core 0).slots 127 = some x ∧ x.member ≠ 3 ∧ x.mayDo 1 = true ∧ (s.core 0).quarantined = false ∧ (List.range (Nat.min 64 (x.total - 64 * 1))).map (· + 64 * 1) = [64] ∧
      (s.chunkRead x [64]).2 = .ok [0] ∧ isOk ((s.chunkRead x [64]).1.chunkWrite x ([64].zip [0])).2 = true := by decide +kernel

/-- The same chunk, and one of a fill, between runs of the TCM. -/
theorem wit_CopyChunk_here : let x := slot65 .inFlight none [0]
    let y := { x with member := 4, b := num 0x0123 }
    let s := copying x
    let dest := x.a.lo + BitVec.ofNat 64 (64 * 1)
    let from_ := x.b.lo + BitVec.ofNat 64 (64 * 1)
    x.mayDo 1 = true ∧ 0 < Nat.min 64 (x.total - 64 * 1) ∧ dest.toNat % 64 = 0 ∧ dest.getLsbD 63 = true ∧ (hereAt s x.cmd.core dest 1).isSome = true ∧ x.cmd.hid = 0 ∧
      x.member = 0 ∧ from_.toNat % 64 = 0 ∧ from_.getLsbD 63 = true ∧ from_ ≠ dest ∧ (hereAt s x.cmd.core from_ 1).isSome = true ∧
      tget ((copying y).core 0).slots 127 = some y ∧ y.mayDo 1 = true ∧ (hereAt (copying y) y.cmd.core dest 1).isSome = true := by decide +kernel

theorem wit_CopyChunk_faults : let x := { slot65 .inFlight none [0] with b := cap 0x11000 }
    let y := { slot65 .inFlight none [0] with a := cap 0x11000 }
    tget ((copying x).core 0).slots 127 = some x ∧ x.mayDo 1 = true ∧ ((copying x).chunkRead x [64]).2 = .fault 0x10 ∧
      tget ((copying y).core 0).slots 127 = some y ∧ ((copying y).chunkRead y [64]).2 = .ok [0] ∧
      (((copying y).chunkRead y [64]).1.chunkWrite y ([64].zip [0])).2 = .fault 0x10 := by decide +kernel

theorem wit_CopyEnds : let x := slot65 .inFlight none [0, 1]
    let y := slot65 .inFlight (some (1, 0x10)) [0]
    tget ((copying x).core 0).slots 127 = some x ∧ x.state = .inFlight ∧ x.fault = none ∧ x.allDone = true ∧ ((copying x).core 0).quarantined = false ∧
      (copying x).refuted x.cmd.part x.cmd.hid = false ∧ x.settled = true ∧ cellAt (copying x) x.cmd = true ∧
      tget ((copying y).core 0).slots 127 = some y ∧ y.settled = true ∧ 1 ≤ y.gap ∧ cellAt (copying y) y.cmd = true := by decide +kernel

theorem wit_CopyControl : let t := th [cap (tcm 0x400), ⟨0x80000000000000000000000000000000, false⟩, cap (tcm 0x40)]
    let x := slot65 .held (some (1, 0x10)) [0]
    let s := (pst t).setSlot 0 127 x
    Spec.okRel cxRel t ∧ Spec.okCell (t.reg 3) ∧ s.Issues t (.cpStat 1 3 cxRel) ∧ s.Issues t (.cpResume 2 3 cxRel) ∧ s.Issues t (.cpCancel 2 3 cxRel) ∧
      Spec.okOperand (t.reg 1) (permST ||| permENG) 64 ∧ (t.reg 1).lo.toNat % 64 = 0 ∧ s.namedSlots (t.reg 2).bits = [(127, x)] ∧
      s.laneBusy (t.cmd 0 cxRel (t.reg 3)).inCopies.lane = false ∧ (hereAt s 0 (t.reg 1).lo 64).isSome = true ∧ tget (s.core 0).freed 0 = none ∧
      rising ((s.core 0).slots.map Prod.fst) = true ∧ x.stop = false ∧ x.state = .held ∧ s.refuted x.cmd.part x.cmd.hid = false ∧
      isOk (s.engWrite (t.cmd 0 cxRel (t.reg 3)).mover (t.reg 1).lo (zeroBytes 64) (t.reg 1).hostBit (t.reg 1).unv false).2 = true := by decide +kernel

/-! ## Messages -/

/-- A ring port of the smallest size bound to port 15 of core 0, its control line at 0x800; its head at the given place. -/
def port0 (tid head : Nat) : Port :=
  { cmd := { (th []).cmdBare tid cx with part := 0 }, stream := false, filter := false, entry := 0, size := 0, ctl := 0x800, head := head, count := 0
    refused := 0, begun := false, streamBytes := 0, part_ := 0 }

theorem wit_MessageCommands_bind : let t := th [num 0, num 0, cap (tcm 0x40), num 15]
    Spec.okRel cxRel t ∧ (st t).Issues t (.rcvBind 4 0 0 3 cxRel) ∧ firstOf ((st t).bindChecks t 0 4 0 0 3) = none ∧
      tget ((st t).core 0).ports ((t.reg 4).bits.toNat % 16) = none ∧ (t.reg 4).bits.toNat / 2 ^ 12 % 4 = 0 ∧
      (let s := (st t).setPort 0 15 (port0 1 0)
       s.Issues t (.rcvBindUnbind 4 0 0 3 cxRel) ∧ firstOf (s.bindChecks t 0 4 0 0 3) = none ∧ tget (s.core 0).ports 15 = some (port0 1 0) ∧
        (port0 1 0).cmd.tid ≠ s.cur) := by decide +kernel

/-- A binding of port 15 to a ring of 256 bytes at 0x800. -/
theorem wit_MessageCommands_ring : let t := th [cap (tcm 0x800), num 0, cap (tcm 0x40), num 0x100F]
    (st t).Issues t (.rcvBind 4 1 0 3 cxRel) ∧ firstOf ((st t).bindChecks t 0 4 1 0 3) = none := by decide +kernel

/-- A thread with a message of 4,096 bytes to port 0 of its own core. -/
def sender : Thread := th [num 0x00003FFFFFFE1000, cap (tcm 0x1000), cap (tcm 0x40)]

/-- One of its sends. -/
def send0 (order retry : Nat) : Send := ⟨sender.cmdBare 0 cx, 0x00003FFFFFFE1000, cap (tcm 0x1000), 0x1FF, 0, 0, 4096, retry, order, none, none⟩

/-- A core with the given sends in their slots. -/
def sends (l : List Send) : State := let s := st sender
  s.setCore 0 { s.core 0 with sends := l }

theorem wit_MessageCommands_snd : let t := sender
    Spec.okRel cx t ∧ (st t).Issues t (.snd 1 2 3 cx) ∧ firstOf (sndChecks t 1 2 3) = none ∧ ((st t).core 0).sends.length < 32 ∧
      ((st t).core 0).waitingSends = [] := by decide +kernel

/-- The shortest message; all 32 slots taken. -/
theorem wit_MessageCommands_full : let t := { sender with regs := regsOfList [num 0x00003FFFFFFE0001, cap (tcm 0x1000), cap (tcm 0x40)] }
    let s := (sends (List.replicate 32 (send0 0 0))).setThread 0 t
    s.Issues t (.snd 1 2 3 cx) ∧ firstOf (sndChecks t 1 2 3) = none ∧ 32 ≤ (s.core 0).sends.length ∧ (s.core 0).waitingSends = [] := by decide +kernel

theorem wit_MessageDelivered_first : (sends [send0 0 0]).sendReady 0 0 false = some (send0 0 0) ∧
    (sends [send0 0 1]).sendReady 0 0 true = none ∧ ({ sends [send0 0 1] with cycle := 1 } : State).sendReady 0 0 true = some (send0 0 1) := by
  decide +kernel

/-- A send of 64 bytes of the TCM, attempted for the first time, and with its message. -/
theorem wit_MessageDelivered_carry : let x := { send0 0 0 with len := 64 }
    let s := sends [x]
    s.refuted x.cmd.part x.cmd.hid = false ∧ x.ended = none ∧ x.payload = none ∧ 0 < x.len ∧ x.a.lo.toNat % 64 + x.len ≤ 64 ∧
      (hereAt s x.cmd.core x.a.lo x.len).isSome = true ∧ x.chip = 0x1FF := by decide +kernel

/-- A message of that many bytes to port 15 from a thread of the port's partition, or of another. -/
def msg (n : Nat) (same : Bool) : Message := ⟨0, 0, none, fun _ => same, 15, 7, List.replicate n 5, false, false⟩

theorem wit_MessageDelivered_unbound : ((st sender).core 0).quarantined = false ∧ tget ((st sender).core 0).ports (msg 1 true).port = none := by
  decide +kernel

theorem wit_MessageDelivered_partition : let s := (st sender).setPort 0 15 (port0 0 0)
    (s.core 0).quarantined = false ∧ tget (s.core 0).ports (msg 1 false).port = some (port0 0 0) ∧ (msg 1 false).samePart 0 = false := by
  decide +kernel

/-- No thread holds a reservation. -/
theorem no_resv (s : State) (h : ∀ p ∈ s.allThreads, p.2.resv = none) : ∀ tid u v, (tid, u) ∈ s.allThreads → u.resv = some v → v.glob = true := by
  intro tid u v hm hv
  rw [h _ hm] at hv
  cases hv

/-- A record that fills the ring whole, and one that ends at its end. -/
theorem wit_MessageDelivered_room :
    (let s := (st sender).setPort 0 15 (port0 0 0)
     let m := msg 240 true
     (s.core 0).quarantined = false ∧ tget (s.core 0).ports m.port = some (port0 0 0) ∧ m.samePart 0 = true ∧
      0 % (port0 0 0).bytes + (16 + (m.payload.length + 15) / 16 * 16) = (port0 0 0).bytes ∧
      0x800 + 64 + (port0 0 0).bytes ≤ (s.core 0).tcmPlain ∧ 16 + (m.payload.length + 15) / 16 * 16 ≤ s.ringRoom 0 (port0 0 0)) ∧
    (let s := ((st sender).setPort 0 15 (port0 0 224)).tcmWrite 0 0x810 (leBytes 8 224)
     (port0 0 224).head % (port0 0 224).bytes + (16 + (1 + 15) / 16 * 16) = (port0 0 224).bytes ∧ 32 ≤ s.ringRoom 0 (port0 0 224)) ∧
    (∀ p ∈ ((st sender).setPort 0 15 (port0 0 0)).allThreads, p.2.resv = none) ∧ (st sender).bridge.peerResv = [] ∧ (st sender).dirty = [] := by decide +kernel

theorem wit_MessageDelivered_canonical : ((st sender).setPort 0 15 (port0 0 0)).Canonical ∧ (msg 240 true).payload[239]? = some 5 :=
  ⟨⟨rfl, rfl, rfl, fun _ h => nomatch h⟩, by decide +kernel⟩

end Sys2Proof.Tests
end

