-- ==== Sys2Proof/Tests/WitnessEngine.lean ====
section
/-!
SUPPORT. Sys2Proof/Tests/WitnessEngine.lean: for each statement about the vector engine, the matrix engine and the mangle ring, a
state and operands that meet its hypotheses together, clause by clause.
-/
set_option Elab.async false -- one test at a time: each waits for the kernel and holds a thread while it waits
namespace Sys2Proof.Tests
open Sys2Proof Sys2Proof.Machine

/-! ## The vector engine -/

/-- c1 destination, c2 and c3 sources, c4 descriptor. -/
def vecThread (d : Nat) : Thread := th [cap (tcm 0x1000), cap (tcm 0x2000), cap (tcm 0x3000), num d]

/-- An operation of four numbers, in a queue of core 0. -/
def job4 : VecJob := Spec.vecJob (vecThread 4) .add .i32 .i32 4 1 2 3
def entry4 : VmuEntry := VmuEntry.fresh ((vecThread 4).cmdBare 0 cx) (.vec job4) 0

/-- Core 0 with these operations queued and started. -/
def engine (t : Thread) (q g : List VmuEntry) : State := let s := st t
  s.setCore 0 { s.core 0 with vq := q, started := g }

/-- 4,096 bytes each, into an empty queue, and behind three operations. -/
theorem wit_VectorCommands_enter : let t := vecThread 4096
    Spec.vecForm (.vAdd .i8 4 1 2 3 cx) = some (.add, .i8, .i8, 4, 1, 2, 3, cx) ∧ Spec.okRel cx t ∧
    ∀ q ∈ [[], [entry4, entry4, entry4]], (engine t q []).Issues t (.vAdd .i8 4 1 2 3 cx) ∧
      firstOf ((engine t q []).vecChecks t .add .i8 .i8 4 1 2 3) = none ∧ ((engine t q []).core 0).vq.length < 4 :=
  ⟨rfl, by decide +kernel, by decide +kernel⟩

theorem wit_VectorCommands_full : let t := vecThread 1
    let s := engine t [entry4, entry4, entry4, entry4] []
    s.Issues t (.vAdd .i8 4 1 2 3 cx) ∧ firstOf (s.vecChecks t .add .i8 .i8 4 1 2 3) = none ∧ 4 ≤ (s.core 0).vq.length := by
  decide +kernel

/-- No element; one too many; an operand out of place. -/
theorem wit_VectorCommands_faults : ∀ e ∈ ([(vecThread 0, ⟨0x02, 0, .none, 7⟩), (vecThread 4097, ⟨0x02, 0, .none, 7⟩),
      ({ vecThread 4 with regs := regsOfList [cap (tcm 0x1002), cap (tcm 0x2000), cap (tcm 0x3000), num 4] }, opTrap 0x09 (tcm 0x1002))] : List (Thread × Trap)),
    (st e.1).Issues e.1 (.vAdd .i32 4 1 2 3 cx) ∧ Spec.okRel cx e.1 ∧ firstOf ((st e.1).vecChecks e.1 .add .i32 .i32 4 1 2 3) = some e.2 ∧ e.1.window = [] := by
  decide +kernel

theorem wit_VectorCommands_sync : let t := th [num 0, num 0, cap (tcm 0x40)]
    Spec.okRel cxRel t ∧ Spec.okCell (t.reg 3) ∧ t.hid = 0 ∧ (engine t [entry4] []).Issues t (.vSync 3 cxRel) ∧
      (((engine t [entry4] []).core 0).vq ++ ((engine t [entry4] []).core 0).started).any (fun e => decide (e.cmd.tid = 0)) = true ∧
      (st t).Issues t (.vSync 3 cxRel) ∧ (((st t).core 0).vq ++ ((st t).core 0).started).any (fun e => decide (e.cmd.tid = 0)) = false ∧
      (st t).refuted t.part t.hid = false := by decide +kernel

theorem wit_VectorIntegerElement : Spec.intFmt .i32z 32 false ∧ 2 ^ 32 - 1 < 2 ^ 32 ∧
    Spec.vecInteger .add 32 false (2 ^ 32 - 1) 1 0 = some 0 ∧ ((List.replicate 4096 (2 ^ 32 - 1)).length ≤ 4096 ∧ List.replicate 4096 (2 ^ 32 - 1) ≠ []) :=
  ⟨by decide, by decide, by decide, Nat.le_of_eq List.length_replicate, by intro h; cases (List.replicate_eq_nil_iff _).1 h⟩

theorem wit_VectorEvents_start : let s := engine (vecThread 4) [entry4] []
    s.arbitrate false 0 (s.quad 0).vHolder (s.quad 0).vCredit s.vecEligible = some (0, s.headWeight false 0) := by decide +kernel

/-- A suspended operation that takes 64 elements of one byte from stream entry 0, to which nothing is bound. -/
def streamed : VecJob := { job4 with toF := .i8, fr := .i8, n := 65, sb := some 0 }
def waitingGroup : VmuEntry := { entry4 with op := .vec streamed, dataB := zeroBytes 64, suspended := true }

theorem wit_VectorEvents_resume : let s := engine (vecThread 4) [] [waitingGroup]
    (s.core 0).midVec = some (0, waitingGroup, streamed) ∧ waitingGroup.suspended = true ∧ s.groupReady waitingGroup streamed = true := by decide +kernel

theorem wit_VectorEvents_complete : let s := engine (vecThread 4) [] [entry4]
    (s.core 0).started[0]? = some entry4 ∧ entry4.op = .vec job4 ∧ entry4.allStarted job4 = true ∧ (s.core 0).endsEarly 0 entry4 job4 = false ∧
      (∀ x ∈ s.allThreads, x.2.resv = none) ∧ s.bridge.peerResv = [] ∧
      ((s.setCore 0 { s.core 0 with started := (s.core 0).started.eraseIdx 0 }).vecRun entry4 job4).isSome = true := by decide +kernel

theorem wit_VectorEvents_element : let s := engine (vecThread 4) [] []
    (job4.op = .add ∧ job4.sb = none ∧ job4.sc = none ∧ job4.fr = job4.toF) ∧ (s.memElem 0 job4.b 3 4).toOption = some 0 ∧ (s.memElem 0 job4.c 3 4).toOption = some 0 ∧
      isOk (s.vmuWrite 0 (job4.a.cursor + BitVec.ofNat 64 12) (leBytes 4 0)).2 = true := by decide +kernel

/-! ## The matrix engine -/

/-- c1 and c2 tiles, c3 the cell, c4 to c6 the control triple. -/
def matThread (d0 d1 d2 : Reg) : Thread := th [cap (tcm 0x1000), cap (tcm 0x2000), cap (tcm 0x40), d0, d1, d2]

abbrev ready (t : Thread) (i : Instr) : Prop := (st t).Issues t i ∧ ((st t).core 0).vq.length < 4

/-- With every part of its control triple, and without. -/
theorem wit_MatrixCommands_mma : let t := matThread (cap (tcm 0x80)) (cap 0x10040) (num (2 ^ 64 - 1))
    ready t (.mmaBf16 true false true 4 1 2 cxRel) ∧ Spec.okRel cxRel t ∧ firstOf ((st t).mmaChecks t .bf16 4 1 2 0) = none ∧
      ready t (.mmaI8 false true false 0 1 2 cx) ∧ firstOf ((st t).mmaChecks t .i8 0 1 2 0) = none ∧
      ready t (.mmaK8Bs true true true 0 1 2 4 cx) ∧ firstOf ((st t).mmaChecks t .k8bs 0 1 2 4) = none := by decide +kernel

theorem wit_MatrixCommands_tiles : let t := matThread (num 0) (num 0) (num 0)
    Spec.okRel cxRel t ∧ (∀ i ∈ [Instr.mzero true 0 cx, .mld true 1 3 cxRel, .mst true 1 3 cxRel], ready t i) ∧ Spec.okOptCell t 0 ∧ Spec.okOptCell t 3 ∧
      Spec.okTile (st t) (t.reg 1) (permLD ||| permENG) 1024 ∧ Spec.okTile (st t) (t.reg 1) (permST ||| permENG) 1024 ∧ t.hid = 0 := by decide +kernel

theorem wit_MatrixCommands_mrd : let t := matThread (num 252) (num 0) (num 0)
    ready t (.mrd true 7 4 cx) ∧ (t.reg 4).bits.toNat < 256 ∧ (t.reg 4).bits.toNat % 4 = 0 := by decide +kernel

/-- Under SR to f32, and with a residual of bf16. -/
theorem wit_MatrixCommands_mdrain : let t := matThread (num (5 * 2 ^ 35)) (num 0) (num 0)
    let r := matThread (num (2 ^ 34 + 2 ^ 30)) (num 0) (num 0)
    ready t (.mdrain .f32 true 4 1 0 3 cxRel) ∧ Spec.okOptCell t 3 ∧ drainReserved (t.reg 4).bits (t.reg 5).bits .f32 4 0 = false ∧
      Spec.okTile (st t) (t.reg 1) (permST ||| permENG) 1024 ∧ drainRes (t.reg 4).bits = false ∧
      ready r (.mdrain .f16 true 4 1 2 3 cxRel) ∧ drainReserved (r.reg 4).bits (r.reg 5).bits .f16 4 2 = false ∧
      Spec.okTile (st r) (r.reg 1) (permST ||| permENG) 512 ∧ drainRes (r.reg 4).bits = true ∧
      Spec.okTile (st r) (r.reg 2) (permLD ||| permENG) (256 * Fmt.bytes (resFmt (r.reg 4).bits)) := by decide +kernel

theorem wit_MatrixCommands_dtload : let t := matThread (num 0) (num 3) (num 0)
    ready t (.dtload 4 1 3 cxRel) ∧ Spec.okOptCell t 3 ∧ (t.reg 4).bits = 0 ∧ Spec.okOperand (t.reg 1) (permLD ||| permENG) 528 ∧ (t.reg 1).lo.toNat % 16 = 0 ∧
      ready t (.dtload 5 0 3 cxRel) ∧ 0 < (t.reg 5).bits.toNat ∧ (t.reg 5).bits.toNat < 4 := by decide +kernel

theorem wit_MatrixIntegerProduct : (zeroBytes 256).length = 256 ∧ 15 < 16 := by decide +kernel

/-- An operation of the matrix engine in core 0. -/
def mat (m : MatOp) : VmuEntry := VmuEntry.fresh ((vecThread 4).cmdBare 0 cx) (.mat m) 0

theorem wit_MatrixEvents_start : let s := engine (th []) [mat (.mzero true)] []
    s.arbitrate true 0 (s.quad 0).mHolder (s.quad 0).mCredit s.matEligible = some (0, s.headWeight true 0) := by decide +kernel

/-- The multiply that waits. -/
def waiting0 (n : Word) : VmuEntry := mat (.mma .i8 true false false (cap (tcm 0x1000)) (cap (tcm 0x2000)) 0 0 (some ⟨tcm 0x80, false, false⟩) n)

/-- A multiply whose wait cell, at 0x80 of the TCM, holds 5, with this status, and waits for this count. -/
def waits (status : Nat) (n : Word) : State :=
  ((engine (th []) [waiting0 n] []).tcmWrite 0 0x80 (leBytes 8 5)).tcmWrite 0 0x88 (leBytes 8 status)

abbrev waitRead (s : State) : State × Acc (List Byte) :=
  s.fresh.1.engWatch ((vecThread 4).cmdBare 0 cx).party ((vecThread 4).cmdBare 0 cx).depth (tcm 0x80) 16 false s.fresh.2

/-- The bytes a wait check reads. -/
def waitBytes (s : State) : List Byte := match (waitRead s).2 with | .ok bs => bs | _ => []


theorem wit_MatrixEvents_wait : ∀ e ∈ [(0, 6), (0, 5), (0x82, 5)], let s := waits e.1 (BitVec.ofNat 64 e.2)
    (s.core 0).vq = [waiting0 (BitVec.ofNat 64 e.2)] ∧ (waiting0 (BitVec.ofNat 64 e.2)).watch.any s.watching = false ∧
      (s.core 0).quarantined = false ∧ isOk (waitRead s).2 = true ∧ leNat ((waitBytes s).take 8) = 5 ∧ leNat ((waitBytes s).drop 8) = e.1 := by decide +kernel

/-- Its cell stands here, with either status. -/
theorem wit_MatrixEvents_wait_here : ∀ c ∈ [0, 0x82], let s := waits c 5
    (∃ fs, s.Here 0 (tcm 0x80) 16 fs ∧ (5 : Word).toNat ≤ leNat ((s.bytesOf fs).take 8) ∧ leNat ((s.bytesOf fs).drop 8) % 256 = c) ∧
      (waiting0 5).cmd.core = 0 ∧ (tcm 0x80).toNat % 16 = 0 := by
  have h : ∀ c ∈ [0, 0x82], (hereAt (waits c 5) 0 (tcm 0x80) 16).any (fun fs => decide ((5 : Word).toNat ≤ leNat (((waits c 5).bytesOf fs).take 8) ∧
      leNat (((waits c 5).bytesOf fs).drop 8) % 256 = c)) = true := by decide +kernel
  intro c hc
  obtain ⟨fs, e, d⟩ := (Option.any_eq_true _ _).1 (h c hc)
  exact ⟨⟨fs, here_of e, of_decide_eq_true d⟩, rfl, rfl⟩

theorem wit_MatrixEvents_end : ∀ m ∈ [MatOp.mma .i8 true false false (cap 0) (cap 0) 0 0 none 0, .mzero false, .mld true (cap 0), .mst true (cap (tcm 0x1000)),
      .dtload 1 (num 0)], let s := engine (th []) [] [mat m]
    (s.core 0).started[0]? = some (mat m) ∧ (s.core 0).accTurn 0 (mat m) = true ∧ (mat m).failed = none ∧ (mat m).cmd.core = 0 := by decide +kernel

theorem wit_MatrixEvents_mst : let s := engine (th []) [] []
    (match (s.writeTile 0 (tcm 0x1000) 4 ((s.core 0).acc true) 0).2 with | .ok none => true | _ => false) = true := by decide +kernel

/-! ## The mangle ring -/

/-- A load that claims the ring of group 0. -/
def ringLoad : Load := { load0 with ring := true, state := .live, cores := 16 }

/-- A thread of that load: c1 an operand, c2 a cell, c3 the cell, c4 the descriptor. -/
def ringThread (a : Reg) (d : Nat) : Thread := th [a, cap (tcm 0xC0), cap (tcm 0x40), num d]

/-- With this ring in group 0. -/
def ringed (t : Thread) (r : Ring) : State := ({ st t with loads := [(t.load, ringLoad)] } : State).setRing 0 r

def off : Ring := Ring.reset
def set : Ring := { Ring.reset with state := .ready, config := 0x1000C000 }
def runs : Ring := { set with state := .running, table := [(0, 1)] }

abbrev rings (t : Thread) (i : Instr) : Prop := Spec.okRel cxRel t ∧ Spec.okCell (t.reg 3) ∧ t.hid = 0 ∧
  ∀ r ∈ [off, set, runs], (ringed t r).laneBusy (t.cmd 0 cxRel (t.reg 3)).inRing.lane = false ∧ r.step6Waits = false ∧ (ringed t r).claimsRing t 0 = true ∧ (ringed t r).refuted t.part t.hid = false ∧ (ringed t r).Issues t i ∧ (ringed t r).ring 0 = r

/-- A period of 12 and of 4,095 cycles. -/
theorem wit_MangleCommands_cfg : ∀ q ∈ [0x100C000, 0xFFFFFFFFF001], let t := ringThread (cap (tcm 0x80)) q
    rings t (.mgCfg 4 1 2 3 cxRel) ∧ Spec.okCell (t.reg 1) ∧ Spec.okCell (t.reg 2) ∧ (t.reg 4).bits.toNat < 2 ^ 48 ∧
      (t.reg 4).bits.toNat / 2 ^ 24 % 256 ≠ 0 ∧ 12 ≤ (t.reg 4).bits.toNat / 2 ^ 12 % 2 ^ 12 ∧ (t.reg 4).bits.toNat / 2 % 2 ^ 11 = 0 ∧ set.waiting = [] := by
  decide +kernel

/-- The last entry; all 256. -/
theorem wit_MangleCommands_tbl : ∀ q ∈ [0x1FF, 0x10000], let t := ringThread (cap (tcm 0x1000)) q
    rings t (.mgTbl 4 1 3 cxRel) ∧ (t.reg 4).bits.toNat < 2 ^ 17 ∧ 0 < (t.reg 4).bits.toNat / 2 ^ 8 ∧
      (t.reg 4).bits.toNat % 2 ^ 8 + (t.reg 4).bits.toNat / 2 ^ 8 ≤ 256 ∧
      Spec.okOperand (t.reg 1) (permLD ||| permENG) (8 * ((t.reg 4).bits.toNat / 2 ^ 8)) ∧ (t.reg 1).lo.toNat % 8 = 0 ∧
      isOk ((ringed t set).engRead (t.cmd 0 cxRel (t.reg 3)).inRing.party (t.reg 1).lo (8 * ((t.reg 4).bits.toNat / 2 ^ 8)) (t.reg 1).hostBit).2 = true := by
  decide +kernel

theorem wit_MangleCommands_tbl_good : ∀ i, i < 256 → entryBad (Spec.tableWord (zeroBytes 2048) i) = false := by decide +kernel

/-- The image of a sheet at 0x1000: tag 7, one use, bytes (format 4) of the lower family, or bf16 (format 2) of the upper. -/
def injecting (lower : Bool) (t : Thread) (r : Ring) : State :=
  (ringed t r).tcmWrite 0 0x1000 (quadBytes (if lower then 0x100001407 else 0x1207))

theorem wit_MangleCommands_inject : ∀ lower ∈ [true, false], let t := ringThread (cap (tcm 0x1000)) 1
    let s := injecting lower t set
    rings t (if lower then .mgInjL 4 1 3 cxRel else .mgInjU 4 1 3 cxRel) ∧ Spec.okOperand (t.reg 1) (permLD ||| permENG) 528 ∧ (t.reg 1).lo.toNat % 64 = 0 ∧
      (t.reg 4).bits.toNat < 2 ∧ (s.engRead (t.cmd 0 cxRel (t.reg 3)).inRing.party (t.reg 1).lo 16 (t.reg 1).hostBit).2 = .ok (quadBytes (if lower then 0x100001407 else 0x1207)) ∧
      Spec.okHeader lower (leNat (quadBytes (if lower then 0x100001407 else 0x1207))) := by decide +kernel

theorem wit_MangleCommands_inject_tile : ∀ lower ∈ [true, false], let t := ringThread (cap (tcm 0x1000)) 1
    let p := (t.cmd 0 cxRel (t.reg 3)).inRing.party
    let s1 := ((injecting lower t set).engRead p (t.reg 1).lo 16 (t.reg 1).hostBit).1
    let r := s1.engRead p ((t.reg 1).lo + 16) (if lower then 256 else 512) (t.reg 1).hostBit
    isOk r.2 = true ∧ (r.1.ring 0).find lower 7 = none ∧ (r.1.ring 0).tagWaits lower 7 = false := by decide +kernel

theorem wit_MangleCommands_go : let t := ringThread (num 0) 0
    rings t (.mgGo 3 cxRel) ∧ rings t (.mgHalt 3 cxRel) ∧ set.unfired = 0 ∧ ({ set with table := [(255, 1)] } : Ring).unfired ≠ 0 := by decide +kernel

/-- A session that ends at once finds its cell here. -/
def ringCells (t : Thread) : Ring := { set with session := cellRef (t.reg 2) }

theorem wit_MangleCommands_go_ends : let t := ringThread (num 0) 0
    let cmd := (t.cmd 0 cxRel (t.reg 3)).inRing
    ((ringed t (ringCells t)).endCell (ringWrite cmd (ringCells t).session 0)).2 = true := by decide +kernel

theorem wit_MangleCommands_stat : let t := ringThread (cap (tcm 0x1000)) 0
    rings t (.mgStat 1 3 cxRel) ∧ Spec.okWindow t (t.reg 1) ∧ Spec.okOperand (t.reg 1) (permST ||| permENG) 64 ∧ (t.reg 1).lo.toNat % 64 = 0 ∧
      isOk ((ringed t set).engWrite (t.cmd 0 cxRel (t.reg 3)).inRing.party (t.reg 1).lo set.statLine (t.reg 1).hostBit (t.reg 1).unv false).2 = true := by
  decide +kernel

/-- A sheet of the upper family with tag 7 at position 15. -/
def sheet7 : Sheet := ⟨7, 4, 1, 0, 0, 0, zeroBytes 256⟩

theorem wit_MangleCommands_eject : let t := ringThread (cap (tcm 0x1000)) 7
    rings t (.mgEj 4 1 3 cxRel) ∧ Spec.okWindow t (t.reg 1) ∧ (t.reg 4).bits.toNat < 2 ^ 9 ∧ Spec.okOperand (t.reg 1) (permST ||| permENG) 528 ∧
      (t.reg 1).lo.toNat % 64 = 0 ∧ set.find false 7 = none ∧ ({ set with upper := [(15, sheet7)] } : Ring).find false 7 = some (15, sheet7) := by decide +kernel

theorem wit_MangleCommands_eject_write : let t := ringThread (cap (tcm 0x1000)) 7
    isOk ((ringed t { set with upper := [(15, sheet7)] }).engWrite (t.cmd 0 cxRel (t.reg 3)).inRing.party (t.reg 1).lo (sheet7.image false) (t.reg 1).hostBit (t.reg 1).unv false).2 =
      true := by decide +kernel

/-- Odd counts and even; position 15 and position 0. -/
theorem wit_MangleEvents_move : ({ runs with upper := [(15, sheet7)], lower := [(0, sheet7)] } : Ring).upper = [(15, sheet7)] ∧
    ({ runs with upper := [(15, sheet7)], lower := [(0, sheet7)] } : Ring).lower = [(0, sheet7)] ∧ 1 % 2 = 1 ∧ 2 % 2 = 0 :=
  ⟨rfl, rfl, rfl, rfl⟩

theorem wit_MangleEvents_count : let s := ringed (th []) runs
    let r := s.ring 0
    r.state = .running ∧ r.ending = none ∧ r.encounters = [] ∧ r.midCount = false ∧ r.nextAt ≤ s.cycle ∧ s.ringStopping 0 = false ∧ r.upper = [] ∧ r.lower = [] ∧
      r.waiting = [] := by decide +kernel

/-- An entry that names tags 7 and 9 of bytes, at home in position 15. -/
def entry79 : Word := 0x070941E000000001

theorem wit_MangleEvents_press : let l : Sheet := { sheet7 with tag := 9 }
    let s := ringed (th []) { runs with upper := [(15, sheet7)], lower := [(15, l)], table := [(255, entry79)] }
    let r := s.ring 0
    tget r.upper 15 = some sheet7 ∧ tget r.lower 15 = some l ∧ r.table = [(255, entry79)] ∧ entry79.getLsbD 0 = true ∧ entry79.getLsbD 1 = false ∧
      (entry79.extractLsb' 56 8).toNat = sheet7.tag ∧ (entry79.extractLsb' 48 8).toNat = l.tag ∧ (entry79.extractLsb' 44 4).toNat = sheet7.fmt ∧ sheet7.fmt = l.fmt ∧
      entry79.getLsbD 41 = false ∧ (entry79.extractLsb' 37 4).toNat = 15 ∧ (s.core (16 * 0 + 15)).vq.length < 4 := by decide +kernel

/-- A held encounter, at its last cycle and past it. -/
theorem wit_MangleEvents_held : let s := ringed (th []) { runs with encounters := [⟨15, 0, 0⟩], config := 0x100C000 + 1 * 2 ^ 32 }
    let r := s.ring 0
    r.state = .running ∧ r.encounters.find? (fun e => e.pos = 15) = some ⟨15, 0, 0⟩ ∧ (s.core (16 * 0 + 15)).vq.length < 4 ∧
      s.cycle < 0 + (r.config.extractLsb' 32 16).toNat ∧ 0 + (r.config.extractLsb' 32 16).toNat ≤ ({ s with cycle := 1 } : State).cycle := by decide +kernel

/-- The product of an any-home press, all zero. -/
def add0 : AnyAdd := ⟨15, 0, 0, true, 15, List.replicate 256 0⟩

theorem wit_MangleEvents_add : let s := ringed (th []) { runs with adds := [add0], pend := [15, 31] }
    (s.ring 0).adds = [add0] ∧ (∀ o ∈ (s.ring 0).pend, add0.order ≤ o) ∧ (s.ring 0).encounters = [] ∧ (∀ x ∈ s.allThreads, x.2.resv = none) ∧
      s.bridge.peerResv = [] := by decide +kernel

theorem wit_MangleEvents_add_made : ((ringed (th []) { runs with adds := [add0], pend := [15, 31] }).addAll 0 add0 add0.prod 0).isSome = true := by decide +kernel

/-- A session of 65,536 misses at its end. -/
def ended0 : Ring := { runs with ending := some 0, misses := 0x10000, session := ⟨tcm 0xC0, false, false⟩
                                 goCmd := some ((ringThread (num 0) 0).cmd 0 cxRel ((ringThread (num 0) 0).reg 3)) }

theorem wit_MangleEvents_end : let r := ended0
    ∃ cmd, r.state = .running ∧ r.ending = some 0 ∧ r.openPress = 0 ∧ r.midCount = false ∧ r.waiting = [] ∧ r.haltAsk = [] ∧ r.goCmd = some cmd ∧
      ((ringed (th []) r).endCell (ringWrite cmd r.session 0xFFFF000000000000)).2 = true ∧ (ringed (th []) r).CellHere { cmd with cell := some r.session } :=
  ⟨_, rfl, rfl, rfl, rfl, rfl, rfl, rfl, by decide +kernel, cell_of (by decide +kernel)⟩

end Sys2Proof.Tests
end

