-- ==== Sys2Proof/Tests/WitnessSystem.lean ====
section
/-!
SUPPORT. Sys2Proof/Tests/WitnessSystem.lean: for each statement about hypotheses, combining, page requests, the host, the links, the
steward and whole steps, a state and operands that meet its hypotheses together, clause by clause.
-/
set_option Elab.async false -- one test at a time: each waits for the kernel and holds a thread while it waits
namespace Sys2Proof.Tests
open Sys2Proof Sys2Proof.Machine

/-! ## Hypotheses -/

/-- A node of generation 1. -/
def node (x : HState) (parent depth : Nat) : HypNode := ⟨x, 1, parent, depth, ⟨tcm 0xC0, false, false⟩⟩

/-- Partition 0 with these nodes. -/
def hyp (t : Thread) (ns : Table HypNode) : State := (pst t).setPart 0 { placedPart with nodes := ns, gens := [(5, 1), (6, 1)] }

/-- c1 and c2 operands, c3 the cell, in hypothesis `h`. -/
def hypThread (h : Nat) (a b : Reg) : Thread := { cmdThread a b with hid := h }

/-- A live node 5 and a sibling 6. -/
def two : Table HypNode := [(5, node .live 0 1), (6, node .live 0 1)]

abbrev hyps (h : Nat) (a b : Reg) (ns : Table HypNode) (i : Instr) : Prop :=
  Spec.okRel cxRel (hypThread h a b) ∧ (hyp (hypThread h a b) ns).refuted 0 h = false ∧
    (hyp (hypThread h a b) ns).laneBusy ((hypThread h a b).cmd 0 cxRel ((hypThread h a b).reg 3)).inKeeper.lane = false ∧ (hyp (hypThread h a b) ns).Issues (hypThread h a b) i

abbrev hnews (h : Nat) (ns : Table HypNode) : Prop :=
  let t := hypThread h (cap (tcm 0x80)) (cap (tcm 0x1010))
  hyps h (cap (tcm 0x80)) (cap (tcm 0x1010)) ns (.hnew 1 2 3 cxRel) ∧ Spec.okOperand (t.reg 1) (permST ||| permAMO) 64 ∧ (t.reg 1).lo.toNat % 64 = 0 ∧
    Spec.okOperand (t.reg 2) (permST ||| permSTC ||| permENG) 16 ∧ (t.reg 2).lo.toNat % 16 = 0 ∧ Spec.okCell (t.reg 3) ∧ Spec.okUnv t (t.reg 1) ∧
    Spec.okUnv t (t.reg 2) ∧ Spec.okUnv t (t.reg 3) ∧ tget (hyp t ns).parts t.part = some { placedPart with nodes := ns, gens := [(5, 1), (6, 1)] }

/-- One node, of depth 15. -/
theorem wit_HypothesisCommands_deep : hnews 1 [(1, node .live 0 15)] ∧
    (let s := hyp (hypThread 1 (cap (tcm 0x80)) (cap (tcm 0x1010))) [(1, node .live 0 15)]
     tfree [(1, node .live 0 15)] 4095 1 = some 2 ∧ s.depthOf 0 (s.effective 0 1) = 15) := ⟨by decide +kernel, by decide +kernel⟩

theorem wit_HypothesisCommands_new : hnews 0 two ∧
    (let t := hypThread 0 (cap (tcm 0x80)) (cap (tcm 0x1010))
     let s := hyp t two
     let w := (s.setPart 0 { placedPart with nodes := two, gens := tput [(5, 1), (6, 1)] 1 1 }).engWrite1 (t.cmd 0 cxRel (t.reg 3)).inKeeper.party (t.reg 2).lo
        (quadBytes (handleOf 0 1 1).bits) true (t.reg 2).hostBit (t.reg 2).unv true
     two.length < 4095 ∧ tfree two 4095 1 = some 1 ∧ s.depthOf 0 (s.effective 0 0) ≠ 15 ∧ isOk w.2 = true ∧ Spec.keepsTags w.1 0 0 (t.reg 2) = true) :=
  ⟨by decide +kernel, by decide +kernel⟩

theorem wit_HypothesisCommands_new_here : let t := hypThread 0 (cap (tcm 0x80)) (cap (tcm 0x1010))
    let s := hyp t two
    placeOf s.bridge.chip 0 (t.reg 2).lo = .core 0 0x1010 ∧ ∃ fs, s.Here 0 (t.reg 2).lo 16 fs := ⟨by decide +kernel, here_some (by decide +kernel)⟩

/-- 4,095 nodes, 1 to 4095. -/
def fullNodes : Table HypNode := (List.range 4095).map (fun i => (i + 1, node .live 0 1))

theorem wit_HypothesisCommands_full : hnews 0 fullNodes ∧ 4095 ≤ fullNodes.length := by
  refine ⟨⟨⟨?_, ?_, ?_, ?_⟩, ?_, ?_, ?_, ?_, ?_, ?_, ?_, ?_, rfl⟩, Nat.le_of_eq (by unfold fullNodes; rw [List.length_map, List.length_range])⟩ <;> decide +kernel

/-- From the root to node 5, already in node 5, to a node elsewhere, and a handle of a past life. -/
theorem wit_HypothesisCommands_enter : ∀ e ∈ [(0, 5), (5, 5), (6, 5)], let t := hypThread e.1 (handleOf 0 1 e.2) (num 0)
    let s := hyp t two
    hyps e.1 (handleOf 0 1 e.2) (num 0) two (.henter 1 cxRel) ∧ Spec.okHandle t (t.reg 1) permLD ∧ s.handleNode (t.reg 1) = some (5, node .live 0 1) ∧
      s.refuted 0 (s.effective 0 5) = false ∧ t.window = [] := by decide +kernel

theorem wit_HypothesisCommands_enter_where : let s (h : Nat) : State := hyp (hypThread h (handleOf 0 1 5) (num 0)) two
    (s 0).effective 0 5 ≠ (s 0).effective 0 0 ∧ (s 0).under 0 0 5 = true ∧ (s 5).effective 0 5 = (s 5).effective 0 5 ∧ (s 6).under 0 6 5 = false := by decide +kernel

theorem wit_HypothesisCommands_retired : let t := hypThread 0 (handleOf 0 0 5) (num 0)
    hyps 0 (handleOf 0 0 5) (num 0) two (.henter 1 cxRel) ∧ Spec.okHandle t (t.reg 1) permLD ∧ (hyp t two).handleNode (t.reg 1) = none ∧
      Spec.okHandle t (t.reg 1) permAMO := by decide +kernel

theorem wit_HypothesisCommands_leave : hyps 0 (num 0) (num 0) two (.hleave cxRel) ∧ hyps 5 (num 0) (num 0) two (.hleave cxRel) := ⟨by decide +kernel, by decide +kernel⟩

/-- A live node with a sibling and without one, a node merged already, and a handle of a past life. -/
theorem wit_HypothesisCommands_resolve : ∀ ns ∈ [two, [(5, node .live 0 1)], [(5, node .merged 0 1)]], let t := hypThread 0 (handleOf 0 1 5) (num 0)
    (∀ i ∈ [Instr.hconfirm 1 3 cxRel, .hconfirmX 1 3 cxRel, .hrefute 1 3 cxRel], hyps 0 (handleOf 0 1 5) (num 0) ns i) ∧ Spec.okHandle t (t.reg 1) permAMO ∧
      Spec.okCell (t.reg 3) ∧ Spec.okUnv t (t.reg 3) ∧ (hyp t ns).handleNode (t.reg 1) = (tget ns 5).map (fun n => (5, n)) := by decide +kernel

theorem wit_HypothesisCommands_siblings : let sibs (ns : Table HypNode) : List Nat :=
      ((((hyp (th []) ns).nodes 0).filter (fun (j, m) => decide (m.state = .live ∧ m.parent = (node .live 0 1).parent ∧ j ≠ 5)))).map Prod.fst
    sibs two ≠ [] ∧ sibs [(5, node .live 0 1)] = [] := by decide +kernel

theorem wit_HypothesisCommands_stat : ∀ a ∈ [(0 : RegNo), 1], let t := hypThread 0 (handleOf 0 1 5) (cap (tcm 0x80))
    let s := hyp t two
    hyps 0 (handleOf 0 1 5) (cap (tcm 0x80)) two (.hstat a 2 3 cxRel) ∧ (a = 0 ∨ Spec.okHandle t (t.reg a) permLD) ∧ Spec.okOperand (t.reg 2) (permST ||| permENG) 64 ∧
      (t.reg 2).lo.toNat % 64 = 0 ∧ Spec.okCell (t.reg 3) ∧ Spec.okWindow t (t.reg 2) ∧
      isOk (s.engWrite (t.cmd 0 cxRel (t.reg 3)).inKeeper.party (t.reg 2).lo (s.hstatLine 0 t.hid (if a = 0 then some t.hid else some 5)) (t.reg 2).hostBit (t.reg 2).unv false).2 = true := by
  decide +kernel

theorem wit_HandlesAndMerges : tget ((hyp (th []) [(4095, node .live 0 1)]).nodes 0) 4095 = some (node .live 0 1) ∧ (pst (th [])).Canonical ∧
    (here true).cached = true ∧ tget (pst (th [])).dirty ((here false).flat / 64) = none := ⟨by decide +kernel, pst_canonical _, rfl, by decide +kernel⟩

/-! ## Combining -/

/-- c1 and c2 operands, c3 the cell, c4 the descriptor. -/
def combThread (a b : Reg) (d : Nat) : Thread := th [a, b, cap (tcm 0x40), num d]

/-- Cluster 0 with this barrier 15 or tree 7. -/
def barred (t : Thread) (b : Table Barrier) : State := (st t).setCluster 0 { Cluster.reset with bars := b }
def treed (t : Thread) (x : Table Tree) : State := (st t).setCluster 0 { Cluster.reset with trees := x }

abbrev combs (t : Thread) (i : Instr) (bs : List (Table Barrier)) : Prop :=
  Spec.okRel cxRel t ∧ Spec.okCombCell t 3 ∧ Spec.okCombCell t 0 ∧
    ∀ b ∈ bs, (barred t b).Issues t i ∧ (barred t b).laneBusy ((Spec.optCmd (st t) t cxRel 3).inComb false 15).lane = false ∧
      ∀ y ∈ tget ((barred t b).cluster 0).bars 15, y.e = 0 ∨ y.a < y.e

def bar (owner e a : Nat) : Barrier := ⟨owner, 0x4000, 2 ^ 48 - 1, e, a, .clu⟩

/-- Barrier 15 at 0x4000 with 1 more expectation; with the most there may be. -/
def expOne : Nat := 0x4000 * 2 ^ 64 + 2 ^ 32 + 15

theorem wit_CombiningCommands_exp : let t := combThread (num 0) (num 0) expOne
    let q := expOne
    combs t (.barExp 4 3 cxRel) [[], [(15, bar 0 (2 ^ 32 - 2) 1)], [(15, bar 1 2 1)]] ∧ (t.reg 4).bits.toNat = q ∧
      q / 2 ^ 103 = 0 ∧ q / 2 ^ 64 % 8 = 0 ∧ q / 2 ^ 6 % 2 ^ 26 = 0 ∧ q / 2 ^ 4 % 2 = 0 ∧ q % 16 = 15 ∧ q / 2 ^ 5 % 2 = 0 ∧ (bar 0 (2 ^ 32 - 2) 1).owner = t.load ∧
      (bar 0 (2 ^ 32 - 2) 1).off = q / 2 ^ 64 % 2 ^ 39 ∧ (bar 0 (2 ^ 32 - 2) 1).e + q / 2 ^ 32 % 2 ^ 32 < 2 ^ 32 ∧ (bar 1 2 1).owner ≠ t.load := by decide +kernel

theorem wit_CombiningCommands_free : let t := combThread (num 0) (num 0) 0x2F
    combs t (.barExpFree 4 3 cxRel) [[(15, bar 0 2 1)]] ∧ (t.reg 4).bits.toNat / 2 ^ 5 % 2 = 1 ∧ (t.reg 4).bits.toNat / 2 ^ 32 = 0 ∧ (t.reg 4).bits.toNat % 16 = 15 ∧
      (t.reg 4).bits.toNat / 2 ^ 6 % 2 ^ 26 = 0 ∧ (t.reg 4).bits.toNat / 2 ^ 4 % 2 = 0 ∧ (bar 0 2 1).owner = t.load := by decide +kernel

theorem wit_CombiningCommands_arr : let t := combThread (num 0) (num 0) (2 ^ 32 + 15)
    combs t (.barArr 4 0 cxRel) [[], [(15, bar 0 0 (2 ^ 32 - 2))]] ∧ (t.reg 4).bits.toNat / 2 ^ 64 = 0 ∧ (t.reg 4).bits.toNat / 2 ^ 4 % 2 ^ 28 = 0 ∧
      0 < (t.reg 4).bits.toNat / 2 ^ 32 ∧ (bar 0 0 (2 ^ 32 - 2)).owner = t.load ∧ 2 ^ 32 - 2 + (t.reg 4).bits.toNat / 2 ^ 32 < 2 ^ 32 := by decide +kernel

/-- A barrier whose arrivals have reached its expectations is found with its phase completed. -/
theorem wit_CombiningCommands_found : ∃ s0, Spec.barrierFound (barred (combThread (num 0) (num 0) expOne) [(15, bar 0 2 3)]) 0 15 s0 := by
  have h : ((barred (combThread (num 0) (num 0) expOne) [(15, bar 0 2 3)]).localFlat (.clu 0 0x4000) 8).toOption.any (fun fs =>
      (barred (combThread (num 0) (num 0) expOne) [(15, bar 0 2 3)]).heldByOther none (fun r => fs.any (fun a => resvOnFlat a 1 r)) = false) = true := by
    decide +kernel
  obtain ⟨fs, e, d⟩ := (Option.any_eq_true _ _).1 h
  refine ⟨_, .inr ⟨bar 0 2 3, fs, rfl, by decide, by decide, ?_, of_decide_eq_true d, rfl⟩⟩
  show State.localFlat _ (.clu 0 0x4000) 8 = .ok fs
  generalize hx : State.localFlat (barred (combThread (num 0) (num 0) expOne) [(15, bar 0 2 3)]) (.clu 0 0x4000) 8 = x at e
  cases x with
  | ok a => cases e; rfl
  | error _ => cases e

/-- Tree 7: one chunk of 4 bytes, its root and its only leaf core 0, results at 0x2000. -/
def tree7 (owner : Nat) (given : List (Nat × Nat × List Byte)) : Tree :=
  { owner := owner, closed := false, ctl := 0x100000040, result := 0x2000, perm := 0 :: List.replicate 63 0xFF
    cmd := (cmdThread ref1 ref1).cmd 0 cx (cap (tcm 0xC0)), round := 0, given := given, ran := 0, since := some 0, holds := [] }

/-- Its image. -/
def image7 : List Byte := leBytes 8 0x100000040 ++ leBytes 8 0x2000 ++ zeroBytes 16 ++ [0] ++ List.replicate 63 0xFF ++ zeroBytes 32

abbrev trees (t : Thread) (i : Instr) (xs : List (Table Tree)) : Prop :=
  Spec.okRel cxRel t ∧ Spec.okCombCell t 3 ∧ ∀ x ∈ xs, (treed t x).Issues t i ∧
    (treed t x).laneBusy ((Spec.optCmd (st t) t cxRel 3).inComb true 7).lane = false

theorem wit_CombiningCommands_cfg : let t := combThread (cap (tcm 0x1000)) (cap (tcm 0xC0)) 7
    let s := (treed t []).tcmWrite 0 0x1000 image7
    trees t (.redCfg 4 1 2 3 cxRel) [[], [(7, tree7 1 [])]] ∧ s.Issues t (.redCfg 4 1 2 3 cxRel) ∧ Spec.okOperand (t.reg 1) (permLD ||| permENG) 128 ∧
      (t.reg 1).lo.toNat % 64 = 0 ∧ Spec.okCell (t.reg 2) ∧ Spec.okUnv t (t.reg 2) ∧ tget (s.cluster 0).trees 7 = none ∧
      (s.engRead ((Spec.optCmd s t cxRel 3).inComb true 7).party (t.reg 1).lo 128 (t.reg 1).hostBit).2 = .ok image7 ∧
      (s.engRead ((Spec.optCmd s t cxRel 3).inComb true 7).party (t.reg 1).lo 128 (t.reg 1).hostBit).1.imageBad 0 t.load image7 = none ∧ (tree7 1 []).owner ≠ t.load := by decide +kernel

theorem wit_CombiningCommands_cfg_here : let t := combThread (cap (tcm 0x1000)) (cap (tcm 0xC0)) 7
    let s := (treed t []).tcmWrite 0 0x1000 image7
    ∃ fs fs', s.Here 0 (t.reg 1).lo 64 fs ∧ s.Here 0 ((t.reg 1).lo + 64) 64 fs' ∧ s.imageBad 0 t.load (s.bytesOf (fs ++ fs')) = none := by
  have h : (hereAt ((treed (combThread (cap (tcm 0x1000)) (cap (tcm 0xC0)) 7) []).tcmWrite 0 0x1000 image7) 0 (tcm 0x1000) 64).any (fun fs =>
      (hereAt ((treed (combThread (cap (tcm 0x1000)) (cap (tcm 0xC0)) 7) []).tcmWrite 0 0x1000 image7) 0 (tcm 0x1000 + 64) 64).any (fun fs' =>
        let s := (treed (combThread (cap (tcm 0x1000)) (cap (tcm 0xC0)) 7) []).tcmWrite 0 0x1000 image7
        decide (s.imageBad 0 (combThread (cap (tcm 0x1000)) (cap (tcm 0xC0)) 7).load (s.bytesOf (fs ++ fs')) = none))) = true := by decide +kernel
  obtain ⟨fs, e, h⟩ := (Option.any_eq_true _ _).1 h
  obtain ⟨fs', e', d⟩ := (Option.any_eq_true _ _).1 h
  exact ⟨fs, fs', here_of e, here_of e', of_decide_eq_true d⟩

theorem wit_CombiningCommands_cfgFree : let t := combThread (num 0) (num 0) 0x107
    trees t (.redCfgFree 4 0 0 3 cxRel) [[(7, tree7 0 [])]] ∧ (t.reg 4).bits.toNat / 2 ^ 8 = 1 ∧ (t.reg 4).bits.toNat % 2 ^ 8 < 8 ∧ (tree7 0 []).owner = t.load ∧
      (tree7 0 []).holds = [] := by decide +kernel

/-- Chunk 0 of 4 bytes, not yet given and given. -/
theorem wit_CombiningCommands_send : let t := combThread (cap (tcm 0x1000)) (num 0) 0x40007
    let q := (t.reg 4).bits.toNat
    trees t (.redSend 4 1 3 cxRel) [[], [(7, tree7 0 [])], [(7, tree7 0 [(0, 0, zeroBytes 4)])]] ∧ q / 2 ^ 24 = 0 ∧ q / 2 ^ 12 % 16 = 0 ∧ q / 2 ^ 3 % 32 = 0 ∧
      4 ≤ q / 2 ^ 16 ∧ q / 2 ^ 16 ≤ 64 ∧ Spec.okOperand (t.reg 1) (permLD ||| permENG) (q / 2 ^ 16) ∧ (t.reg 1).lo.toNat % 8 = 0 ∧ (tree7 0 []).owner = t.load ∧
      (tree7 0 []).leaves.contains 0 = true ∧ q / 2 ^ 8 % 16 ≤ treeChunks (tree7 0 []).ctl ∧ q / 2 ^ 16 = treeBytes (tree7 0 []).ctl ∧
      (tree7 0 []).gave 0 0 = false ∧ (tree7 0 [(0, 0, zeroBytes 4)]).gave 0 0 = true ∧
      isOk ((treed t [(7, tree7 0 [])]).engRead ((Spec.optCmd (st t) t cxRel 3).inComb true 7).party (t.reg 1).lo (q / 2 ^ 16) (t.reg 1).hostBit).2 = true := by decide +kernel

theorem wit_CombiningCommands_here : let t := combThread (cap (tcm 0x1000)) (num 0) 0x40007
    (∃ fs, (treed t [(7, tree7 0 [])]).Here 0 (t.reg 1).lo 4 fs) ∧ (t.reg 1).lo.toNat % 64 + 4 ≤ 64 ∧
      (∃ fs, (barred t [(15, bar 0 2 1)]).Here 0 (t.reg 1).lo 64 fs) ∧ Spec.okUnv t (t.reg 1) :=
  ⟨here_some (by decide +kernel), by decide +kernel, here_some (by decide +kernel), by decide +kernel⟩

theorem wit_CombiningCommands_stat : let t := combThread (cap (tcm 0x1000)) (num 0) 15
    let u := combThread (cap (tcm 0x1000)) (num 0) 23
    combs t (.redStat 4 1 3 cxRel) [[], [(15, bar 0 2 1)]] ∧ trees u (.redStat 4 1 3 cxRel) [[], [(7, tree7 0 [])]] ∧
      Spec.okOperand (t.reg 1) (permST ||| permENG) 64 ∧ (t.reg 1).lo.toNat % 64 = 0 ∧ Spec.okWindow t (t.reg 1) ∧
      isOk ((barred t [(15, bar 0 2 1)]).engWrite ((Spec.optCmd (st t) t cxRel 3).inComb false 15).party (t.reg 1).lo (bar 0 2 1).line (t.reg 1).hostBit (t.reg 1).unv false).2 = true ∧
      isOk ((treed u [(7, tree7 0 [])]).engWrite ((Spec.optCmd (st u) u cxRel 3).inComb true 7).party (u.reg 1).lo ((tree7 0 []).line 0) (u.reg 1).hostBit (u.reg 1).unv false).2 = true := by
  decide +kernel

theorem wit_CombiningEvents_barrier : let y := bar 0 2 2
    let s := barred (th []) [(15, y)]
    tget (s.cluster 0).bars 15 = some y ∧ 0 < y.e ∧ y.e ≤ y.a ∧ (s.localFlat (.clu 0 y.off) 8).toOption.isSome = true ∧
      ∀ fs ∈ (s.localFlat (.clu 0 y.off) 8).toOption, s.heldByOther none (fun r => fs.any (fun a => resvOnFlat a 1 r)) = false := by decide +kernel

/-- A full round, and one whose leaf is late by 256 cycles. -/
theorem wit_CombiningEvents_round : let y := tree7 0 [(0, 0, zeroBytes 4)]
    let z := tree7 0 []
    let s (x : Tree) : State := { treed (th []) [(7, x)] with cycle := 256 }
    tget ((s y).cluster 0).trees 7 = some y ∧ y.closed = false ∧ (s y).resultHeld y 0 = false ∧ (s y).resultFits y 0 = true ∧ y.holds = [] ∧
      (∀ leaf ∈ y.perm, leaf ≠ 0xFF → y.gaveAll leaf = true) ∧
      tget ((s z).cluster 0).trees 7 = some z ∧ (s z).resultHeld z 0 = false ∧ (s z).resultFits z 0 = true ∧ z.since = some 0 ∧
      (∃ leaf ∈ z.perm, leaf ≠ 0xFF ∧ z.gaveAll leaf = false) ∧ z.ctl.toNat / 2 ^ 32 ≠ 0 ∧ z.ctl.toNat / 2 ^ 32 * 256 ≤ z.ran + ((s z).cycle - 0) := by decide +kernel

/-! ## Page requests and the host's translations -/

/-- A partition with a fault queue at host address 0x10000 of 16 records, its response line at 0x20000. -/
def asking : Partition := { placedPart with record := [0x1000, 0, 1 * 2 ^ 32, 0x10000, 0x11000, 4, 0x20000, 0] }

/-- Request 1 for page 0x11. -/
def pageReq (w : Bool) : PageReq :=
  { id := 1, part := 0, page := 0x11, level := 0, entry := 0, write := true, fetch := false, watch := false, tid := 0, load := 0, since := 0, written := w }

def asked1 (p : Partition) (w : Bool) (c : Nat) : State :=
  { ((st (th [])).setPart 0 p).setCluster 0 { Cluster.reset with pageReqs := [pageReq w] } with cycle := c }

/-- The last free record of the queue. -/
theorem wit_PageRequests_record : let p := { asking with fqIndex := 15 }
    let s : State := asked1 p false 0
    let s := { s with bridge := { s.bridge with hostUp := true } }
    tget s.parts 0 = some p ∧ s.nextPageReq 0 = some (0, pageReq false) ∧ p.fqIndex - p.fqRead < p.fqSlots ∧ s.bridge.hostUp = true ∧
      (pageReq false).page < 2 ^ 52 ∧ s.bridge.atsOn.getLsbD 0 = false := by decide +kernel

/-- With the function's ATS on: its translation cached, and not. -/
def queueOnAts (atc : List AtcEntry) : State := let s := asked1 asking false 0
  { s with bridge := { s.bridge with hostUp := true, atsOn := 1, atc := atc } }

theorem wit_PageRequests_record_ats : let at_ (p : Nat) : AtcEntry := ⟨0, p, p, true, true, false⟩
    let s := queueOnAts [at_ 0x10, at_ 0x11]
    let r := s.recordAt 0 (asking.word 3 + 64 * (asking.fqIndex % asking.fqSlots))
    let r' := r.1.recordAt 0 (asking.word 4)
    isOk r.2 = true ∧ isOk r'.2 = true ∧ r'.1.bridge.chip = s.bridge.chip ∧ r'.1.cycle = s.cycle ∧
      ((queueOnAts []).recordAt 0 (asking.word 3 + 64 * (asking.fqIndex % asking.fqSlots))).2 = .hold := by decide +kernel

theorem wit_PageRequests_message : let p := { asking with msiPending := true, lastMsi := some 0 }
    let s := (asked1 p true 4096).setBarByte 0 12 0
    tget s.parts 0 = some p ∧ p.msiPending = true ∧ (∀ c, p.lastMsi = some c → c + 4096 ≤ s.cycle) ∧ s.vectorMasked 0 p.fqVector = false ∧ p.fqVector < 64 :=
  ⟨by decide +kernel, rfl, fun c h => by cases h; decide +kernel, by decide +kernel, by decide +kernel⟩

/-- A response, at index 0, that names request 1 of cluster 0, and one that names none. -/
theorem wit_PageRequests_response : let p := { asking with respIndex := 1 }
    let s (id : Nat) : State := (asked1 p true 0).putEntry (0x20000 + 64) (BitVec.ofNat 64 id)
    asking.hasFaultQueue = true ∧ p.respRead < p.respIndex ∧ (∀ id ∈ [1, 2], leNat ((s id).bytesAt (0x20000 + 64) 8) = id ∧
      (((s id).cluster 0).pageReqs.find? (fun q => q.part = 0 ∧ q.id = id) = if id = 1 then some (pageReq true) else none)) := by decide +kernel

theorem wit_PageRequests_limit : let s := asked1 asking true 65536
    (s.cluster 0).pageReqs.find? (fun q => q.id = 1) = some (pageReq true) ∧ asking.reqLimit = some 65536 ∧ 0 + 65536 ≤ s.cycle := by decide +kernel

theorem wit_PageRequests_answer : let r := req .store 0x11000 4 (.home 0) (.paging 0x11)
    let s := { asked1 asking true 0 with reqs := [(4, r)], nextReq := 5 }
    tget s.reqs 4 = some r ∧ r.phase = .paging (pageReq true).page ∧ r.part = (pageReq true).part ∧ r.target = .home 0 := by decide +kernel

/-- An access that waits for room, and an engine's that waits for the page. -/
theorem wit_PageRequests_freed : let r := req .store 0x12000 4 (.home 0) (.paging 0x12)
    let h : EngHold := ⟨9, rootParty 0, 0x11 * 64, .page, 0, none⟩
    let s0 := asked1 asking true 0
    let s : State := { s0.setCluster 0 { s0.cluster 0 with engHolds := [h] } with reqs := [(4, r)], nextReq := 5 }
    tget s.reqs 4 = some r ∧ r.phase = .paging 0x12 ∧ r.target = .home 0 ∧ 0x12 ≠ (pageReq true).page ∧
      (∀ x ∈ (s.cluster 0).pageReqs, x.part = r.part → x.page ≠ 0x12) ∧ h ∈ (s.cluster 0).engHolds ∧ h.why = .page ∧ h.who.part = (pageReq true).part ∧
        h.line / 64 = (pageReq true).page := by decide +kernel

/-- A translation request, or a page request group, of partition 0 for host page 7. -/
def ats7 (pri marked : Bool) : AtsReq := ⟨0, 7, true, pri, marked, 0, false⟩

def atHost (a : AtsReq) (c : Nat) : State := let s := (st (th [])).setPart 0 asking
  { s with bridge := { s.bridge with ats := [a] }, cycle := c }

theorem wit_AddressTranslationServices : (∀ m ∈ [true, false], (atHost (ats7 false m) (2 ^ 24)).bridge.ats.find?
      (fun a => a.part = 0 ∧ a.page = 7 ∧ a.pri = false) = some (ats7 false m)) ∧ (ats7 false true).since + 2 ^ 24 ≤ (atHost (ats7 false true) (2 ^ 24)).cycle ∧
    (atHost (ats7 true false) 65536).bridge.ats.find? (fun a => a.part = 0 ∧ a.page = 7 ∧ a.pri = true) = some (ats7 true false) ∧
      tget (atHost (ats7 true false) 65536).parts 0 = some asking ∧ asking.reqLimit = some 65536 ∧ 0 + 65536 ≤ (atHost (ats7 true false) 65536).cycle := by decide +kernel

/-- A store that asks for its translation, and a request on its way that an invalidation marks. -/
theorem wit_AddressTranslationServices_asks : let r := req .store 0x10000 8 (.home 0) (.ats 7)
    let s := withReq (pst loader) r
    tget s.reqs 4 = some r ∧ (ats7 false false).asks r = true ∧ 0 ≤ (ats7 false false).page ∧ (ats7 false false).page < 0 + 8 := by decide +kernel

theorem wit_AddressTranslationServices_read : let r := req .load 0x10000 8 (.home 0) .atHost
    let s0 := withReq (pst loader) r
    let s := { s0 with bridge := { s0.bridge with out := [.readReq 0 0x10000 4] } }
    tget s.reqs 4 = some r ∧ r.phase = .atHost ∧ s.sentToHost 4 = true := by decide +kernel

theorem wit_HostEvents : (pst (th [])).steward.power = .aster ∧ (pst (th [])).Canonical ∧ (pst (th [])).NoStale ∧
    (pst (th [])).flatHeld (flatHost 0x40 / 64) = false := ⟨rfl, pst_canonical _, by decide +kernel, by decide +kernel⟩

/-- The placed page as an HDM range of 4 KiB at host address 0x100000. -/
def hdmPart : Partition := { placedPart with hdm := some (0x100000, 0x10000, 4096) }

def found (r : State × Trans) : Bool := match r.2 with | .ok _ l => pteTgt l == 0 | _ => false

/-- Its last 64 bytes; a range behind it that is not mapped. -/
theorem wit_HostEvents_memory : let s := (pst (th [])).setPart 0 hdmPart
    tget s.parts 0 = some hdmPart ∧ 0x100000 ≤ 0x100FC0 ∧ 0x100FC0 + 64 ≤ 0x100000 + 4096 ∧ 0x100FC0 % 64 + 64 ≤ 64 ∧
      (s.powerUp.admitted (hdmPart.homeOf 0x10FC0) 0 3 (0x10FC0 / 64)).isSome = true ∧
      ∀ s1 ∈ s.powerUp.admitted (hdmPart.homeOf 0x10FC0) 0 3 (0x10FC0 / 64), found (s1.translate 0 0x10FC0 .read true false) = true ∧
        found (s1.translate 0 0x10FC0 .write true true) = true ∧
        (s1.translate 0 0x11000 .read true false).2 = .fault 0x10 := by decide +kernel

/-- The same range of uncached pages, its translation in the slice. -/
def hdmHere : State := (((paged (pst (th [])) ncPage).setPart 0 hdmPart).translate 0 0x10FC0 .write true true).1

theorem wit_HostEvents_mapped : hdmHere.Mapped 0 0x10FC0 .read true hdmPart (entryIn hdmHere) ∧ hdmHere.Mapped 0 0x10FC0 .write true hdmPart (entryIn hdmHere) ∧
    hdmHere.steward.power = .aster ∧ hdmHere.Canonical ∧ hdmHere.NoStale :=
  ⟨mapped_of (by decide +kernel), mapped_of (by decide +kernel), by decide +kernel, canon_of (by decide +kernel), by decide +kernel⟩

theorem wit_HostEvents_mapped_line : let l := hdmPart.found (entryIn hdmHere) 0 0x10FC0
    hdmPart.hdm = some (0x100000, 0x10000, 4096) ∧ 0x10000 + (0x100FC0 - 0x100000) = 0x10FC0 ∧ (hdmHere.cluster l.cl).unit? 0 l.line = none ∧
      hdmHere.viewPoisoned l 0 64 = false ∧ l.cached = false ∧ hdmHere.engWriteHeld l = false ∧ tget hdmHere.dirty (l.flat / 64) = none := by decide +kernel

theorem wit_HostEvents_function : (tget (((pst (th [])).warmRestart (fun q => decide (q = 0))).parts) 0).isSome = true := by decide +kernel

/-- The table's last byte and what lies above it; the mailbox's sequence word and arguments. -/
theorem wit_HostEvents_registers : 63 < 64 ∧ 0x3F8 % 8 = 0 ∧ 0x3F8 < 0x400 ∧ 0x1008 ≤ 0x10F8 ∧ 0x10F8 < 0x1100 ∧ 0x400 ≤ 0xFF8 ∧ 0xFF8 < 0x1000 ∧
    (2#64).toNat ≠ (State.reset.mailbox 63).seqWord + 1 := by decide +kernel

/-! ## Links -/

theorem wit_LinkEvents_count : ∀ k, k < 36 → (0x800000000#36).getLsbD k = if k = 35 then true else State.reset.bridge.links.getLsbD k := by decide +kernel

/-- A read that has been sent to module 5. -/
theorem wit_LinkEvents_requests : let r := req .load 0x4000000000000000 8 (.peer 5) .atHost
    let s := { withReq (pst loader) r with cycle := 2 ^ 20 }
    tget s.reqs 4 = some r ∧ r.phase = .atHost ∧ (∃ c, r.target = .peer c) ∧ r.sentAt + 2 ^ 20 ≤ s.cycle ∧ r.kind.returns = true :=
  ⟨by decide +kernel, rfl, ⟨5, rfl⟩, by decide +kernel, rfl⟩

/-- The first GiB offered to tag 7, for reading and for writing. -/
def offers (w : Bool) : State := let s := st (th [])
  { s with bridge := { s.bridge with offered := [(0, if w then 0x1C0003 else 0x1C0001)] } }

theorem wit_LinkEvents_access : ∀ w ∈ [true, false], let s := offers w
    let e := (tget s.bridge.offered ((2 ^ 30 - 8) / 2 ^ 30)).getD 0
    s.steward.power = .aster ∧ s.steward.moving = false ∧ s.NoStale ∧ s.poisonedAt ((List.range 8).map (2 ^ 30 - 8 + ·)) = false ∧
      2 ^ 30 - 8 < dramEnd ∧ e.getLsbD 0 = true ∧ e.extractLsb' 18 16 = 7 ∧ e.getLsbD 1 = w ∧
      peerWrites (.store (zeroBytes 8) false) = true ∧ s.flatHeld ((2 ^ 30 - 8) / 64) = false ∧ (2 ^ 30 - 8) % 64 + (zeroBytes 8).length ≤ 64 := by decide +kernel

theorem wit_LinkEvents_refused : let e := (tget (offers true).bridge.offered (2 ^ 30 / 2 ^ 30)).getD 0
    e.getLsbD 0 = false ∧ ((tget (offers true).bridge.offered 0).getD 0).extractLsb' 18 16 ≠ 8 ∧ dramEnd ≤ dramEnd ∧ (offers true).Canonical :=
  ⟨by decide +kernel, by decide +kernel, Nat.le_refl _, ⟨rfl, rfl, rfl, fun _ h => nomatch h⟩⟩

/-- A marked byte of an offered line; a reservation of thread 5 of module 3 there. -/
theorem wit_LinkEvents_marked : ({ offers true with poison := [2 ^ 30 - 1] } : State).poisonedAt ((List.range 16).map (2 ^ 30 - 16 + ·)) = true := by decide +kernel

theorem wit_LinkEvents_reserved : let s := (offers true).addPeerResv 3 5 ⟨2 ^ 30 - 8, 8, 0, true, 2 ^ 30 - 8, 8, 0, 0⟩
    s.peerReserved 3 5 (2 ^ 30 - 8) 8 = true ∧ s.poisonedAt ((List.range 8).map (2 ^ 30 - 8 + ·)) = false := by decide +kernel

/-! ## The steward -/

/-- A running steward, idle, whose fault queue is none, with core 5 quarantined. -/
def steward : State := let s := pst (th [])
  { s with steward := { s.steward with running := true }, bridge := { s.bridge with hostUp := true }
           cores := tput s.cores 5 { Core.reset with quarantined := true } }

/-- The first command of function 0. -/
def mail1 : Mail := ⟨0, 1, false, []⟩

theorem wit_StewardCommands_acts : (∀ op ∈ [1, 2, 3, 4, 5, 6, 7, 8, 9, 10], Spec.mailActs steward mail1 op true ∧ Spec.mailActs steward mail1 op false) ∧
    (tget steward.powerUp.parts (mail1.fn % 64)).isSome = true ∧ steward.steward.attIndex < 2 ^ 20 ∧ steward.bridge.hostUp = true := by decide +kernel

/-- Partition 1 in the home window of the last cluster, with key 255, one line of memory. -/
def setup1 : PartArgs :=
  { part := 1, pasid := 0xFFFFF, domTag := 7, record := [0x2000, 0x3FFF, 0, 0, 0, 0, 0, 0], keys := [255], budgets := [], memBudgets := [], verLines := 1024
    hdm := none, mint := 0, pages := [(0x40000, 1)], offers := [], queues := [0x3000], ats := true }

theorem wit_StewardCommands_setup : steward.powerUp.setupOk setup1 = true := by decide +kernel

theorem wit_StewardCommands_core : (steward.powerUp.core 5).quarantined = true ∧ (steward.core 5).quarantined = true ∧ steward.loads = [] := by decide +kernel

/-- The last slice, to the largest size. -/
theorem wit_StewardCommands_park : 0 < 1 ∧ 16383 + 1 ≤ 16384 ∧ 16 ≤ 16 ∧ (steward.powerUp.parkFrom 16 1 16383).2 = none := by decide +kernel

/-- A host queue's descriptor in core 0's TCM: a ring at 0x8000 of 16 slots. -/
def hostQueue : State := (steward.tcmWrite 0 0x1010 (leBytes 8 0x8000)).tcmWrite 0 0x1018 (leBytes 8 4)

theorem wit_StewardCommands_queue : hostQueue.steward.power = .aster ∧ tget hostQueue.parts (mail1.fn % 64) = some placedPart ∧ (tcm 0x1000).toNat % 64 = 0 ∧
    hostQueue.queueAt (mail1.fn % 64) (tcm 0x1000) = none ∧ Spec.mailActs hostQueue mail1 3 false ∧ (hostQueue.powerUp.hostQueue 0 (tcm 0x1000).toNat).2 = .ok () ∧
    (∃ c, (hostQueue.powerUp.hostQueue 0 ((tcm 0x1000).toNat + 1)).2 = .fault c) :=
by
  refine ⟨?_, ?_, ?_, ?_, ?_, ?_, 0x09, ?_⟩ <;> decide +kernel

theorem wit_StewardCommands_queue_dies : ∀ d, (hostQueue.die d).queues.length < 4096 := fun _ => Nat.zero_lt_succ _

theorem wit_StewardCommands_queue_here : ∃ fs, hostQueue.Here 0 (tcm 0x1000) 64 fs ∧
    let w (i : Nat) : Word := BitVec.ofNat 64 (leNat (((hostQueue.bytesOf fs).drop i).take 8))
    (w 24).getLsbD 8 = false ∧ (w 24).toNat < 2 ^ 16 ∧ 4 ≤ (w 24).toNat % 256 ∧ (w 24).toNat % 256 ≤ 16 ∧ (w 16).toNat % 128 = 0 := by
  have h : (hereAt hostQueue 0 (tcm 0x1000) 64).any (fun fs =>
      let w (i : Nat) : Word := BitVec.ofNat 64 (leNat (((hostQueue.bytesOf fs).drop i).take 8))
      decide ((w 24).getLsbD 8 = false ∧ (w 24).toNat < 2 ^ 16 ∧ 4 ≤ (w 24).toNat % 256 ∧ (w 24).toNat % 256 ≤ 16 ∧ (w 16).toNat % 128 = 0)) = true := by
    decide +kernel
  obtain ⟨fs, e, d⟩ := (Option.any_eq_true _ _).1 h
  exact ⟨fs, here_of e, of_decide_eq_true d⟩

/-- A slice of the last cluster takes a size, and cannot take the largest beside the versions of its partition. -/
theorem wit_StewardCommands_park_one : steward.powerUp.parkFits 16383 16 = true ∧
    ((steward.powerUp.setupPart { setup1 with verLines := 16384 }).parkFits 16383 16) = false := by decide +kernel

theorem wit_StewardCommands_busy : ({ steward with steward := { steward.steward with moving := true } } : State).mailDue mail1 8 = true ∧
    ({ mail1 with reserved := true } : Mail).reserved = true ∧ steward.mailDue { mail1 with reserved := true } 8 = true := by decide +kernel

/-- The firmware's mailbox, its command sequence 1 and opcode 8 at 0x40000. -/
theorem wit_StewardCommands_firmware : let s0 := (steward.putEntry 0x40000 1).putEntry 0x40008 8
    let s := { s0 with steward := { s0.steward with firmLoad := some 9, firmPage := 0x40000 } }
    s.mailDue ⟨fwMail, 1, false, []⟩ 8 = true ∧ s.steward.moving = false := by decide +kernel

/-- The firmware's partition. -/
def boot : BootArgs :=
  { stewardImg := 1, firmwareImg := 2, setup := { setup1 with part := 0 }, core := 16383 * 64, code := rootCap.bits, data := rootCap.bits, ctx := 0x800, record := 0x400
    mailVa := 0x1000, mailAt := 0x40000, clusters := [0], stops := [0], words := [(0x2000, 0x3001)] }

theorem setupOk_keys (s : State) (x : Steward) (p : PartArgs) (h : x.keys = s.steward.keys) : ({ s with steward := x } : State).setupOk p = s.setupOk p := by
  have hk : ({ s with steward := x } : State).keyFree = s.keyFree := by
    funext k
    simp only [State.keyFree, h]
  unfold State.setupOk
  rw [hk]
  rfl

theorem wit_StewardEvents_boot : State.reset.steward.running = false ∧ boot.setup.part = 0 ∧
    ({ State.reset with steward := { State.reset.steward with
        running := true, stewardVer := Config.imageVersion boot.stewardImg, attIndex := 1024 * State.reset.steward.attBlocks
        attBlocks := Nat.min 1024 (State.reset.steward.attBlocks + 1), moving := false, power := .aster } } : State).setupOk boot.setup = true := by
  exact ⟨by decide +kernel, rfl, (setupOk_keys State.reset _ boot.setup rfl).trans (by decide +kernel)⟩

theorem wit_StewardEvents_zero : (pst (th [])).Canonical ∧ (dramEnd - 64) % 64 = 0 ∧ dramEnd - 64 + 64 * 1 ≤ dramEnd ∧ (State.reset.core 5).vacant = true ∧
    (st (th [])).loads = [] := ⟨pst_canonical _, by decide +kernel, by decide +kernel, by decide +kernel, rfl⟩

/-- Idle partitions that tolerate 2, 60 and 2,000 microseconds. -/
def tolerant (us : Nat) (moving : Bool) : State :=
  { State.reset with parts := [(0, { placedPart with tolerance := us })], steward := { State.reset.steward with moving := moving } }

theorem wit_StewardEvents_power : ∀ e ∈ [(2, Power.iris), (59, .iris), (60, .poppy), (1999, .poppy), (2000, .lupin)], ∀ m ∈ [true, false],
    (tolerant e.1 m).deepest = e.2 ∧ (tolerant e.1 m).steward.power.code < (tolerant e.1 m).deepest.code ∧ (tolerant e.1 m).steward.moving = m := by decide +kernel

theorem wit_StewardEvents_soft : (tget State.reset.steward.softAt 3).getD 0 + 2 ^ 30 ≤ ({ State.reset with cycle := 2 ^ 30 } : State).cycle := by decide +kernel

/-! ## Whole steps -/

/-- It is core 0's turn. -/
def turn (t : Thread) : State := { pst t with agenda := [.core 0] }

/-- A thread that holds its line, one that does not, one at a word that does not decode, and one whose line cannot be fetched. -/
theorem wit_StepRunsDecoded : ∀ t ∈ [th [], { th [] with line := none }, { th [] with line := some ⟨0x10000, leBytes 2 0xF800 ++ leBytes 2 0x0180 ++ zeroBytes 60⟩ },
      { th [] with line := none, pcc := rootCap.withCursor 0x11002 }],
    ({ turn t with agenda := [] } : State).chosen 0 = some 0 ∧ ({ turn t with agenda := [] } : State).atPos 0 0 = some (0, t) ∧ t.pcc.lo.toNat % 64 / 2 = 1 := by decide +kernel

def enters (t : Thread) : State × Entry := ({ turn t with agenda := [], cur := 0 } : State).enterLine 0 t t.pcc t.pcc.lo

theorem wit_StepRunsDecoded_line : (th []).heldLine = some nopLine ∧ decodeAt nopLine.bytes 1 = .ok .nop ∧ ({ th [] with line := none } : Thread).heldLine = none ∧
    (match (enters { th [] with line := none }).2 with | .ok l => decide (l = nopLine) | _ => false) = true ∧
    (match (enters { th [] with line := none, pcc := rootCap.withCursor 0x11002 }).2 with | .fault c _ => decide (c = 0x10) | _ => false) = true ∧
    (match decodeAt (leBytes 2 0xF800 ++ leBytes 2 0x0180 ++ zeroBytes 60) 1 with | .error e => decide (e = .reserved) | .ok _ => false) = true :=
  ⟨by decide +kernel, rfl, rfl, by decide +kernel, by decide +kernel, by decide +kernel⟩

/-- A thread whose line is on a page that moves. -/
theorem wit_StepRunsDecoded_hold : let t := { th [] with line := none }
    let s := paged ({ turn t with agenda := [], cur := 0 } : State) 0x01000000000100A7
    (match (s.enterLine 0 t t.pcc t.pcc.lo).2 with | .hold => true | _ => false) = true := by decide +kernel

theorem wit_StepRunsDecoded_turns : ∀ x ∈ [Turn.pass 3, .spoil 0x10000 16, .event .hostLinkUp], ({ turn (th []) with agenda := [x] } : State).agenda = x :: [] :=
  fun _ _ => rfl

theorem wit_StepRunsDecoded_event : encode (.hostLinkUp) = none ∧ encode (.nop) ≠ none := ⟨rfl, by decide⟩

theorem wit_NothingStops : ∀ i r, (turn (th [])).agenda = .event i :: r → encode i = none := fun _ _ h => nomatch h

theorem wit_DecodeEncode : (Instr.ldW 31 0 (-8192) true (some .mod) .s).wellFormed = true ∧ (encode (.ldW 31 0 (-8192) true (some .mod) .s)).isSome = true ∧
    (match decode 0x9914 0x1401FFF8 with | .ok _ => true | .error _ => false) = true := by decide +kernel

theorem wit_MemoryOperationsKeepForm : (pst (th [])).Canonical ∧ 0x1003C % 64 + (zeroBytes 4).length ≤ 64 := ⟨pst_canonical _, by decide⟩

theorem wit_StepKeepsMemoryForm : (turn (th [])).Canonical ∧ ∃ s', step (turn (th [])) = .next s' :=
  ⟨⟨pst_mem_wf, rfl, rfl, fun _ h => nomatch h⟩, _, rfl⟩

end Sys2Proof.Tests
end

namespace Sys2Proof.Machine

/-! ## Reading and writing integer formats (03 R77) -/

theorem intRead_signed {w : Nat} (hw : 0 < w) (b : Nat) : intRead w true b = Spec.sx w (b % 2 ^ w) := by
  obtain ⟨k, rfl⟩ := Nat.exists_eq_add_one.mpr hw
  unfold intRead Spec.sx
  have hpow : 2 ^ (k + 1) = 2 * 2 ^ k := Nat.pow_succ'
  simp only [Nat.add_sub_cancel, Bool.true_and, decide_eq_true_eq]
  split <;> split <;> omega

theorem intRead_unsigned (w b : Nat) : intRead w false b = (b % 2 ^ w : Nat) := rfl

/-- Signed or unsigned, the value read is congruent to the bits modulo 2^w. -/
theorem intRead_emod (w : Nat) (signed : Bool) (b : Nat) : intRead w signed b % 2 ^ w = (b : Int) % 2 ^ w := by
  unfold intRead
  have hcast : ((b % 2 ^ w : Nat) : Int) = (b : Int) % 2 ^ w := by norm_cast
  simp only [hcast]
  split
  · rw [Int.sub_emod_right, Int.emod_emod]
  · rw [Int.emod_emod]

theorem intBits_congr {w : Nat} {v v' : Int} (h : v % 2 ^ w = v' % 2 ^ w) : intBits w v = intBits w v' := congrArg Int.toNat h

theorem intBits_natCast (w v : Nat) : intBits w v = v % 2 ^ w := by
  unfold intBits
  norm_cast

theorem intBits_eq_wrap (w : Nat) (v : Int) : intBits w v = Spec.wrap w v := rfl

/-- A format that distinguishes all of its codes: equal values have equal bits. -/
theorem intRead_inj {w x y : Nat} (signed : Bool) (hx : x < 2 ^ w) (hy : y < 2 ^ w) : intRead w signed x = intRead w signed y ↔ x = y := by
  refine ⟨fun h => ?_, fun h => h ▸ rfl⟩
  have hmod : (x : Int) % 2 ^ w = (y : Int) % 2 ^ w := by rw [← intRead_emod w signed x, h, intRead_emod]
  have hbits := intBits_congr hmod
  rwa [intBits_natCast, intBits_natCast, Nat.mod_eq_of_lt hx, Nat.mod_eq_of_lt hy] at hbits

/-! ## Elements of the vector engine (12 R323 to R327) -/

theorem intFmt_layout {f : Fmt} {n : Nat} {signed : Bool} (h : Spec.intFmt f n signed) :
    0 < n ∧ Fmt.layout f = none ∧ Fmt.bits f = n ∧ (Fmt.intInfo f).2 = signed := by
  rcases h with ⟨rfl, rfl, rfl⟩ | ⟨rfl, rfl, rfl⟩ | ⟨rfl, rfl, rfl⟩ | ⟨rfl, rfl, rfl⟩ | ⟨rfl, rfl, rfl⟩ | ⟨rfl, rfl, rfl⟩ <;> decide

/-- A member that computes gives, in an integer format, the value of `vecInt` and no flag. -/
theorem vecElement_of_intFmt (tab : K8Table) {op : VecOp} {f : Fmt} {n : Nat} {signed : Bool} (mode : RMode) (u x y z : Nat)
    (hf : Spec.intFmt f n signed) (hop : op ∉ [VecOp.sel, .bcast, .gat, .sct, .cvt]) :
    vecElement tab op f f mode u x y z = ⟨vecInt op n signed x y, 0⟩ := by
  obtain ⟨-, hlay, rfl, rfl⟩ := intFmt_layout hf
  cases op with
  | sel | bcast | gat | sct | cvt => exact absurd (by decide) hop
  | _ => simp only [vecElement, hlay]

/-- `vecInt` computes what the member's row says. -/
theorem vecInt_eq_of_vecInteger {op : VecOp} {w : Nat} {signed : Bool} {x y z v : Nat} (hw : 0 < w) (hx : x < 2 ^ w) (hy : y < 2 ^ w)
    (hop : op ≠ .sel) (hv : Spec.vecInteger op w signed x y z = some v) : vecInt op w signed x y = v := by
  have hmx := intRead_emod w signed x
  have hmy := intRead_emod w signed y
  have hsx : intRead w true x = Spec.sx w x := by rw [intRead_signed hw, Nat.mod_eq_of_lt hx]
  have hsy : intRead w true y = Spec.sx w y := by rw [intRead_signed hw, Nat.mod_eq_of_lt hy]
  have hux : intRead w false x = x := by rw [intRead_unsigned, Nat.mod_eq_of_lt hx]
  have huy : intRead w false y = y := by rw [intRead_unsigned, Nat.mod_eq_of_lt hy]
  cases op with
  | sel => exact absurd rfl hop
  | div | fma | sqrt | cvt => cases hv
  | bcast | gat | sct => exact Option.some.inj hv
  | add | rsum =>
    rw [← Option.some.inj hv]
    exact (intBits_congr (by rw [Int.add_emod, hmx, hmy, ← Int.add_emod, Int.natCast_add])).trans (intBits_natCast w (x + y))
  | sub =>
    rw [← Option.some.inj hv]
    exact intBits_congr (by rw [Int.sub_emod, hmx, hmy, ← Int.sub_emod])
  | mul =>
    rw [← Option.some.inj hv]
    exact (intBits_congr (by rw [Int.mul_emod, hmx, hmy, ← Int.mul_emod, Int.natCast_mul])).trans (intBits_natCast w (x * y))
  | shl =>
    rw [← Option.some.inj hv]
    have hbits : intBits w ((x : Int) * 2 ^ (y % w)) = Spec.sll w x y := by exact_mod_cast intBits_natCast w (x * 2 ^ (y % w))
    exact (intBits_congr (by rw [Int.mul_emod, hmx, ← Int.mul_emod])).trans hbits
  | and | or | xor =>
    rw [← Option.some.inj hv]
    simp [vecInt, Nat.mod_eq_of_lt hx, Nat.mod_eq_of_lt hy]
  | ceq =>
    rw [← Option.some.inj hv]
    simp only [vecInt, intRead_inj signed hx hy, decide_eq_true_eq]
  | abs =>
    cases signed with
    | false => cases hv
    | true =>
      rw [← Option.some.inj hv]
      simp only [vecInt, hsx, intBits_eq_wrap]
  | neg =>
    cases signed with
    | false => cases hv
    | true =>
      rw [← Option.some.inj hv]
      exact intBits_congr (by rw [← Int.zero_sub, Int.sub_emod, hmx, ← Int.sub_emod]; rfl)
  | min | rmin | max | rmax | clt | cle =>
    rw [← Option.some.inj hv]
    cases signed <;> simp [vecInt, hsx, hsy, hux, huy, Spec.min, Spec.minu, Spec.max, Spec.maxu]
  | shr =>
    rw [← Option.some.inj hv]
    cases signed with
    | true => simp [vecInt, hsx, Spec.sra, intBits_eq_wrap]
    | false =>
      have hlt : x / 2 ^ (y % w) < 2 ^ w := Nat.lt_of_le_of_lt (Nat.div_le_self _ _) hx
      simp only [vecInt, hux]
      exact_mod_cast (intBits_natCast w _).trans (Nat.mod_eq_of_lt hlt)

theorem vecElement_eq_of_vecInteger (tab : K8Table) {op : VecOp} {f : Fmt} {n : Nat} {signed : Bool} (mode : RMode) (u : Nat) {x y z v : Nat}
    (hf : Spec.intFmt f n signed) (hx : x < 2 ^ n) (hy : y < 2 ^ n) (hv : Spec.vecInteger op n signed x y z = some v) :
    vecElement tab op f f mode u x y z = ⟨v, 0⟩ := by
  cases op with
  | sel => simpa [vecElement, Spec.vecInteger] using hv
  | cvt => cases hv
  | bcast | gat | sct =>
    rw [← Option.some.inj hv]
    rfl
  | _ =>
    rw [vecElement_of_intFmt tab mode u x y z hf (by decide), vecInt_eq_of_vecInteger (intFmt_layout hf).1 hx hy (by decide) hv]

/-! ## The reduction tree over a sum that wraps (03 R98) -/

/-- An operator that adds modulo `m` and raises no flag. -/
def WrapsSum (m : Nat) (f : Nat → Nat → Nat → FRes) : Prop := ∀ k x y, x < m → y < m → f k x y = ⟨(x + y) % m, 0⟩

/-- A level halves the list and keeps its bound, its sum modulo `m` and the flags. -/
theorem treeLevel_of_wrapsSum {m : Nat} {f : Nat → Nat → Nat → FRes} (hf : WrapsSum m f) (l : List Nat) (k : Nat) (g : FlagSet)
    (hl : ∀ x ∈ l, x < m) :
    ∃ l' k', treeLevel f l k g = (l', k', g) ∧ l'.length = (l.length + 1) / 2 ∧ (∀ x ∈ l', x < m) ∧ l'.sum % m = l.sum % m := by
  match l with
  | [] => exact ⟨[], k, rfl, rfl, hl, rfl⟩
  | [x] => exact ⟨[x], k, rfl, by simp, hl, rfl⟩
  | x :: y :: r =>
    simp only [List.forall_mem_cons] at hl
    obtain ⟨hx, hy, hr⟩ := hl
    obtain ⟨r', k', hlevel, hlen, hlt, hsum⟩ := treeLevel_of_wrapsSum hf r (k + 1) g hr
    refine ⟨(x + y) % m :: r', k', ?_, ?_, ?_, ?_⟩
    · simp [treeLevel, hf k x y hx hy, hlevel]
    · simp only [List.length_cons, hlen]
      omega
    · exact List.forall_mem_cons.mpr ⟨Nat.mod_lt _ (by omega), hlt⟩
    · calc ((x + y) % m :: r').sum % m = (x + y + r'.sum) % m := by simp
        _ = (x + y + r.sum) % m := by rw [Nat.add_mod, hsum, ← Nat.add_mod]
        _ = (x :: y :: r).sum % m := by simp [Nat.add_assoc]

/-- The tree over a list that its levels suffice for gives the sum modulo `m`. -/
theorem treeReduce_of_wrapsSum {m : Nat} {f : Nat → Nat → Nat → FRes} (hf : WrapsSum m f) (fuel : Nat) (l : List Nat) (k : Nat) (g : FlagSet)
    (hne : l ≠ []) (hlen : l.length ≤ 2 ^ fuel) (hl : ∀ x ∈ l, x < m) : treeReduce f fuel l k g = (l.sum % m, g) := by
  induction fuel generalizing l k with
  | zero =>
    obtain ⟨x, rfl⟩ := List.length_eq_one_iff.mp (Nat.le_antisymm hlen (List.length_pos_iff.mpr hne))
    simp [treeReduce, Nat.mod_eq_of_lt (hl x List.mem_cons_self)]
  | succ fuel ih =>
    match l, hne with
    | [x], _ => simp [treeReduce, Nat.mod_eq_of_lt (hl x List.mem_cons_self)]
    | x :: y :: r, _ =>
      obtain ⟨l', k', hlevel, hlen', hlt, hsum⟩ := treeLevel_of_wrapsSum hf (x :: y :: r) k g hl
      have hne' : l' ≠ [] := by
        rintro rfl
        simp only [List.length_nil, List.length_cons] at hlen'
        omega
      have hhalf : l'.length ≤ 2 ^ fuel := by
        rw [Nat.pow_succ] at hlen
        omega
      calc treeReduce f (fuel + 1) (x :: y :: r) k g = treeReduce f fuel l' k' g := by simp only [treeReduce, hlevel]
        _ = ((x :: y :: r).sum % m, g) := by rw [ih l' k' hne' hhalf hlt, hsum]

/-- Settles O18: the members by `vecInt`, case by case; the sum by induction on the levels of the tree. -/
theorem vectorIntegerElement : Obligations.VectorIntegerElement := by
  intro tab op f n signed mode u hf
  refine ⟨fun x y z v hx hy hv => vecElement_eq_of_vecInteger tab mode u hf hx hy hv, fun l hne hlen hl => ?_⟩
  have hadd : WrapsSum (2 ^ n) (fun _ x y => vecElement tab .rsum f f mode u x y 0) :=
    fun _ _ _ hx hy => vecElement_eq_of_vecInteger tab mode u hf hx hy rfl
  exact treeReduce_of_wrapsSum hadd 13 l 0 0 hne (Nat.le_trans hlen (by decide)) hl

/-! ## The INT8 product of a tile (13 R335, R340; 03 R97) -/

theorem intRead_byte (b : Byte) : intRead 8 true b.toNat = Spec.sx 8 b.toNat := by
  rw [intRead_signed (by decide), Nat.mod_eq_of_lt b.isLt]

/-- An element of one byte is that byte of the tile. -/
theorem tileElem_one (bs : List Byte) (k : Nat) : tileElem bs 1 k = (bs.getD k 0).toNat := by
  unfold tileElem
  rw [Nat.one_mul, List.take_one, List.head?_drop, List.getD_eq_getElem?_getD]
  cases bs[k]? <;> simp [leNat]

theorem tileElems_getD (bs : List Byte) (w : Nat) {k : Nat} (hk : k < 256) : (tileElems bs w).getD k 0 = tileElem bs w k := by
  simp [tileElems, hk]

/-- The integer update of one element: the old value plus the dot product of the row and the column, wrapped. -/
theorem mmaElement_i8 (tab : K8Table) (old ea eb : Nat) (row col : List Nat) :
    mmaElement .i8 tab old row col ea eb =
      ⟨Spec.wrap 32 (Spec.sx 32 (old % 2 ^ 32) + (List.zipWith (fun x y => intRead 8 true x * intRead 8 true y) row col).sum), 0⟩ := by
  unfold mmaElement
  simp only [intBits_eq_wrap, intRead_signed (show 0 < 32 by decide), List.zip, List.map_zipWith, List.sum_eq_foldl]

theorem foldl_flags_eq_zero (rs : List FRes) (h : ∀ r ∈ rs, r.flags = 0) : rs.foldl (fun g r => g ||| r.flags) 0 = 0 := by
  induction rs with
  | nil => rfl
  | cons r rs ih =>
    obtain ⟨hr, hrs⟩ := List.forall_mem_cons.mp h
    rw [List.foldl_cons, hr]
    exact ih hrs

/-- Sixteen elements of a tile with elements of `w` bytes: its row `i`, or its column `i` where `byCol`. -/
def tileLine (bs : List Byte) (w : Nat) (byCol : Bool) (i : Nat) : List Nat :=
  (List.range 16).map (fun k => (tileElems bs w).getD (if byCol then 16 * k + i else 16 * i + k) 0)

/-- The element of a product at row `i` and column `j` (13 R335, R340). -/
theorem mmaTile_fst_getD (kind : MmaKind) (ta tb : Bool) (tab : K8Table) (sa sb : Quad) (old : List Nat) (a b : List Byte) {i j : Nat}
    (hi : i < 16) (hj : j < 16) :
    (mmaTile kind ta tb tab sa sb old a b).1.getD (16 * i + j) 0 =
      (mmaElement kind tab (old.getD (16 * i + j) 0) (tileLine a kind.bytes ta i) (tileLine b kind.bytes (!tb) j)
        (fld sa (8 * i) 8) (fld sb (8 * j) 8)).bits := by
  have hlt : 16 * i + j < 256 := by omega
  have hdiv : (16 * i + j) / 16 = i := by omega
  have hmod : (16 * i + j) % 16 = j := by omega
  cases tb <;> simp [mmaTile, tileLine, hlt, hdiv, hmod]

/-- Line `i` of a tile of signed bytes. -/
theorem tileLine_one_map_intRead (bs : List Byte) (byCol : Bool) {i : Nat} (hi : i < 16) :
    (tileLine bs 1 byCol i).map (intRead 8 true) =
      (List.range 16).map (fun k => Spec.sx 8 (bs.getD (if byCol then 16 * k + i else 16 * i + k) 0).toNat) := by
  unfold tileLine
  rw [List.map_map]
  refine List.map_congr_left fun k hk => ?_
  have hk16 : k < 16 := List.mem_range.mp hk
  have hlt : (if byCol then 16 * k + i else 16 * i + k) < 256 := by split <;> omega
  rw [Function.comp_apply, tileElems_getD bs 1 hlt, tileElem_one, intRead_byte]

theorem mmaTile_i8_flags (ta tb : Bool) (tab : K8Table) (sa sb : Quad) (old : List Nat) (a b : List Byte) :
    (mmaTile .i8 ta tb tab sa sb old a b).2 = 0 := by
  simp only [mmaTile]
  refine foldl_flags_eq_zero _ fun r hr => ?_
  obtain ⟨e, -, rfl⟩ := List.mem_map.mp hr
  rw [mmaElement_i8]

/-- Settles O19: an element is the dot product of a line of A and a line of B, each read as signed bytes. -/
theorem matrixIntegerProduct : Obligations.MatrixIntegerProduct := by
  intro tab ta tb sa sb old a b i j _ _ hi hj x
  refine ⟨?_, mmaTile_i8_flags ta tb tab sa sb old a b⟩
  have hdot : List.zipWith (fun x y => intRead 8 true x * intRead 8 true y) (tileLine a 1 ta i) (tileLine b 1 (!tb) j) =
      (List.range 16).map (fun k => (if ta then x a k i else x a i k) * (if tb then x b j k else x b k j)) := by
    rw [← List.zipWith_map, tileLine_one_map_intRead a ta hi, tileLine_one_map_intRead b (!tb) hj, List.zipWith_map, List.zipWith_self]
    cases ta <;> cases tb <;> rfl
  rw [mmaTile_fst_getD .i8 ta tb tab sa sb old a b hi hj, mmaElement_i8]
  exact congrArg (fun l : List Int => Spec.wrap 32 (Spec.sx 32 (old.getD (16 * i + j) 0 % 2 ^ 32) + l.sum)) hdot

end Sys2Proof.Machine

namespace Sys2Proof.Machine

/-! ## The member of a load as it is installed (06 R181) -/

/-- Five registers of a new member hold the launch's values; the others, c0 among them, read as zero. -/
theorem newMember_reg (b : Basket) (n l m core tid cycle : Nat) (r : RegNo) :
    (newMember b n l m core tid cycle).reg r =
      if r = 1 then Reg.ofWord (b.pkt.word 6) else if r = 2 then Reg.ofWord (b.pkt.word 7) else if r = 3 then Reg.ofNat l
      else if r = 4 then Reg.ofNat m else if r = 27 then b.pkt.data.withCursor (b.pkt.word 4) else Reg.zero := by
  by_cases h0 : r = 0
  · subst h0
    rfl
  · have hne : r.toNat ≠ 0 := fun h => h0 (BitVec.toNat_inj.mp h)
    have hlt : r.toNat < 32 := r.isLt
    simp [Thread.reg, newMember, hne, hlt, ← BitVec.toNat_inj]

/-- Settles O16: the registers by `newMember_reg`, the other fields as `newMember` sets them. -/
theorem installedMember : Obligations.InstalledMember := by
  intro b n l m core tid cycle
  have hreg := newMember_reg b n l m core tid cycle
  refine ⟨rfl, rfl, rfl, ⟨hreg 1, hreg 2, hreg 3, hreg 4, hreg 27⟩, fun r h1 h2 h3 h4 h27 => ?_, rfl, rfl, rfl, rfl, rfl, rfl, rfl, rfl, rfl, rfl, rfl,
    rfl, rfl, rfl⟩
  rw [hreg, if_neg h1, if_neg h2, if_neg h3, if_neg h4, if_neg h27]

/-! ## Watches of engines and local memory (06 R169, R175) -/

theorem tget_map {α β : Type} (t : Table α) (f : α → β) (k : Nat) : tget (t.map (fun x => (x.1, f x.2))) k = (tget t k).map f := by
  induction t with
  | nil => rfl
  | cons x r ih =>
    simp only [List.map_cons, tget, ih]
    split <;> rfl

/-- A core without the watch records that a test names. -/
def Core.without (k : Core) (gone : WatchRec → Bool) : Core :=
  { k with watches := if k.watches.any (fun w => w.recs.any gone) then
                        liveUnits (k.watches.map (fun w => { w with recs := w.recs.filter (fun r => !gone r) }))
                      else k.watches }

theorem State.cores_purgeRecords (s : State) (gone : WatchRec → Bool) :
    (s.purgeRecords gone).cores = s.cores.map (fun x => (x.1, x.2.without gone)) := rfl

theorem State.core_endWatch (s : State) (id c : Nat) :
    (s.endWatch id).core c = (s.core c).without (fun r => decide (r.tid = watcherTid id)) := by
  unfold State.core State.endWatch
  rw [State.cores_purgeRecords, tget_map s.cores (fun k => k.without _)]
  cases tget s.cores c <;> rfl

theorem State.allThreads_endWatch (s : State) (id : Nat) : (s.endWatch id).allThreads = s.allThreads := by
  simp [State.allThreads, State.endWatch, State.cores_purgeRecords, List.flatMap_map, Core.without]

theorem State.localFlat_endWatch (s : State) (id : Nat) (p : Place) (n : Nat) : (s.endWatch id).localFlat p n = s.localFlat p n := by
  cases p with
  | core _ _ | clu _ _ =>
    simp only [State.localFlat, State.core_endWatch]
    rfl
  | _ => rfl

theorem State.warmAt_endWatch (s : State) (id : Nat) (p : Place) : (s.endWatch id).warmAt p = s.warmAt p := by
  cases p with
  | core _ _ =>
    simp only [State.warmAt, State.core_endWatch]
    rfl
  | _ => rfl

theorem State.heldByOther_endWatch (s : State) (id : Nat) (me : Option Nat) (hit : Resv → Bool) :
    (s.endWatch id).heldByOther me hit = s.heldByOther me hit := by
  unfold State.heldByOther
  rw [State.allThreads_endWatch]
  rfl

theorem State.Here.endWatch {s : State} {core n : Nat} {a : Word} {fs : List Nat} (h : s.Here core a n fs) (id : Nat) :
    (s.endWatch id).Here core a n fs where
  form := h.form
  apart := h.apart
  flat := (s.localFlat_endWatch id _ n).trans h.flat
  plain := (s.warmAt_endWatch id _).trans h.plain
  sound := h.sound
  free := (s.heldByOther_endWatch id none _).trans h.free

/-- Memory that is here stays here while an engine gives its old watch up and takes a number for a new one. -/
theorem State.Here.rearmed {s : State} {core n : Nat} {a : Word} {fs : List Nat} (h : s.Here core a n fs) (w : Option Nat) :
    (s.dropWatch w).fresh.1.Here core a n fs := by
  have hdrop : (s.dropWatch w).Here core a n fs := by
    cases w with
    | none => exact h
    | some id => exact h.endWatch id
  exact ⟨hdrop.form, hdrop.apart, hdrop.flat, hdrop.plain, hdrop.sound, hdrop.free⟩

theorem State.bytesOf_rearmed (s : State) (w : Option Nat) (fs : List Nat) : (s.dropWatch w).fresh.1.bytesOf fs = s.bytesOf fs := by
  cases w <;> rfl

/-! ## An engine's accesses to local memory (01 R14 to R23) -/

section Local
variable {s : State} {core n : Nat} {a : Word} {fs : List Nat}

theorem State.Here.length_eq (h : s.Here core a n fs) : fs.length = n := by
  have hflat := h.flat
  unfold State.localFlat at hflat
  split at hflat
  · dsimp only at hflat
    split at hflat
    · cases hflat
    · split at hflat
      · rw [← Except.ok.inj hflat, List.length_map, List.length_range]
      · cases hflat
  · split at hflat
    · cases hflat
    · split at hflat
      · cases hflat
      · rw [← Except.ok.inj hflat, List.length_map, List.length_range]
  · cases hflat

theorem State.length_bytesOf (s : State) (fs : List Nat) : (s.bytesOf fs).length = fs.length := List.length_map _

/-- A place with flat addresses is a window of this module. -/
theorem State.Here.place (h : s.Here core a n fs) :
    (∃ c off, placeOf s.bridge.chip core a = .core c off) ∨ ∃ cl off, placeOf s.bridge.chip core a = .clu cl off := by
  have hflat := h.flat
  cases hp : placeOf s.bridge.chip core a with
  | core c off => exact .inl ⟨c, off, rfl⟩
  | clu cl off => exact .inr ⟨cl, off, rfl⟩
  | glob _ | far _ =>
    rw [hp] at hflat
    cases hflat

/-- A read is made at once and changes nothing. -/
theorem State.Here.engReadAs (h : s.Here core a n fs) (kind : TKind) {p : Party} (hp : p.core = core) (host : Bool) :
    s.engReadAs kind p a n host = (s, .ok (s.readLocal fs)) := by
  subst hp
  have hflat := h.flat
  have hplain := h.plain
  unfold State.engReadAs
  rw [h.form, h.apart]
  obtain ⟨c, off, hpl⟩ | ⟨cl, off, hpl⟩ := h.place <;>
    · rw [hpl] at hflat hplain
      simp [hpl, hflat, hplain, Machine.sound, h.sound]

/-- A write is made at once. -/
theorem State.Here.engWrite1 {bs : List Byte} (h : s.Here core a bs.length fs) {p : Party} (hp : p.core = core) (tag host raw : Bool) :
    s.engWrite1 p a bs tag host true raw = (s.writeLocal (placeOf s.bridge.chip core a) fs bs tag, .ok ()) := by
  subst hp
  have hflat := h.flat
  have hplain := h.plain
  unfold State.engWrite1 State.engChange
  simp only [Change.size]
  rw [h.form, h.apart]
  obtain ⟨c, off, hpl⟩ | ⟨cl, off, hpl⟩ := h.place <;>
    · rw [hpl] at hflat hplain
      simp [hpl, hflat, hplain, h.free, Change.stops, Change.after]

/-- One piece of a span that is read. -/
theorem State.Here.engReadFrom {b : Word} (h : s.Here core b n fs) {p : Party} (hp : p.core = core) {m off : Nat}
    (hb : a + BitVec.ofNat 64 off = b) (hn : chunkOf b m = n) (hm : m ≠ 0) (host : Bool) (fuel : Nat) (acc : List Byte) :
    s.engReadFrom p a host (fuel + 1) m off acc = s.engReadFrom p a host fuel (m - n) (off + n) (acc ++ s.bytesOf fs) := by
  have hread : s.engRead1 p b n host = (s, .ok (s.bytesOf fs, _)) := h.engReadAs .read hp host
  rw [State.engReadFrom, if_neg hm, hb, hn, hread]
  simp [State.length_bytesOf, h.length_eq]

theorem State.engReadFrom_nothing (s : State) (p : Party) (a : Word) (host : Bool) (fuel off : Nat) (acc : List Byte) :
    s.engReadFrom p a host fuel 0 off acc = (s, .ok acc, off) := by
  cases fuel <;> rfl

theorem chunkOf_eq {m : Nat} (h : a.toNat % 64 + m ≤ 64) : chunkOf a m = m := by
  unfold chunkOf
  omega

/-- A read within one line. -/
theorem State.Here.engRead_line (h : s.Here core a n fs) {p : Party} (hp : p.core = core) (hpos : n ≠ 0) (hline : a.toNat % 64 + n ≤ 64)
    (host : Bool) : s.engRead p a n host = (s, .ok (s.bytesOf fs)) := by
  have hfrom : s.engReadFrom p a host (n / 64 + 2) n 0 [] = (s, .ok (s.bytesOf fs), n) := by
    rw [h.engReadFrom hp (BitVec.add_zero a) (chunkOf_eq hline) hpos, Nat.sub_self, State.engReadFrom_nothing, Nat.zero_add, List.nil_append]
  simp [State.engRead, hfrom]

/-- A read of two whole lines. -/
theorem State.Here.engRead_two_lines {fs' : List Nat} (h : s.Here core a 64 fs) (h' : s.Here core (a + 64) 64 fs') {p : Party} (hp : p.core = core)
    (ha : a.toNat % 64 = 0) (host : Bool) : s.engRead p a 128 host = (s, .ok (s.bytesOf (fs ++ fs'))) := by
  have hfirst : chunkOf a 128 = 64 := by simp [chunkOf, ha]
  have hsecond : (a + 64).toNat % 64 + 64 ≤ 64 := by bv_omega
  have hfrom : s.engReadFrom p a host (128 / 64 + 2) 128 0 [] = (s, .ok (s.bytesOf fs ++ s.bytesOf fs'), 128) := by
    rw [h.engReadFrom hp (BitVec.add_zero a) hfirst (by decide), h'.engReadFrom hp rfl (chunkOf_eq hsecond) (by decide), State.engReadFrom_nothing,
      List.nil_append]
  simp [State.engRead, hfrom, State.bytesOf]

/-- A write within one line. -/
theorem State.Here.engWrite_line {bs : List Byte} (h : s.Here core a bs.length fs) {p : Party} (hp : p.core = core) (hbs : bs ≠ [])
    (hline : a.toNat % 64 + bs.length ≤ 64) (host raw : Bool) : s.engWrite p a bs host true raw = (s.put core a fs bs, .ok ()) := by
  have hwrite : s.engWrite1 p a bs false host true raw = (s.put core a fs bs, .ok ()) := h.engWrite1 hp false host raw
  simp [State.engWrite, State.engWriteFrom, hbs, chunkOf_eq hline, hwrite]

/-- An engine arms its watch where it can; the word is read. -/
theorem State.Here.engWatch (h : s.Here core a n fs) {p : Party} (hp : p.core = core) (depth : Nat) (host : Bool) (id : Nat) :
    ∃ s1, s.engWatch p depth a n host id = (s1, .ok (s.bytesOf fs)) := by
  unfold State.engWatch
  rw [h.engReadAs .watch hp host]
  exact ⟨_, rfl⟩

end Local

/-! ## A queue's descriptor (06 R167) -/

@[simp] theorem length_leBytes (n v : Nat) : (leBytes n v).length = n := by
  induction n generalizing v with
  | zero => rfl
  | succ n ih => simp [leBytes, ih]

/-- An aligned dword lies in one line. -/
theorem dword_in_line {a : Word} (ha : a.toNat % 8 = 0) : a.toNat % 64 + 8 ≤ 64 := by omega

theorem State.Here.descRead {s : State} {d : Queue} {off : Nat} {fs : List Nat} (h : s.Here 0 (d.addr + BitVec.ofNat 64 off) 8 fs)
    (ha : (d.addr + BitVec.ofNat 64 off).toNat % 8 = 0) : s.descRead d off = (s, .ok (leNat (s.bytesOf fs))) := by
  unfold State.descRead
  rw [h.engRead_line rfl (by decide) (dword_in_line ha)]

theorem State.Here.descWrite {s : State} {d : Queue} {off : Nat} {fs : List Nat} (h : s.Here 0 (d.addr + BitVec.ofNat 64 off) 8 fs)
    (ha : (d.addr + BitVec.ofNat 64 off).toNat % 8 = 0) (v : Nat) :
    s.descWrite d off v = (s.put 0 (d.addr + BitVec.ofNat 64 off) fs (leBytes 8 v), .ok ()) :=
  State.Here.engWrite_line (bs := leBytes 8 v) h rfl (by simp [leBytes]) (dword_in_line ha) true true

/-! ## The engine's events on a launch queue (06 R169, R170, R174, R175) -/

section Queues
variable {s : State} {n : Nat} {d : Queue}

/-- The watch on a host queue's write index is armed again and the index is taken. -/
theorem launchQueueWatch_of_engWatch {s1 : State} {bs : List Byte} (hq : tget s.queues n = some d) (hhost : d.isDevice = false)
    (hpower : s.steward.power = .aster) (hwatch : d.watch.any s.watching = false)
    (harm : (s.dropWatch d.watch).fresh.1.engWatch (rootParty d.part) 0 (d.addr + 0x20) 8 true (s.dropWatch d.watch).fresh.2 = (s1, .ok bs)) :
    exec (.launchQueueWatch n) s =
      .next (s1.setQueue n { d.take (leNat bs) with watch := some (s.dropWatch d.watch).fresh.2 }) := by
  have hgo : ¬(d.isDevice = true ∨ s.steward.power ≠ .aster ∨ d.watch.any s.watching = true) := by simp [hhost, hpower, hwatch]
  show execLaunchQueueWatch n s = _
  unfold execLaunchQueueWatch
  rw [hq]
  simp only [if_neg hgo, harm]

/-- A write index that a host may have published is taken. -/
theorem seen_take {w : Nat} (hlow : d.read ≤ w) (hhigh : w ≤ d.read + 2 ^ d.lslots) : (d.take w).seen = w := by
  simp [Queue.take, hlow, hhigh]

/-- A changed write-index word of a device queue gets the engine's count back. -/
theorem deviceQueueMirrorRestore_changed {s1 s2 : State} {w : Nat} (hq : tget s.queues n = some d) (hdev : d.isDevice = true)
    (hread : s.descRead d 0x20 = (s1, .ok w)) (hw : w ≠ d.count) (hwrite : s1.descWrite d 0x20 d.count = (s2, .ok ())) :
    exec (.deviceQueueMirrorRestore n) s = .next s2 := by
  show execDeviceQueueMirrorRestore n s = _
  unfold execDeviceQueueMirrorRestore
  simp [hq, hdev, hread, hw, hwrite]

/-- A write-index word that holds the engine's count is only read. -/
theorem deviceQueueMirrorRestore_same {s1 : State} (hq : tget s.queues n = some d) (hdev : d.isDevice = true)
    (hread : s.descRead d 0x20 = (s1, .ok d.count)) : exec (.deviceQueueMirrorRestore n) s = .next s1 := by
  show execDeviceQueueMirrorRestore n s = _
  unfold execDeviceQueueMirrorRestore
  simp [hq, hdev, hread]

/-- A packet that was read, with the advanced read index written, is accepted. -/
theorem packetAccept_of_engRead {s1 s2 : State} {bs : List Byte} (hq : tget s.queues n = some d) (hhead : d.head = none)
    (hnew : d.read < d.published) (hread : s.engRead (rootParty d.part) (d.slotAt d.read) 128 true = (s1, .ok bs))
    (hwrite : s1.descWrite d 0x28 (d.read + 1) = (s2, .ok ())) :
    exec (.packetAccept n) s = .next (s.acceptPacket s2 n d (packetWords bs)) := by
  have hgo : ¬(d.head.isSome = true ∨ d.published ≤ d.read) := by simp [hhead, hnew]
  show execPacketAccept n s = _
  unfold execPacketAccept
  rw [hq]
  simp only [if_neg hgo, hread, hwrite]

/-- A wait cell that has reached the basket's threshold ends the wait and the watch. -/
theorem basketWaitMet_of_engWatch {h : HeadBasket} {b : Basket} {s1 : State} {bs : List Byte} (hq : tget s.queues n = some d)
    (hhead : d.head = some h) (hwait : h.waiting = true) (hwatch : h.watch.any s.watching = false) (hb : tget s.baskets h.basket = some b)
    (harm : (s.dropWatch h.watch).fresh.1.engWatch (rootParty b.part) 0 (b.pkt.word 10) 8 b.pkt.data.hostBit (s.dropWatch h.watch).fresh.2 = (s1, .ok bs))
    (hmet : (b.pkt.word 11).toNat ≤ leNat bs) :
    exec (.basketWaitMet n) s =
      .next ((s1.endWatch (s.dropWatch h.watch).fresh.2).setQueue n { d with head := some { h with waiting := false, watch := none } }) := by
  show execBasketWaitMet n s = _
  unfold execBasketWaitMet
  simp [hq, hhead, hwait, hwatch, hb, harm, hmet]

end Queues

/-! ## `qpub` (06 R171) -/

/-- The operands that pass `qpub`'s checks. -/
structure QpubPasses (t : Thread) (a b c : RegNo) : Prop where
  cell : Spec.okCell (t.reg c)
  queue : Spec.okOperand (t.reg a) (permST ||| permENG) 64
  queueAligned : (t.reg a).lo.toNat % 64 = 0
  image : Spec.okOperand (t.reg b) (permLD ||| permENG) 128
  imageAligned : (t.reg b).lo.toNat % 64 = 0
  unversioned : t.hid = 0 ∨ (t.reg c).unv = true

theorem opCap_of_okOperand {r : Reg} {p : BitVec 14} {m : Nat} (h : Spec.okOperand r p m) : opCap r p m = none :=
  (opCap_eq_none r p m).mpr ((capCause_eq_none r p _ m).mpr h.1)

theorem opPlace_of_okOperand {r : Reg} {p : BitVec 14} {m : Nat} (h : Spec.okOperand r p m) : opPlace r m = none :=
  (opPlace_eq_none r m).mpr h.2

theorem checkCell_of_okCell {r : Reg} (h : Spec.okCell r) : checkCell r = none := by
  obtain ⟨⟨hcap, hform, hagent⟩, halign⟩ := h
  exact (checkCell_eq_none r).mpr ⟨(capCause_eq_none r _ _ 16).mpr hcap, halign, hform, hagent⟩

section Qpub
variable {s : State} {t : Thread} {a b c : RegNo} {x : Cx} {n : Nat} {d : Queue}

/-- A `qpub` on a registered queue whose lane is free is applied to that queue. -/
theorem exec_qpub (hi : s.Issues t (.qpub a b c x)) (hrel : Spec.okRel x t) (hpass : QpubPasses t a b c) (href : s.refuted t.part t.hid = false)
    (hq : s.queueAt t.part (t.reg a).lo = some (n, d)) (hlane : s.laneBusy ((t.cmd s.cur x (t.reg c)).inQueue (t.reg a).lo).lane = false) :
    exec (.qpub a b c x) s = .next (s.finish (.qpub a b c x) t
      (s.publish s t ((t.cmd s.cur x (t.reg c)).inQueue (t.reg a).lo) n d (t.reg b) (s.basketOf t))) := by
  have hchecks : firstOf [checkCell (t.reg c), opCap (t.reg a) (permST ||| permENG) 64, opAlign (t.reg a) 64, opCap (t.reg b) (permLD ||| permENG) 128,
      opAlign (t.reg b) 64, opPlace (t.reg a) 64, opPlace (t.reg b) 128, cellUnv t.hid (t.reg c)] = none := by
    rw [checkCell_of_okCell hpass.cell, opCap_of_okOperand hpass.queue, (opAlign_eq_none _ _).mpr hpass.queueAligned,
      opCap_of_okOperand hpass.image, (opAlign_eq_none _ _).mpr hpass.imageAligned, opPlace_of_okOperand hpass.queue,
      opPlace_of_okOperand hpass.image, (cellUnv_eq_none _ _).mpr hpass.unversioned]
    rfl
  have heff : s.inLane ((t.cmd s.cur x (t.reg c)).inQueue (t.reg a).lo) (fun _ => s.qpubEff a b c x (s.basketOf t) t) =
      s.publish s t ((t.cmd s.cur x (t.reg c)).inQueue (t.reg a).lo) n d (t.reg b) (s.basketOf t) := by
    simp [State.inLane, hlane, State.qpubEff, href, Reg.cursor, hq]
  show execQpub a b c x s = _
  unfold execQpub
  rw [State.command_pass hi hrel hchecks]
  exact congrArg (fun e => Host.Outcome.next (s.finish (.qpub a b c x) t e)) heff

theorem publish_full (s0 : State) (cmd : Cmd) (r : Reg) (parent : Option Nat) (hdev : d.isDevice = true) (hfull : d.count - d.read = 2 ^ d.lslots) :
    s0.publish s t cmd n d r parent = .retire (s.complete cmd 0x81) := by
  simp [State.publish, hdev, hfull]

/-- With room, the image is copied into the slot, and the count and its mirror rise. -/
theorem publish_room (s0 : State) {cmd : Cmd} {r : Reg} {s1 s2 s3 : State} {img : List Byte} (hdev : d.isDevice = true)
    (hroom : d.count - d.read ≠ 2 ^ d.lslots) (hread : s.engRead cmd.party r.lo 128 r.hostBit = (s1, .ok img))
    (hprio : (imgWord img 0).toNat / 2 ^ 38 % 4 ≤ t.ceil)
    (hslot : s1.engWrite (rootParty d.part) (d.slotAt d.count) img true true true = (s2, .ok ()))
    (hmirror : s2.descWrite d 0x20 (d.count + 1) = (s3, .ok ())) :
    s0.publish s t cmd n d r none =
      .retire ((s3.setQueue n { d with count := d.count + 1 }).complete cmd (statusWord 0 0 (d.count % 2 ^ 48))) := by
  have hread' : s.engRead cmd.party r.cursor 128 r.hostBit = (s1, .ok img) := hread
  unfold State.publish
  rw [if_neg (by simp [hdev]), if_neg hroom, hread']
  simp only [if_neg (Nat.not_lt.mpr hprio), hslot, hmirror]

end Qpub

/-- Settles O17: each event by its own equation; where the words are in local memory, what the equation asks of the accesses holds. -/
theorem launchQueues : Obligations.LaunchQueues := by
  intro s n d hq
  refine ⟨fun hhost hpower hwatch => ⟨fun s1 bs harm => launchQueueWatch_of_engWatch hq hhost hpower hwatch harm, fun fs hfs _ => ?_⟩,
    fun hdev => ⟨fun s1 w s2 hread hw hwrite => deviceQueueMirrorRestore_changed hq hdev hread hw hwrite, fun fs hfs ha => ?_⟩,
    fun hhead hnew => ⟨fun s1 bs s2 hread hwrite => packetAccept_of_engRead hq hhead hnew hread hwrite, fun fs fs' gs hfs hfs' halign hgs ha => ?_⟩,
    fun h b hhead hwait hwatch hb => ⟨fun s1 bs harm hmet => basketWaitMet_of_engWatch hq hhead hwait hwatch hb harm hmet, fun fs hfs _ hmet => ?_⟩,
    fun a b c x t hi hrel hcell hqueue hqueueAl himg himgAl hunv href hat hdev => ?_⟩
  · obtain ⟨s1, harm⟩ := (hfs.rearmed d.watch).engWatch (p := rootParty d.part) rfl 0 true (s.dropWatch d.watch).fresh.2
    rw [State.bytesOf_rearmed] at harm
    exact ⟨s1, launchQueueWatch_of_engWatch hq hhost hpower hwatch harm, seen_take⟩
  · have hread : s.descRead d 0x20 = (s, .ok (leNat (s.bytesOf fs))) := hfs.descRead ha
    by_cases hw : leNat (s.bytesOf fs) = d.count
    · rw [if_pos hw]
      exact deviceQueueMirrorRestore_same hq hdev (hw ▸ hread)
    · rw [if_neg hw]
      exact deviceQueueMirrorRestore_changed hq hdev hread hw (hfs.descWrite ha d.count)
  · exact packetAccept_of_engRead hq hhead hnew (hfs.engRead_two_lines hfs' rfl halign true) (hgs.descWrite ha (d.read + 1))
  · obtain ⟨s1, harm⟩ := (hfs.rearmed h.watch).engWatch (p := rootParty b.part) rfl 0 b.pkt.data.hostBit (s.dropWatch h.watch).fresh.2
    rw [State.bytesOf_rearmed] at harm
    exact ⟨_, basketWaitMet_of_engWatch hq hhead hwait hwatch hb harm hmet⟩
  · intro cmd hlane
    have hexec := exec_qpub hi hrel ⟨hcell, hqueue, hqueueAl, himg, himgAl, hunv⟩ href hat hlane
    refine ⟨fun hfull => ?_, fun s1 img s2 s3 hroom hread hprio hslot hmirror hnone => ?_⟩
    · rw [hexec, publish_full s cmd (t.reg b) (s.basketOf t) hdev hfull]
    · rw [hexec, hnone, publish_room s hdev hroom hread hprio hslot hmirror]

end Sys2Proof.Machine
